-- ==== Sys2Proof/Word.lean ====
section
/-! DEFINITION. The word types of the AN-460 and the fixed-length vectors its numbered blocks stand in. -/

namespace Sys2Proof

/-- One byte of a frame, a packet, a stream unit or the segment store. -/
abbrev Byte := BitVec 8

/-- One 10-bit picture sample, 0 to 1,023 (R22). -/
abbrev Sample10 := BitVec 10

/-- One 24-bit signed sound sample, as a slot carries it (R81). -/
abbrev Sample24 := BitVec 24

/-- A vector with element `i` replaced. -/
def Vec.put {α : Type} {n : Nat} (v : Vector α n) (i : Fin n) (x : α) : Vector α n :=
  v.set i.1 x i.2

/-- The vector whose element `i` is `f i`. -/
def Vec.tab {α : Type} {n : Nat} (f : Fin n → α) : Vector α n :=
  Vector.ofFn f

end Sys2Proof
end

