-- ==== Sys2Proof/Config.lean ====
section
/-! DEFINITION. The fixed figures of the part, and the free values: the orders that the spec leaves open
inside one event, and one value that it does not give. A free value is a constant without a body, so no proof can rest on a choice. -/

namespace Sys2Proof.Config

/-- The model's unit of time is 1/375,000,000 s (8/3 ns): every nominal period of R1, 1 ms and the 8 ns of R126 are
whole numbers of it (log entry 2). -/
def unitsPerSecond : Nat := 375000000

/-- Bytes of one segment (R105). -/
def segmentBytes : Nat := 262144

/-- Segments of the store (R105). -/
def segmentCount : Nat := 4096

/-- Largest payload of a PICTURE or CLIP packet (R149). -/
def maxPayload : Nat := 1280

/-- Length in bits of a probe packet (R134, R135). -/
def probeBits : Nat := 8416

/-- Length in bits of the longest live packet (R134). -/
def fullPacketBits : Nat := 10464

/-- Live (PICTURE) entries the resend window holds (R151). -/
def maxLiveEntries : Nat := 6144

/-- Reliable (LABEL and CLIP) entries the resend window holds (R151). -/
def maxReliableEntries : Nat := 2048

/-- Send numbers the abandoned list holds (R165). -/
def maxAbandoned : Nat := 1024

/-- Requests, replies and notices that may wait (R202, R205). -/
def maxRequests : Nat := 16
def maxReplies : Nat := 32
def maxNotices : Nat := 32

/-- Clip records (R175). -/
def clipCount : Nat := 64

/-- Samples of silence a framing buffer starts with (R97). -/
def framerLead : Nat := 16

/-- Samples of the longest delay line and of a framing buffer (R93, R97). -/
def lineSamples : Nat := 8192

/-- FREE VALUE (R107, log entry 7): at the picture tick that carries picture `n`, whether the retention release of
R114 is taken before the tick's units are written, or after. R107 lets either come first. -/
opaque retentionFirst : Nat → Bool

/-- FREE VALUE (log entry 8): at the pacing tick with count `n`, whether the age expiries of R169 are taken before
the silence expiries of R144, or after. The spec orders neither. -/
opaque ageBeforeSilence : Nat → Bool

/-- FREE VALUE (log entry 35): what the byte at stream offset `n` of a label reads as in an in timecode, where the
segment that held the byte has been freed and the head's segment has not. R178 gives no value. -/
opaque freedLabelByte : Nat → Byte

/-- FREE VALUE (log entry 30): whether a LOAD_TABLE whose body has a wrong length and whose table letter is above 1 is
refused for its letter, as R54 orders the checks, or for its length, as R203 does. The two rules differ. -/
opaque tableLetterFirst : Bool

end Sys2Proof.Config
end

