-- ==== Sys2Proof/Syntax.lean ====
section
/-! DEFINITION. The commands of the AN-460: one constructor of `Instr` for each row of spec/opcode_table.json, with
the values the host, a media source, a modem or the part's own clock gives with it. A request row carries the frame's
tag and the raw field values of its body (R212); they are checked by the request's own rule. -/

namespace Sys2Proof

/-- A timecode label: hours, minutes, seconds and pictures (R5). -/
structure Timecode where
  hours : Nat
  minutes : Nat
  seconds : Nat
  pictures : Nat
  deriving DecidableEq, Repr

/-- The record of a program, field by field as the table of R10 lists them. -/
structure ProgramRecord where
  port : Nat
  width : Nat
  height : Nat
  table : Nat
  chromaOffset : Int
  qmin : Nat
  qstart : Nat
  qmax : Nat
  buffer : Nat
  ceiling : Nat
  minRate : Nat
  maxRate : Nat
  weight : Nat
  buses : List Nat
  soundWidth : Nat
  retention : Nat
  hold : Nat
  slateY : Nat
  slateCb : Nat
  slateCr : Nat
  deriving DecidableEq, Repr

/-- One entry of a code table: a code length and a code value, as LOAD_TABLE gives them (R42, R54). -/
structure CodeEntry where
  length : Nat
  value : Nat
  deriving DecidableEq, Repr

/-- The commands. `t`, where a row carries it, is the time at which the step is taken, in units of
1/375,000,000 s since the end of the last hard reset (log entry 2). -/
inductive Instr where
  | hardReset
  | linkReady
  | inboundFrame (t : Nat) (bytes : List Byte)
  | unknownKind (tag kind : Byte)
  | outboundFrameSent (t : Nat)
  | setStation (t : Nat) (tag : Byte) (rate drop : Nat)
  | setTimecode (tag : Byte) (label : Timecode)
  | readTimebase (tag : Byte)
  | configureProgram (tag : Byte) (program : Nat) (record : ProgramRecord)
  | setRateLimits (tag : Byte) (program minRate maxRate weight : Nat)
  | start (tag : Byte) (mask : Nat)
  | stop (tag : Byte) (program : Nat)
  | abort (tag : Byte) (program : Nat)
  | programStatus (tag : Byte) (program : Nat)
  | setSlate (tag : Byte) (program y cb cr hold : Nat)
  | readPicturePort (tag : Byte) (port : Nat)
  | loadTable (tag : Byte) (table : Nat) (entries : List CodeEntry)
  | selectTable (tag : Byte) (program table : Nat)
  | readTable (tag : Byte) (table : Nat)
  | readBudget (tag : Byte)
  | configureSlotPort (tag : Byte) (port count : Nat)
  | enableSlotPort (tag : Byte) (port : Nat)
  | disableSlotPort (tag : Byte) (port : Nat)
  | readSlotPort (tag : Byte) (port : Nat)
  | bindInput (tag : Byte) (input : Nat) (binding : Option (Nat × Nat))
  | setGain (tag : Byte) (input bus gain ramp : Nat)
  | setBus (tag : Byte) (bus delay seed : Nat)
  | setMonitor (tag : Byte) (left right : Nat)
  | readMixer (tag : Byte) (bus clear : Nat)
  | setRetention (tag : Byte) (program retention : Nat)
  | setReserve (tag : Byte) (reserve : Nat)
  | readStore (tag : Byte)
  | readSegment (tag : Byte) (segment position : Nat)
  | readChain (tag : Byte) (program position : Nat)
  | configurePath (tag : Byte) (path ceiling initial burst repairShare probeRate : Nat)
  | enablePath (tag : Byte) (path : Nat)
  | disablePath (tag : Byte) (path : Nat)
  | setUplink (tag : Byte) (headroom labelReserve clipFloor silence threshold forget : Nat)
  | readPath (tag : Byte) (path : Nat)
  | readUplink (tag : Byte)
  | setDelivery (tag : Byte) (deadline guard : Nat)
  | readWindow (tag : Byte)
  | markIn (tag : Byte) (program selector value yieldable : Nat)
  | markOut (tag : Byte) (program selector value : Nat)
  | setMarkLine (tag : Byte) (line : Nat) (binding : Option Nat) (preRoll yieldable : Nat)
  | setLabel (tag : Byte) (clip : Nat) (text : List Byte) (tags : List Byte) (rating yieldable : Nat)
  | ship (tag : Byte) (clip : Nat)
  | cancelShip (tag : Byte) (clip : Nat)
  | release (tag : Byte) (clip : Nat)
  | readClip (tag : Byte) (clip : Nat)
  | listClips (tag : Byte)
  | status (tag : Byte) (mask : Nat)
  | subscribe (tag : Byte) (mask : Nat)
  | identify (tag : Byte)
  | restart (tag : Byte)
  | referencePulse (t : Nat)
  | dueTick
  | referenceLossExpiry
  | pacingTick
  | allocationTick
  | startOfPictureMarker (port : Fin 4)
  | portLossExpiry (port : Fin 4)
  | lineTaken (port : Fin 4) (y cb cr : List Sample10)
  | closeLimit (program : Fin 4)
  | sliceCoded (program : Fin 4)
  | tableCheckEnd (table : Fin 2)
  | slot (port : Fin 4) (marker : Bool) (sample : Sample24)
  | slotSilenceExpiry (port : Fin 4)
  | sampleTick
  | retentionRelease
  | endOfWriting (program : Fin 4)
  | drainComplete (program : Fin 4)
  | carrierGained (path : Fin 6)
  | carrierLost (path : Fin 6)
  | frameSent (path : Fin 6)
  | silenceExpiry (path : Fin 6)
  | report (path : Fin 6) (frame : List Byte)
  | entryAgeExpiry (send : Nat)
  | clipStartShipping
  | shippingComplete
  | periodEnd (program : Fin 4)
  | markLinePress (line : Fin 2)
  deriving DecidableEq, Repr

end Sys2Proof
end

