-- ==== Sys2Proof/WellFormed.lean ====
section
/-! DEFINITION. Well-formed commands: every operand lies in the width that R212 gives its field, so that a frame can
carry it; a list fits its count byte; a table load has 130 entries (R54). The range that a request's own rule asks is
not part of this: a request out of range is answered with a status (R204). A line carries one Cb and one Cr sample with each
pair of its luma samples; that it may carry an odd number of luma samples, the last of them in no pair and so without
chroma, is the model's choice (R22; log entry 38). -/

namespace Sys2Proof

/-- A number of 1, 2 or 4 bytes (R212). -/
def fits8 (n : Nat) : Bool := decide (n < 256)
def fits16 (n : Nat) : Bool := decide (n < 65536)
def fits32 (n : Nat) : Bool := decide (n < 4294967296)

/-- A two's complement byte (R212). -/
def fitsSigned8 (x : Int) : Bool := decide (-128 ≤ x) && decide (x < 128)

/-- A list fits its count byte (R212). -/
def fitsList {α : Type} (l : List α) : Bool := decide (l.length < 256)

/-- A timecode label, one byte each (R212). -/
def Timecode.wf (t : Timecode) : Bool := fits8 t.hours && fits8 t.minutes && fits8 t.seconds && fits8 t.pictures

/-- A code entry: a 1-byte length and a 2-byte value (R212). -/
def CodeEntry.wf (e : CodeEntry) : Bool := fits8 e.length && fits16 e.value

/-- A program's record (R10, R212). -/
def ProgramRecord.wf (r : ProgramRecord) : Bool :=
  fits8 r.port && fits16 r.width && fits16 r.height && fits8 r.table && fitsSigned8 r.chromaOffset && fits8 r.qmin
    && fits8 r.qstart && fits8 r.qmax && fits16 r.buffer && fits8 r.ceiling && fits32 r.minRate && fits32 r.maxRate
    && fits8 r.weight && fitsList r.buses && r.buses.all fits8 && fits8 r.soundWidth && fits16 r.retention
    && fits8 r.hold && fits16 r.slateY && fits16 r.slateCb && fits16 r.slateCr

/-- A kind that names no request (R203, R212). -/
def isUnknownKind (k : Byte) : Bool := k.toNat == 0 || decide (50 < k.toNat)

/-- A well-formed command. -/
def Instr.wf : Instr → Bool
  | .hardReset => true
  | .linkReady => true
  | .inboundFrame _ _ => true
  | .unknownKind _ kind => isUnknownKind kind
  | .outboundFrameSent _ => true
  | .setStation _ _ rate drop => fits8 rate && fits8 drop
  | .setTimecode _ label => label.wf
  | .readTimebase _ => true
  | .configureProgram _ program record => fits8 program && record.wf
  | .setRateLimits _ program minRate maxRate weight => fits8 program && fits32 minRate && fits32 maxRate && fits8 weight
  | .start _ mask => fits8 mask
  | .stop _ program => fits8 program
  | .abort _ program => fits8 program
  | .programStatus _ program => fits8 program
  | .setSlate _ program y cb cr hold => fits8 program && fits16 y && fits16 cb && fits16 cr && fits8 hold
  | .readPicturePort _ port => fits8 port
  | .loadTable _ table entries => fits8 table && entries.length == 130 && entries.all CodeEntry.wf
  | .selectTable _ program table => fits8 program && fits8 table
  | .readTable _ table => fits8 table
  | .readBudget _ => true
  | .configureSlotPort _ port count => fits8 port && fits8 count
  | .enableSlotPort _ port => fits8 port
  | .disableSlotPort _ port => fits8 port
  | .readSlotPort _ port => fits8 port
  | .bindInput _ input none => fits8 input
  | .bindInput _ input (some (p, q)) => fits8 input && fits8 p && fits8 q
  | .setGain _ input bus gain ramp => fits8 input && fits8 bus && fits16 gain && fits16 ramp
  | .setBus _ bus delay seed => fits8 bus && fits16 delay && fits16 seed
  | .setMonitor _ left right => fits8 left && fits8 right
  | .readMixer _ bus clear => fits8 bus && fits8 clear
  | .setRetention _ program retention => fits8 program && fits16 retention
  | .setReserve _ reserve => fits16 reserve
  | .readStore _ => true
  | .readSegment _ segment position => fits16 segment && fits16 position
  | .readChain _ program position => fits8 program && fits16 position
  | .configurePath _ path ceiling initial burst repairShare probeRate =>
    fits8 path && fits32 ceiling && fits32 initial && fits8 burst && fits8 repairShare && fits16 probeRate
  | .enablePath _ path => fits8 path
  | .disablePath _ path => fits8 path
  | .setUplink _ headroom labelReserve clipFloor silence threshold forget =>
    fits8 headroom && fits16 labelReserve && fits32 clipFloor && fits16 silence && fits8 threshold && fits8 forget
  | .readPath _ path => fits8 path
  | .readUplink _ => true
  | .setDelivery _ deadline guard => fits16 deadline && fits16 guard
  | .readWindow _ => true
  | .markIn _ program selector value yieldable => fits8 program && fits8 selector && fits32 value && fits8 yieldable
  | .markOut _ program selector value => fits8 program && fits8 selector && fits32 value
  | .setMarkLine _ line none preRoll yieldable => fits8 line && fits16 preRoll && fits8 yieldable
  | .setMarkLine _ line (some program) preRoll yieldable =>
    fits8 line && fits8 program && fits16 preRoll && fits8 yieldable
  | .setLabel _ clip text tags rating yieldable =>
    fits8 clip && fitsList text && fitsList tags && fits8 rating && fits8 yieldable
  | .ship _ clip => fits8 clip
  | .cancelShip _ clip => fits8 clip
  | .release _ clip => fits8 clip
  | .readClip _ clip => fits8 clip
  | .listClips _ => true
  | .status _ mask => fits32 mask
  | .subscribe _ mask => fits32 mask
  | .identify _ => true
  | .restart _ => true
  | .referencePulse _ => true
  | .dueTick => true
  | .referenceLossExpiry => true
  | .pacingTick => true
  | .allocationTick => true
  | .startOfPictureMarker _ => true
  | .portLossExpiry _ => true
  | .lineTaken _ y cb cr => cb.length == y.length / 2 && cr.length == y.length / 2
  | .closeLimit _ => true
  | .sliceCoded _ => true
  | .tableCheckEnd _ => true
  | .slot _ _ _ => true
  | .slotSilenceExpiry _ => true
  | .sampleTick => true
  | .retentionRelease => true
  | .endOfWriting _ => true
  | .drainComplete _ => true
  | .carrierGained _ => true
  | .carrierLost _ => true
  | .frameSent _ => true
  | .silenceExpiry _ => true
  | .report _ _ => true
  | .entryAgeExpiry send => fits32 send
  | .clipStartShipping => true
  | .shippingComplete => true
  | .periodEnd _ => true
  | .markLinePress _ => true

end Sys2Proof
end

