-- ==== Sys2Proof/Machine/State.lean ====
section
/-! DEFINITION. The state of the AN-460, block by block as the table of 00_scope.md section 1.2 names them, and its
value after hard reset. Fields marked "model's own" stand for nothing the spec names and are listed so in
INVENTORY.md. -/

namespace Sys2Proof.Machine

/-! ### Station timebase (R1 to R9) -/

/-- State of the station reference (R2, R3). -/
inductive RefState where
  | freeRun
  | locked
  deriving DecidableEq, Repr

/-- The station timebase (R1 to R9). -/
structure Timebase where
  /-- Time of the latest step that carries one, in units of 1/375,000,000 s since the end of the reset. -/
  now : Nat
  rate : Fin 8
  drop : Bool
  ref : RefState
  /-- Time of the last picture tick; the end of the reset while no tick has been made. -/
  lastTick : Nat
  due : Option Nat
  picture : Nat
  label : Timecode
  load : Option Timecode
  /-- Model's own: the label of the period that the last picture tick ended (R182). -/
  endedLabel : Timecode
  /-- Model's own: the retention of each program's record as the last picture tick found it, absent for an unconfigured
  program and before the first tick (R114; log entry 6). -/
  retentions : Vector (Option Nat) 4
  pacing : Nat
  divider : Nat
  /-- An allocation tick that the divider has made and that is not yet taken (R7; log entry 9). -/
  allocDue : Bool
  lossCount : Nat
  rephaseCount : Nat
  deriving DecidableEq, Repr

/-! ### Program controller (R10 to R21) -/

/-- State of a program (R12). -/
inductive ProgState where
  | idle
  | armed
  | running
  | draining
  deriving DecidableEq, Repr

/-- Why a program entered IDLE (R18). -/
inductive IdleCause where
  | stoppedArmed
  | drained
  | aborted
  | restarted
  deriving DecidableEq, Repr

/-- One program of the program controller (R10 to R21). -/
structure Program where
  st : ProgState
  record : Option ProgramRecord
  run : Nat
  streamOffset : Nat
  accumulator : Nat
  writingEnded : Bool
  /-- Picture of the release tick, the run's first picture (R118, R178); absent before the first release. -/
  firstPicture : Option Nat
  /-- The period in which the program entered DRAINING (R16, R180); absent in any other state. -/
  drainPicture : Option Nat
  deriving DecidableEq, Repr

/-! ### Picture intake (R22 to R36) -/

/-- A measured picture format: samples per line by lines (R22). -/
structure Format where
  samples : Nat
  lines : Nat
  deriving DecidableEq, Repr

/-- What a port has measured of its open picture: its start-of-line markers so far, the luma samples of its first
line, and whether every line so far carried that number (R22). -/
structure Measure where
  lines : Nat
  samples : Nat
  even : Bool
  deriving DecidableEq, Repr

/-- State of a picture port (R23). -/
inductive PortState where
  | noSignal
  | locking
  | locked
  deriving DecidableEq, Repr

/-- A port's last complete measurement, regular or not (R22). -/
inductive Measured where
  | regular (f : Format)
  | irregular
  deriving DecidableEq, Repr

/-- One picture port (R22 to R25). -/
structure PicturePort where
  st : PortState
  candidate : Option Format
  locked : Option Format
  lastMeasurement : Option Measured
  lastStart : Option Nat
  startSeen : Bool
  quiet : Nat
  extras : Nat
  losses : Nat
  /-- The picture being measured, absent when none is open. -/
  opened : Option Measure
  deriving DecidableEq, Repr

/-- One picture line as a program takes it (R28). -/
structure Line where
  y : List Sample10
  cb : List Sample10
  cr : List Sample10
  deriving DecidableEq, Repr

/-- An accepted picture whose last slice has not been handed: its number, the next line to take and the lines taken
of the slice being filled (R28, R29). -/
structure Taking where
  picture : Nat
  nextLine : Nat
  lines : List Line
  deriving DecidableEq, Repr

/-- A program's intake of pictures (R26 to R36). -/
structure Intake where
  taking : Option Taking
  /-- Whether the program accepted a picture for the current period (R30). -/
  accepted : Bool
  missing : Nat
  repeats : Nat
  slates : Nat
  shorts : Nat
  codedInRun : Bool
  mismatch : Option Format
  deriving DecidableEq, Repr

/-! ### Tile coder and rate loop (R37 to R52, R73 to R78) -/

/-- One item of a coder's list (R49). -/
inductive CoderItem where
  | head (picture : Nat) (label : Timecode)
  | slice (picture index : Nat) (lines : List Line)
  | repeated (picture : Nat)
  | slate (picture : Nat) (label : Timecode)
  deriving DecidableEq, Repr

/-- How the slice that is coding is coded: its luma index and its path (R48). -/
structure Coding where
  qi : Nat
  dcOnly : Bool
  deriving DecidableEq, Repr

/-- A program's tile coder (R49 to R52). -/
structure Coder where
  list : List CoderItem
  /-- Present while the slice at the front of the list is coding. -/
  coding : Option Coding
  /-- The picture whose unit the store last refused: the coder drops its later slices (R50). -/
  cut : Option Nat
  qi : Nat
  bitCount : Nat
  coded : Nat
  lastBits : Nat
  escaped : Nat
  dcSlices : Nat
  deriving DecidableEq, Repr

/-- A program's rate loop (R73 to R78). -/
structure RateLoop where
  share : Nat
  target : Nat
  sliceTarget : Nat
  bound : Nat
  fullness : Int
  cmax : Nat
  ceilings : Nat
  held : Bool
  /-- Whether a slice of the present coded picture went down the DC-only path by the ceiling (R77). -/
  struck : Bool
  deriving DecidableEq, Repr

/-- State of a code table (R53). -/
inductive TableState where
  | empty
  | checking
  | ready
  deriving DecidableEq, Repr

/-- Result of a completed check (R53, R55). -/
inductive CheckResult where
  | pass
  | outOfRange (entry : Nat)
  | ambiguous (i j : Nat)
  deriving DecidableEq, Repr

/-- One code table of the code table store (R42, R53). -/
structure CodeTable where
  st : TableState
  entries : List CodeEntry
  result : Option CheckResult
  deriving DecidableEq, Repr

/-! ### Budget allocator (R60 to R80) -/

/-- Why the allocator ran (R61). -/
inductive AllocCause where
  | allocationTick
  | pathState
  | programState
  | rateLimits
  | uplinkSettings
  | restart
  deriving DecidableEq, Repr

/-- The budget allocator: settings, outputs of the last run, counts (R60). -/
structure Allocator where
  headroom : Nat
  labelReserve : Nat
  clipFloor : Nat
  usable : Nat
  sound : Nat
  clipCounted : Nat
  video : Nat
  minSum : Nat
  shares : Vector Nat 4
  spare : Nat
  clipRate : Nat
  starved : Bool
  runs : Nat
  starvedCount : Nat
  cause : Option AllocCause
  deriving DecidableEq, Repr

/-! ### Sound intake, mixer and framer (R81 to R104) -/

/-- State of a sound slot port (R82). -/
inductive SlotState where
  | off
  | seeking
  | pending
  | aligned
  | unaligned
  deriving DecidableEq, Repr

/-- One sound slot port (R81 to R87). -/
structure SlotPort where
  st : SlotState
  count : Nat
  position : Option Nat
  lock : Nat
  /-- Slots of the frame being taken, in order (R83). -/
  partFrame : List Sample24
  /-- Complete frames held, oldest first (R83). -/
  buffer : List (List Sample24)
  lockLosses : Nat
  unaligneds : Nat
  deriving DecidableEq, Repr

/-- One gain cell (R90). -/
structure GainCell where
  current : Nat
  target : Nat
  remaining : Nat
  deriving DecidableEq, Repr

/-- One mixer bus: its 32 gain cells, its delay line (newest sample first), dither and counts (R90 to R96). -/
structure Bus where
  cells : Vector GainCell 32
  line : List Int
  delay : Nat
  pendingDelay : Option Nat
  seed : Nat
  genA : BitVec 17
  genB : BitVec 23
  saturations : Nat
  narrowings : Nat
  saturated : Bool
  deriving DecidableEq, Repr

/-- The mixer and the monitor port (R88 to R104). `monOut` is the pair of samples the monitor port last sent. -/
structure Mixer where
  bindings : Vector (Option (Nat × Nat)) 32
  buses : Vector Bus 8
  left : Fin 8
  right : Fin 8
  monOut : Int × Int
  deriving DecidableEq, Repr

/-- A program's sound framer: one buffer for each bus of its list, oldest sample first, and the last sample taken
for each bus in the run (R97 to R100). -/
structure Framer where
  filling : Bool
  buffers : List (List Int)
  lasts : List Int
  holds : Nat
  slips : Nat
  deriving DecidableEq, Repr

/-! ### Segment store (R105 to R125) -/

/-- What a mark of a segment records (R105). -/
inductive MarkKind where
  | head
  | repeated
  | sound
  deriving DecidableEq, Repr

/-- One mark: for a head or a REPEAT the offset of its unit, for a sound the offset just past it (R105). -/
structure Mark where
  kind : MarkKind
  picture : Nat
  offset : Nat
  deriving DecidableEq, Repr

/-- Model's own index of the unit headers that stand in a segment's bytes: where a unit lies and its picture. -/
structure UnitRef where
  offset : Nat
  length : Nat
  picture : Nat
  deriving DecidableEq, Repr

/-- The record of a segment that is OPEN or SEALED (R105). A FREE segment has no such record: its fields all hold
the reset values of R105, and its number stands on the free list. -/
structure Segment where
  number : Nat
  run : Nat
  first : Nat
  fill : Nat
  firstPicture : Option Nat
  lastPicture : Option Nat
  isSealed : Bool
  writer : Bool
  pendingSend : Bool
  refs : Nat
  retention : Bool
  pins : Nat
  marks : List Mark
  units : List UnitRef
  deriving DecidableEq, Repr

/-- What the store keeps for one program: its chain in taken order, its open-clip count, take count, cut picture
and cut count (R108, R118). -/
structure Chain where
  segs : List Segment
  openClips : Nat
  takes : Nat
  cut : Option Nat
  cuts : Nat
  deriving DecidableEq, Repr

/-- The store as a whole (R107, R117, R123). -/
structure Store where
  freeList : List Nat
  reserve : Nat
  pressure : Bool
  takes : Nat
  freed : Nat
  yields : Nat
  refused : Nat
  deriving DecidableEq, Repr

/-! ### Uplink paths and report receiver (R126 to R148) -/

/-- State of a path (R129). -/
inductive PathState where
  | off
  | down
  | probing
  | up
  | degraded
  deriving DecidableEq, Repr

/-- Cause of a PATH_STATE event (R132). -/
inductive PathCause where
  | enable
  | disable
  | carrierLost
  | carrierGained
  | probeAnswered
  | badReport
  | emptyReports
  | goodReports
  | silence
  deriving DecidableEq, Repr

/-- One path controller and its port (R126, R127). `port` holds the frame being sent, absent when idle. -/
structure Path where
  st : PathState
  estimate : Nat
  ceiling : Nat
  initial : Nat
  burst : Nat
  repairShare : Nat
  probeRate : Nat
  credit : Nat
  sequence : Nat
  repair : Nat
  probeNumber : Nat
  probeSince : Bool
  bitsSent : Nat
  bitsGranted : Nat
  packetsSent : Nat
  good : Nat
  bad : Nat
  silence : Nat
  carrier : Bool
  port : Option (List Byte)
  carrierLosses : Nat
  stateChanges : Nat
  goodReports : Nat
  badReports : Nat
  silences : Nat
  malformed : Nat
  deriving DecidableEq, Repr

/-- The report receiver and the uplink settings of R145 that are not the allocator's. -/
structure Uplink where
  lastReport : Option Nat
  accepted : Nat
  stale : Nat
  ignored : Nat
  silenceTimeout : Nat
  /-- The silence timeout that governs the silence timers: the one that stood at the last pacing tick (R144, R145). -/
  timeoutInForce : Nat
  badThreshold : Nat
  deriving DecidableEq, Repr

/-! ### Scheduler and resend window (R149 to R174) -/

/-- What a window entry carries and where it lies: its class, owner and place (R151). -/
inductive Place where
  | label (clip revision : Nat)
  | clip (clip program run segment offset length : Nat)
  | live (program run segment offset length : Nat)
  deriving DecidableEq, Repr

/-- One entry of the resend window (R151). -/
structure Entry where
  send : Nat
  place : Place
  path : Nat
  firstSent : Nat
  resends : Nat
  queued : Bool
  deriving DecidableEq, Repr

/-- The clip cursor (R162). -/
structure ClipCursor where
  clip : Nat
  program : Nat
  run : Nat
  out : Nat
  next : Nat
  deriving DecidableEq, Repr

/-- A program's live cursor, a run and a stream offset, and its live counts (R153, R172). `closing` says whether the
last unit written in the run is a closing unit (R154). -/
structure Live where
  cursor : Option (Nat × Nat)
  closing : Bool
  packets : Nat
  skips : Nat
  skippedBytes : Nat
  deriving DecidableEq, Repr

/-- The scheduler and the resend window (R150 to R172). -/
structure Scheduler where
  nextSend : Nat
  window : List Entry
  labelQueue : List Nat
  clipCursor : Option ClipCursor
  bucket : Nat
  lastServed : Fin 4
  deadline : Nat
  /-- Model's own: the deadline that stood at the last pacing tick, by which entries age (R169, R171; log entry 6). -/
  deadlineInForce : Nat
  guardMs : Nat
  abandoned : List Nat
  acked : Nat
  resent : Nat
  lateAcks : Nat
  displaced : Nat
  byAge : Nat
  byLoss : Nat
  byDisplacement : Nat
  /-- Model's own: which paths an event of this step lets ask (R157); all false between commands. -/
  asking : Vector Bool 6
  deriving DecidableEq, Repr

/-! ### Clip log and mark lines (R175 to R197) -/

/-- State of a clip that is not FREE (R175). -/
inductive ClipState where
  | opened
  | closing
  | closed
  | queued
  | shipping
  | shipped
  deriving DecidableEq, Repr

/-- Who made a clip (R175). -/
inductive ClipSource where
  | host
  | m0
  | m1
  deriving DecidableEq, Repr

/-- State of a clip's label (R175, R188). -/
inductive LabelState where
  | pending
  | sent
  | confirmed
  deriving DecidableEq, Repr

/-- A clip record that is not FREE (R175). `pinned` is the model's own: the numbers of the segments this clip holds
a pin on (R115, R179, R182). -/
structure Clip where
  st : ClipState
  program : Fin 4
  run : Nat
  creation : Nat
  source : ClipSource
  inPicture : Nat
  inTimecode : Timecode
  inOffset : Nat
  outPicture : Option Nat
  outTimecode : Option Timecode
  outOffset : Option Nat
  requestedOut : Option Nat
  shipAtClose : Bool
  text : List Byte
  tags : List Byte
  rating : Nat
  yieldable : Bool
  trimmed : Bool
  revision : Nat
  label : LabelState
  shipCursor : Option Nat
  pinned : List Nat
  deriving DecidableEq, Repr

/-- The clip log (R175, R184, R196): the records (absent is FREE), the ship queue, and its counts. -/
structure ClipLog where
  recs : Vector (Option Clip) 64
  shipQueue : List Nat
  nextCreation : Nat
  lastWritten : Vector (Option Nat) 4
  created : Nat
  trims : Nat
  confirmed : Nat
  shippedCount : Nat
  shipQueued : Nat
  homeAccepted : Nat
  homeRefused : Nat
  released : Nat
  yielded : Nat
  deriving DecidableEq, Repr

/-- One mark line (R185). -/
structure MarkLine where
  binding : Option Nat
  preRoll : Nat
  yieldable : Bool
  lastPress : Option Nat
  bounces : Nat
  refused : Nat
  presses : Nat
  deriving DecidableEq, Repr

/-! ### Control link (R198 to R211) -/

/-- The event kinds, in the order of the table of R206. -/
inductive EventKind where
  | referenceLost
  | referenceBack
  | inputLost
  | inputBack
  | formatMismatch
  | programIdle
  | ceiling
  | starved
  | portUnaligned
  | busSaturation
  | storePressure
  | pictureCut
  | pathState
  | clipTrimmed
  | clipShipped
  | clipYielded
  | homeRequestRefused
  | noticeLost
  deriving DecidableEq, Repr

/-- The statuses of a reply, in the order of the table of R204. -/
inductive Status where
  | done
  | accepted
  | unknownKind
  | badLength
  | outOfRange
  | wrongState
  | inUse
  | notReady
  | tableAmbiguous
  | noSuchClip
  | clipOpen
  | clipLogFull
  | queueFull
  deriving DecidableEq, Repr

/-- A made reply: the tag and kind of its request, and the parts of its body (R204, R213). -/
structure Reply where
  tag : Byte
  kind : Byte
  status : Status
  detail : Nat
  detail2 : Nat
  body : List Byte
  deriving DecidableEq, Repr

/-- A slot of the reply queue: a made reply, or the place a LOAD_TABLE has reserved for its table (R203, R205). -/
inductive ReplySlot where
  | made (r : Reply)
  | reserved (tag : Byte) (table : Nat)
  deriving DecidableEq, Repr

/-- A notice waiting to be sent (R206, R213); kind 255 is READY. -/
structure Notice where
  number : Nat
  kind : Nat
  picture : Nat
  pacing : Nat
  details : List Byte
  deriving DecidableEq, Repr

/-- A request as the request processor sees it (R203, R212): its kind's operands as sent, or why it names no request
of that kind. -/
inductive Request where
  | unknownKind (kind : Byte)
  | badLength (kind : Byte) (length : Nat)
  | setStation (rate drop : Nat)
  | setTimecode (label : Timecode)
  | readTimebase
  | configureProgram (program : Nat) (record : ProgramRecord)
  | setRateLimits (program minRate maxRate weight : Nat)
  | start (mask : Nat)
  | stop (program : Nat)
  | abort (program : Nat)
  | programStatus (program : Nat)
  | setSlate (program y cb cr hold : Nat)
  | readPicturePort (port : Nat)
  | loadTable (table : Nat) (entries : List CodeEntry)
  | selectTable (program table : Nat)
  | readTable (table : Nat)
  | readBudget
  | configureSlotPort (port count : Nat)
  | enableSlotPort (port : Nat)
  | disableSlotPort (port : Nat)
  | readSlotPort (port : Nat)
  | bindInput (input : Nat) (binding : Option (Nat × Nat))
  | setGain (input bus gain ramp : Nat)
  | setBus (bus delay seed : Nat)
  | setMonitor (left right : Nat)
  | readMixer (bus clear : Nat)
  | setRetention (program retention : Nat)
  | setReserve (reserve : Nat)
  | readStore
  | readSegment (segment position : Nat)
  | readChain (program position : Nat)
  | configurePath (path ceiling initial burst repairShare probeRate : Nat)
  | enablePath (path : Nat)
  | disablePath (path : Nat)
  | setUplink (headroom labelReserve clipFloor silence threshold forget : Nat)
  | readPath (path : Nat)
  | readUplink
  | setDelivery (deadline guardMs : Nat)
  | readWindow
  | markIn (program selector value yieldable : Nat)
  | markOut (program selector value : Nat)
  | setMarkLine (line : Nat) (binding : Option Nat) (preRoll yieldable : Nat)
  | setLabel (clip : Nat) (text : List Byte) (tags : List Byte) (rating yieldable : Nat)
  | ship (clip : Nat)
  | cancelShip (clip : Nat)
  | release (clip : Nat)
  | readClip (clip : Nat)
  | listClips
  | status (mask : Nat)
  | subscribe (mask : Nat)
  | identify
  | restart
  deriving DecidableEq, Repr

/-- An accepted request frame in the request queue (R202). -/
structure Waiting where
  tag : Byte
  req : Request
  deriving DecidableEq, Repr

/-- State of the frame receiver (R201). In HUNT, `inRun` says that a stray run has begun since the last start byte,
and `fresh` that the last byte ended a discarded frame. -/
inductive Receiver where
  | hunt (inRun fresh : Bool)
  | length (first : Option Byte)
  | content (length : Nat) (got : List Byte)
  | check (got : List Byte) (first : Option Byte)
  deriving DecidableEq, Repr

/-- The outbound frame in progress: whether it is a notice, the place of its slot in its queue, and the bytes clocked
out so far (R205). -/
structure Sending where
  isNotice : Bool
  index : Nat
  sent : Nat
  deriving DecidableEq, Repr

/-- The control link (R198 to R211). -/
structure Link where
  ready : Bool
  rx : Receiver
  requests : List Waiting
  replies : List ReplySlot
  notices : List Notice
  sending : Option Sending
  latches : Vector Bool 18
  raises : Vector Nat 18
  subscribed : Vector Bool 18
  noticeNumber : Nat
  lostSince : Nat
  linkErrors : Nat
  accepted : Nat
  queueFull : Nat
  droppedReplies : Nat
  lostNotices : Nat
  deriving DecidableEq, Repr

/-! ### The whole part -/

/-- The state of the AN-460. `mem` is the segment store's DRAM (byte `o` of segment `n` at `n × 262,144 + o`), in the
canonical form of Machine/Memory.lean. `pending` is the queue of commands waiting, first in, first out. -/
structure State where
  tb : Timebase
  progs : Vector Program 4
  ports : Vector PicturePort 4
  intakes : Vector Intake 4
  coders : Vector Coder 4
  loops : Vector RateLoop 4
  tables : Vector CodeTable 2
  alloc : Allocator
  slots : Vector SlotPort 4
  mixer : Mixer
  framers : Vector Framer 4
  store : Store
  chains : Vector Chain 4
  mem : List Host.Cell
  paths : Vector Path 6
  uplink : Uplink
  sched : Scheduler
  lives : Vector Live 4
  clips : ClipLog
  lines : Vector MarkLine 2
  link : Link
  pending : List Instr
  deriving DecidableEq, Repr

/-- Conditions that stop the machine. The spec names none: every request it cannot carry out is answered with a
status (R204), and every event it absorbs is counted or ignored. So no fault has a constructor. -/
inductive Fault where
  deriving DecidableEq, Repr

/-- Refusals. -/
inductive Refusal where
  /-- Raised by `exec` alone, for a command that has no meaning yet; safe. No arm raises it in this model. -/
  | notModelled (mnemonic : String)
  deriving DecidableEq, Repr

/-! ### Values after hard reset -/

/-- 00:00:00:00. -/
def timecodeZero : Timecode := ⟨0, 0, 0, 0⟩

/-- R1, R3, R4, R5, R7, R8: rate 25, FREE_RUN, the first tick due one P (15,000,000 units) after the reset. -/
def Timebase.reset : Timebase :=
  { now := 0, rate := 2, drop := false, ref := .freeRun, lastTick := 0, due := some 15000000, picture := 0,
    label := timecodeZero, load := some timecodeZero, endedLabel := timecodeZero,
    retentions := Vector.replicate 4 none, pacing := 0, divider := 0, allocDue := false, lossCount := 0, rephaseCount := 0 }

/-- R21. -/
def Program.reset : Program :=
  { st := .idle, record := none, run := 0, streamOffset := 0, accumulator := 0, writingEnded := false,
    firstPicture := none, drainPicture := none }

/-- R36. -/
def PicturePort.reset : PicturePort :=
  { st := .noSignal, candidate := none, locked := none, lastMeasurement := none, lastStart := none,
    startSeen := false, quiet := 2, extras := 0, losses := 0, opened := none }

/-- R36. -/
def Intake.reset : Intake :=
  { taking := none, accepted := false, missing := 0, repeats := 0, slates := 0, shorts := 0, codedInRun := false,
    mismatch := none }

/-- R52. -/
def Coder.reset : Coder :=
  { list := [], coding := none, cut := none, qi := 0, bitCount := 0, coded := 0, lastBits := 0, escaped := 0,
    dcSlices := 0 }

/-- R73, R77. -/
def RateLoop.reset : RateLoop :=
  { share := 0, target := 0, sliceTarget := 0, bound := 0, fullness := 0, cmax := 0, ceilings := 0, held := false,
    struck := false }

/-- R59. -/
def CodeTable.reset : CodeTable := { st := .empty, entries := [], result := none }

/-- R60, R80. -/
def Allocator.reset : Allocator :=
  { headroom := 14, labelReserve := 256, clipFloor := 0, usable := 0, sound := 0, clipCounted := 0, video := 0,
    minSum := 0, shares := Vector.replicate 4 0, spare := 0, clipRate := 0, starved := false, runs := 0,
    starvedCount := 0, cause := none }

/-- R87. -/
def SlotPort.reset : SlotPort :=
  { st := .off, count := 8, position := none, lock := 0, partFrame := [], buffer := [], lockLosses := 0,
    unaligneds := 0 }

/-- R103. -/
def GainCell.reset : GainCell := { current := 0, target := 0, remaining := 0 }

/-- R96, R103: bus `k`, its generators loaded for seed 0. -/
def Bus.reset (k : Fin 8) : Bus :=
  { cells := Vector.replicate 32 GainCell.reset, line := List.replicate Config.lineSamples 0, delay := 0,
    pendingDelay := none, seed := 0, genA := 1, genB := BitVec.ofNat 23 ((k.1 + 1) * 65536), saturations := 0,
    narrowings := 0, saturated := false }

/-- R101, R103. -/
def Mixer.reset : Mixer :=
  { bindings := Vector.replicate 32 none, buses := Vec.tab Bus.reset, left := 0, right := 1, monOut := (0, 0) }

/-- R100. -/
def Framer.reset : Framer := { filling := false, buffers := [], lasts := [], holds := 0, slips := 0 }

/-- R107, R117, R123, R125. -/
def Store.reset : Store :=
  { freeList := List.range Config.segmentCount, reserve := 128, pressure := false, takes := 0, freed := 0,
    yields := 0, refused := 0 }

/-- R125. -/
def Chain.reset : Chain := { segs := [], openClips := 0, takes := 0, cut := none, cuts := 0 }

/-- R127, R148. -/
def Path.reset : Path :=
  { st := .off, estimate := 0, ceiling := 50000, initial := 2000, burst := 10, repairShare := 32,
    probeRate := 1024, credit := 0, sequence := 0, repair := 0, probeNumber := 0, probeSince := false,
    bitsSent := 0, bitsGranted := 0, packetsSent := 0, good := 0, bad := 0, silence := 0, carrier := false,
    port := none, carrierLosses := 0, stateChanges := 0, goodReports := 0, badReports := 0, silences := 0,
    malformed := 0 }

/-- R145, R147, R148. -/
def Uplink.reset : Uplink :=
  { lastReport := none, accepted := 0, stale := 0, ignored := 0, silenceTimeout := 1000, timeoutInForce := 1000,
    badThreshold := 13 }

/-- R173. -/
def Scheduler.reset : Scheduler :=
  { nextSend := 1, window := [], labelQueue := [], clipCursor := none, bucket := 0, lastServed := 3,
    deadline := 400, deadlineInForce := 400, guardMs := 50, abandoned := [], acked := 0, resent := 0, lateAcks := 0, displaced := 0,
    byAge := 0, byLoss := 0, byDisplacement := 0,
    asking := Vector.replicate 6 false }

/-- R173. -/
def Live.reset : Live := { cursor := none, closing := false, packets := 0, skips := 0, skippedBytes := 0 }

/-- R197. -/
def ClipLog.reset : ClipLog :=
  { recs := Vector.replicate 64 none, shipQueue := [], nextCreation := 1, lastWritten := Vector.replicate 4 none,
    created := 0, trims := 0, confirmed := 0, shippedCount := 0, shipQueued := 0, homeAccepted := 0,
    homeRefused := 0, released := 0, yielded := 0 }

/-- R185. -/
def MarkLine.reset : MarkLine :=
  { binding := none, preRoll := 0, yieldable := false, lastPress := none, bounces := 0, refused := 0, presses := 0 }

/-- R199, R201, R211: the link right after the reset, before LINK_READY. -/
def Link.reset : Link :=
  { ready := false, rx := .hunt false false, requests := [], replies := [], notices := [], sending := none,
    latches := Vector.replicate 18 false, raises := Vector.replicate 18 0,
    subscribed := Vector.replicate 18 false, noticeNumber := 0, lostSince := 0, linkErrors := 0, accepted := 0,
    queueFull := 0, droppedReplies := 0, lostNotices := 0 }

/-- The part right after hard reset (R211 and the reset rules of every chapter). The carrier inputs read absent and
the memory lists nothing (log entries 3 and 4). -/
def State.reset : State :=
  { tb := Timebase.reset
    progs := Vector.replicate 4 Program.reset
    ports := Vector.replicate 4 PicturePort.reset
    intakes := Vector.replicate 4 Intake.reset
    coders := Vector.replicate 4 Coder.reset
    loops := Vector.replicate 4 RateLoop.reset
    tables := Vector.replicate 2 CodeTable.reset
    alloc := Allocator.reset
    slots := Vector.replicate 4 SlotPort.reset
    mixer := Mixer.reset
    framers := Vector.replicate 4 Framer.reset
    store := Store.reset
    chains := Vector.replicate 4 Chain.reset
    mem := []
    paths := Vector.replicate 6 Path.reset
    uplink := Uplink.reset
    sched := Scheduler.reset
    lives := Vector.replicate 4 Live.reset
    clips := ClipLog.reset
    lines := Vector.replicate 2 MarkLine.reset
    link := Link.reset
    pending := [] }

end Sys2Proof.Machine
end

