-- ==== Sys2Proof/Machine/Ops.lean ====
section
/-! DEFINITION. The named operations over the state: one reader and one update for each block, and the counting and
comparing conventions of 00_scope.md sections 3.3 and 3.4. -/

namespace Sys2Proof.Machine

/-! ### Counting and comparing -/

/-- A count that stops at 65,535. -/
def incSat16 (n : Nat) : Nat := min (n + 1) 65535

/-- A 32-bit count that wraps. -/
def incWrap32 (n : Nat) : Nat := (n + 1) % 2 ^ 32

/-- A 16-bit count that wraps. -/
def incWrap16 (n : Nat) : Nat := (n + 1) % 2 ^ 16

/-- An 8-bit count that wraps. -/
def incWrap8 (n : Nat) : Nat := (n + 1) % 2 ^ 8

/-- A 48-bit count raised by `k`. -/
def addWrap48 (n k : Nat) : Nat := (n + k) % 2 ^ 48

/-- (a - b) mod 2^32. -/
def diff32 (a b : Nat) : Nat := (a % 2 ^ 32 + 2 ^ 32 - b % 2 ^ 32) % 2 ^ 32

/-- (a - b) mod 2^16. -/
def diff16 (a b : Nat) : Nat := (a % 2 ^ 16 + 2 ^ 16 - b % 2 ^ 16) % 2 ^ 16

/-- `a` is newer than `b`, for 32-bit serial numbers (00_scope.md 3.4). -/
def newer32 (a b : Nat) : Bool := decide (1 ≤ diff32 a b) && decide (diff32 a b ≤ 2 ^ 31 - 1)

/-- `a` is newer than `b`, for 16-bit report numbers (00_scope.md 3.4). -/
def newer16 (a b : Nat) : Bool := decide (1 ≤ diff16 a b) && decide (diff16 a b ≤ 32767)

/-- `a` is at or below `b`, for 32-bit serial numbers (00_scope.md 3.4). -/
def atOrBelow32 (a b : Nat) : Bool := a == b || newer32 b a

/-- `x` saturated to the range `lo` to `hi` (00_scope.md 3.3). -/
def saturate (lo hi x : Int) : Int := max lo (min hi x)

/-- The index a number in range names. -/
def idx4 (n : Nat) : Fin 4 := Fin.ofNat 4 n

/-- Applies `f` at every index of a vector. -/
def mapAll {α : Type} {n : Nat} (f : Fin n → α → α) (v : Vector α n) : Vector α n :=
  Vec.tab fun i => f i (v.get i)

/-- Runs `f` for programs 0 to 3 in ascending order. -/
def eachProgram (f : Fin 4 → State → State) (s : State) : State := f 3 (f 2 (f 1 (f 0 s)))

/-- Runs `f` for paths 0 to 5 in ascending order. -/
def eachPath (f : Fin 6 → State → State) (s : State) : State := f 5 (f 4 (f 3 (f 2 (f 1 (f 0 s)))))

/-! ### Readers and updates of the blocks -/

/-- Element `i` of `progs`. -/
def State.prog (s : State) (i : Fin 4) : Program := s.progs.get i

/-- `s` with element `i` of `progs` changed by `g`. -/
def State.modProg (s : State) (i : Fin 4) (g : Program → Program) : State :=
  { s with progs := Vec.put s.progs i (g (s.progs.get i)) }

/-- Element `i` of `ports`. -/
def State.port (s : State) (i : Fin 4) : PicturePort := s.ports.get i

/-- `s` with element `i` of `ports` changed by `g`. -/
def State.modPort (s : State) (i : Fin 4) (g : PicturePort → PicturePort) : State :=
  { s with ports := Vec.put s.ports i (g (s.ports.get i)) }

/-- Element `i` of `intakes`. -/
def State.intake (s : State) (i : Fin 4) : Intake := s.intakes.get i

/-- `s` with element `i` of `intakes` changed by `g`. -/
def State.modIntake (s : State) (i : Fin 4) (g : Intake → Intake) : State :=
  { s with intakes := Vec.put s.intakes i (g (s.intakes.get i)) }

/-- Element `i` of `coders`. -/
def State.coder (s : State) (i : Fin 4) : Coder := s.coders.get i

/-- `s` with element `i` of `coders` changed by `g`. -/
def State.modCoder (s : State) (i : Fin 4) (g : Coder → Coder) : State :=
  { s with coders := Vec.put s.coders i (g (s.coders.get i)) }

/-- Element `i` of `loops`. -/
def State.loop (s : State) (i : Fin 4) : RateLoop := s.loops.get i

/-- `s` with element `i` of `loops` changed by `g`. -/
def State.modLoop (s : State) (i : Fin 4) (g : RateLoop → RateLoop) : State :=
  { s with loops := Vec.put s.loops i (g (s.loops.get i)) }

/-- Element `i` of `tables`. -/
def State.table (s : State) (i : Fin 2) : CodeTable := s.tables.get i

/-- `s` with element `i` of `tables` changed by `g`. -/
def State.modTable (s : State) (i : Fin 2) (g : CodeTable → CodeTable) : State :=
  { s with tables := Vec.put s.tables i (g (s.tables.get i)) }

/-- Element `i` of `slots`. -/
def State.slot (s : State) (i : Fin 4) : SlotPort := s.slots.get i

/-- `s` with element `i` of `slots` changed by `g`. -/
def State.modSlot (s : State) (i : Fin 4) (g : SlotPort → SlotPort) : State :=
  { s with slots := Vec.put s.slots i (g (s.slots.get i)) }

/-- Element `i` of `framers`. -/
def State.framer (s : State) (i : Fin 4) : Framer := s.framers.get i

/-- `s` with element `i` of `framers` changed by `g`. -/
def State.modFramer (s : State) (i : Fin 4) (g : Framer → Framer) : State :=
  { s with framers := Vec.put s.framers i (g (s.framers.get i)) }

/-- Element `i` of `chains`. -/
def State.chain (s : State) (i : Fin 4) : Chain := s.chains.get i

/-- `s` with element `i` of `chains` changed by `g`. -/
def State.modChain (s : State) (i : Fin 4) (g : Chain → Chain) : State :=
  { s with chains := Vec.put s.chains i (g (s.chains.get i)) }

/-- Element `i` of `paths`. -/
def State.path (s : State) (i : Fin 6) : Path := s.paths.get i

/-- `s` with element `i` of `paths` changed by `g`. -/
def State.modPath (s : State) (i : Fin 6) (g : Path → Path) : State :=
  { s with paths := Vec.put s.paths i (g (s.paths.get i)) }

/-- Element `i` of `lives`. -/
def State.live (s : State) (i : Fin 4) : Live := s.lives.get i

/-- `s` with element `i` of `lives` changed by `g`. -/
def State.modLive (s : State) (i : Fin 4) (g : Live → Live) : State :=
  { s with lives := Vec.put s.lives i (g (s.lives.get i)) }

/-- Element `i` of `lines`. -/
def State.line (s : State) (i : Fin 2) : MarkLine := s.lines.get i

/-- `s` with element `i` of `lines` changed by `g`. -/
def State.modLine (s : State) (i : Fin 2) (g : MarkLine → MarkLine) : State :=
  { s with lines := Vec.put s.lines i (g (s.lines.get i)) }

/-- `s` with `tb` changed by `g`. -/
def State.modTb (s : State) (g : Timebase → Timebase) : State :=
  { s with tb := g s.tb }

/-- `s` with `alloc` changed by `g`. -/
def State.modAlloc (s : State) (g : Allocator → Allocator) : State :=
  { s with alloc := g s.alloc }

/-- `s` with `mixer` changed by `g`. -/
def State.modMixer (s : State) (g : Mixer → Mixer) : State :=
  { s with mixer := g s.mixer }

/-- `s` with `store` changed by `g`. -/
def State.modStore (s : State) (g : Store → Store) : State :=
  { s with store := g s.store }

/-- `s` with `mem` changed by `g`. -/
def State.modMem (s : State) (g : List Host.Cell → List Host.Cell) : State :=
  { s with mem := g s.mem }

/-- `s` with `uplink` changed by `g`. -/
def State.modUplink (s : State) (g : Uplink → Uplink) : State :=
  { s with uplink := g s.uplink }

/-- `s` with `sched` changed by `g`. -/
def State.modSched (s : State) (g : Scheduler → Scheduler) : State :=
  { s with sched := g s.sched }

/-- `s` with `clips` changed by `g`. -/
def State.modClips (s : State) (g : ClipLog → ClipLog) : State :=
  { s with clips := g s.clips }

/-- `s` with `link` changed by `g`. -/
def State.modLink (s : State) (g : Link → Link) : State :=
  { s with link := g s.link }

end Sys2Proof.Machine
end

