-- ==== Sys2Proof/Machine/Wire.lean ====
section
/-! DEFINITION. Byte layouts: the field encodings of R212, the check code and the control-link frame of R200, the
reply and notice bodies of R213. Every multi-byte field has its most significant byte first. -/

namespace Sys2Proof.Machine

/-! ### Field encodings (R212) -/

/-- The `k` low bytes of `n`, most significant first. -/
def be : Nat → Nat → List Byte
  | 0, _ => []
  | k + 1, n => BitVec.ofNat 8 (n / 256 ^ k) :: be k n

/-- The number that bytes spell, most significant first. -/
def fromBe : List Byte → Nat
  | [] => 0
  | b :: bs => b.toNat * 256 ^ bs.length + fromBe bs

/-- Small number, 1 byte. -/
def u8 (n : Nat) : List Byte := be 1 n
/-- Number up to 65,535, 2 bytes. -/
def u16 (n : Nat) : List Byte := be 2 n
/-- Rate, picture number, 32-bit count or bit count, 4 bytes. -/
def u32 (n : Nat) : List Byte := be 4 n
/-- Stream offset or 48-bit count, 6 bytes. -/
def u48 (n : Nat) : List Byte := be 6 n
/-- Two's complement in `k` bytes. -/
def twos (k : Nat) (x : Int) : List Byte := be k (x % (256 ^ k : Nat)).toNat
/-- A flag, 1 byte. -/
def flag (b : Bool) : List Byte := u8 (if b then 1 else 0)
/-- A timecode label, 4 bytes. -/
def encTimecode (t : Timecode) : List Byte := u8 t.hours ++ u8 t.minutes ++ u8 t.seconds ++ u8 t.pictures
/-- A picture format, 4 bytes. -/
def encFormat (f : Format) : List Byte := u16 f.samples ++ u16 f.lines
/-- A field that may be absent: a presence byte, then the field, its `k` bytes all 0 when absent. -/
def encOpt {α : Type} (k : Nat) (f : α → List Byte) : Option α → List Byte
  | none => u8 0 ++ List.replicate k 0
  | some a => u8 1 ++ f a
/-- A list: a count byte, then the entries. -/
def encList {α : Type} (f : α → List Byte) (l : List α) : List Byte := u8 l.length ++ l.flatMap f

/-- The position of a named value in the list where the names are first given (R212, log entry 10). No list or
table gives the two reference states: that FREE_RUN, the state after hard reset, is 0 and LOCKED 1 is the model's choice
(log entry 10). -/
def RefState.code : RefState → Nat
  | .freeRun => 0
  | .locked => 1
def ProgState.code : ProgState → Nat
  | .idle => 0
  | .armed => 1
  | .running => 2
  | .draining => 3
def IdleCause.code : IdleCause → Nat
  | .stoppedArmed => 0
  | .drained => 1
  | .aborted => 2
  | .restarted => 3
def PortState.code : PortState → Nat
  | .noSignal => 0
  | .locking => 1
  | .locked => 2
def TableState.code : TableState → Nat
  | .empty => 0
  | .checking => 1
  | .ready => 2
def SlotState.code : SlotState → Nat
  | .off => 0
  | .seeking => 1
  | .pending => 2
  | .aligned => 3
  | .unaligned => 4
def AllocCause.code : AllocCause → Nat
  | .allocationTick => 0
  | .pathState => 1
  | .programState => 2
  | .rateLimits => 3
  | .uplinkSettings => 4
  | .restart => 5
def PathState.code : PathState → Nat
  | .off => 0
  | .down => 1
  | .probing => 2
  | .up => 3
  | .degraded => 4
def PathCause.code : PathCause → Nat
  | .enable => 0
  | .disable => 1
  | .carrierLost => 2
  | .carrierGained => 3
  | .probeAnswered => 4
  | .badReport => 5
  | .emptyReports => 6
  | .goodReports => 7
  | .silence => 8
/-- FREE is 0 (R175). -/
def ClipState.code : ClipState → Nat
  | .opened => 1
  | .closing => 2
  | .closed => 3
  | .queued => 4
  | .shipping => 5
  | .shipped => 6
def ClipSource.code : ClipSource → Nat
  | .host => 0
  | .m0 => 1
  | .m1 => 2
def LabelState.code : LabelState → Nat
  | .pending => 0
  | .sent => 1
  | .confirmed => 2
def MarkKind.code : MarkKind → Nat
  | .head => 1
  | .repeated => 3
  | .sound => 4
def Status.code : Status → Nat
  | .done => 0
  | .accepted => 1
  | .unknownKind => 2
  | .badLength => 3
  | .outOfRange => 4
  | .wrongState => 5
  | .inUse => 6
  | .notReady => 7
  | .tableAmbiguous => 8
  | .noSuchClip => 9
  | .clipOpen => 10
  | .clipLogFull => 11
  | .queueFull => 12
/-- The number of an event kind: its place in the table of R206. -/
def EventKind.index : EventKind → Fin 18
  | .referenceLost => 0
  | .referenceBack => 1
  | .inputLost => 2
  | .inputBack => 3
  | .formatMismatch => 4
  | .programIdle => 5
  | .ceiling => 6
  | .starved => 7
  | .portUnaligned => 8
  | .busSaturation => 9
  | .storePressure => 10
  | .pictureCut => 11
  | .pathState => 12
  | .clipTrimmed => 13
  | .clipShipped => 14
  | .clipYielded => 15
  | .homeRequestRefused => 16
  | .noticeLost => 17

/-! ### Check code and frames (R200) -/

/-- One bit of the check: generator x^16 + x^15 + x^2 + 1, most significant bit first. -/
def crcBit (r : BitVec 16) (b : Bool) : BitVec 16 :=
  if r.msb ^^ b then (r <<< 1) ^^^ 0x8005#16 else r <<< 1

/-- The 8 bits of a byte, most significant first. -/
def bitsOfByte (b : Byte) : List Bool :=
  [b.getLsbD 7, b.getLsbD 6, b.getLsbD 5, b.getLsbD 4, b.getLsbD 3, b.getLsbD 2, b.getLsbD 1, b.getLsbD 0]

/-- The check over bytes: the register starts at 0xFFFF. -/
def crc16 (bytes : List Byte) : Nat :=
  ((bytes.flatMap bitsOfByte).foldl crcBit 0xFFFF#16).toNat

/-- A control-link frame (R200). -/
def frameBytes (tag kind : Byte) (body : List Byte) : List Byte :=
  let covered := u16 (body.length + 2) ++ [tag, kind] ++ body
  0xC3#8 :: covered ++ u16 (crc16 covered)

/-- The body of a reply: its 5-byte header, then the values of a DONE or ACCEPTED reply (R213). -/
def Reply.bodyBytes (r : Reply) : List Byte :=
  u8 r.status.code ++ u16 r.detail ++ u16 r.detail2 ++ r.body

/-- A reply's frame carries the tag and kind of its request (R200). -/
def Reply.frame (r : Reply) : List Byte := frameBytes r.tag r.kind r.bodyBytes

/-- A notice's frame carries tag 0 and the kind NOTICE, 255 (R200, R212, R213). -/
def Notice.frame (n : Notice) : List Byte :=
  frameBytes 0 255 (u16 n.number ++ u8 n.kind ++ u32 n.picture ++ u32 n.pacing ++ n.details)

end Sys2Proof.Machine
end

