-- ==== Sys2Proof/Machine/Operands.lean ====
section
/-! DEFINITION. Request bodies (R212): the kind and body of every request as the host sends it, and the reading of a
kind and a body as a request. A body whose length is not what its kind and its own count bytes call for has
BAD_LENGTH; a kind that names no request has UNKNOWN_KIND. -/

namespace Sys2Proof.Machine

/-! ### Kinds and bodies -/

/-- The kind of a request: its place in the table of request kinds (R212). -/
def Request.kind : Request → Byte
  | .unknownKind k => k
  | .badLength k _ => k
  | .setStation .. => 1
  | .setTimecode .. => 2
  | .readTimebase => 3
  | .configureProgram .. => 4
  | .setRateLimits .. => 5
  | .start .. => 6
  | .stop .. => 7
  | .abort .. => 8
  | .programStatus .. => 9
  | .setSlate .. => 10
  | .readPicturePort .. => 11
  | .loadTable .. => 12
  | .selectTable .. => 13
  | .readTable .. => 14
  | .readBudget => 15
  | .configureSlotPort .. => 16
  | .enableSlotPort .. => 17
  | .disableSlotPort .. => 18
  | .readSlotPort .. => 19
  | .bindInput .. => 20
  | .setGain .. => 21
  | .setBus .. => 22
  | .setMonitor .. => 23
  | .readMixer .. => 24
  | .setRetention .. => 25
  | .setReserve .. => 26
  | .readStore => 27
  | .readSegment .. => 28
  | .readChain .. => 29
  | .configurePath .. => 30
  | .enablePath .. => 31
  | .disablePath .. => 32
  | .setUplink .. => 33
  | .readPath .. => 34
  | .readUplink => 35
  | .setDelivery .. => 36
  | .readWindow => 37
  | .markIn .. => 38
  | .markOut .. => 39
  | .setMarkLine .. => 40
  | .setLabel .. => 41
  | .ship .. => 42
  | .cancelShip .. => 43
  | .release .. => 44
  | .readClip .. => 45
  | .listClips => 46
  | .status .. => 47
  | .subscribe .. => 48
  | .identify => 49
  | .restart => 50

/-- A program's record as the fields of CONFIGURE_PROGRAM (R10, R212). -/
def recordBody (r : ProgramRecord) : List Byte :=
  u8 r.port ++ (u16 r.width ++ (u16 r.height ++ (u8 r.table ++ (twos 1 r.chromaOffset ++ (u8 r.qmin ++ (u8 r.qstart
    ++ (u8 r.qmax ++ (u16 r.buffer ++ (u8 r.ceiling ++ (u32 r.minRate ++ (u32 r.maxRate ++ (u8 r.weight
    ++ (encList u8 r.buses ++ (u8 r.soundWidth ++ (u16 r.retention ++ (u8 r.hold ++ (u16 r.slateY ++ (u16 r.slateCb
    ++ u16 r.slateCr))))))))))))))))))

/-- The body that a host sends for a request (R212); of a kind without request, and of a body of the wrong length,
nothing is to be said. -/
def Request.body : Request → List Byte
  | .unknownKind _ => []
  | .badLength _ _ => []
  | .setStation rate drop => u8 rate ++ u8 drop
  | .setTimecode t => encTimecode t
  | .readTimebase => []
  | .configureProgram program r => u8 program ++ recordBody r
  | .setRateLimits program lo hi weight => u8 program ++ (u32 lo ++ (u32 hi ++ u8 weight))
  | .start mask => u8 mask
  | .stop program => u8 program
  | .abort program => u8 program
  | .programStatus program => u8 program
  | .setSlate program y cb cr hold => u8 program ++ (u16 y ++ (u16 cb ++ (u16 cr ++ u8 hold)))
  | .readPicturePort port => u8 port
  | .loadTable table entries => u8 table ++ entries.flatMap fun e => u8 e.length ++ u16 e.value
  | .selectTable program table => u8 program ++ u8 table
  | .readTable table => u8 table
  | .readBudget => []
  | .configureSlotPort port count => u8 port ++ u8 count
  | .enableSlotPort port => u8 port
  | .disableSlotPort port => u8 port
  | .readSlotPort port => u8 port
  | .bindInput input binding => u8 input ++ encOpt 2 (fun b => u8 b.1 ++ u8 b.2) binding
  | .setGain input bus gain ramp => u8 input ++ (u8 bus ++ (u16 gain ++ u16 ramp))
  | .setBus bus delay seed => u8 bus ++ (u16 delay ++ u16 seed)
  | .setMonitor left right => u8 left ++ u8 right
  | .readMixer bus clear => u8 bus ++ u8 clear
  | .setRetention program retention => u8 program ++ u16 retention
  | .setReserve reserve => u16 reserve
  | .readStore => []
  | .readSegment segment position => u16 segment ++ u16 position
  | .readChain program position => u8 program ++ u16 position
  | .configurePath path ceiling initial burst repairShare probeRate =>
    u8 path ++ (u32 ceiling ++ (u32 initial ++ (u8 burst ++ (u8 repairShare ++ u16 probeRate))))
  | .enablePath path => u8 path
  | .disablePath path => u8 path
  | .setUplink headroom labelReserve clipFloor silence threshold forget =>
    u8 headroom ++ (u16 labelReserve ++ (u32 clipFloor ++ (u16 silence ++ (u8 threshold ++ u8 forget))))
  | .readPath path => u8 path
  | .readUplink => []
  | .setDelivery deadline guardMs => u16 deadline ++ u16 guardMs
  | .readWindow => []
  | .markIn program selector value yieldable => u8 program ++ (u8 selector ++ (u32 value ++ u8 yieldable))
  | .markOut program selector value => u8 program ++ (u8 selector ++ u32 value)
  | .setMarkLine line binding preRoll yieldable =>
    u8 line ++ (encOpt 1 u8 binding ++ (u16 preRoll ++ u8 yieldable))
  | .setLabel clip text tags rating yieldable =>
    u8 clip ++ (encList (fun b => [b]) text ++ (encList (fun b => [b]) tags ++ (u8 rating ++ u8 yieldable)))
  | .ship clip => u8 clip
  | .cancelShip clip => u8 clip
  | .release clip => u8 clip
  | .readClip clip => u8 clip
  | .listClips => []
  | .status mask => u32 mask
  | .subscribe mask => u32 mask
  | .identify => []
  | .restart => []

/-! ### Reading a body -/

/-- The bytes still to be read of a body, with what has been read; absent when the body was too short. -/
abbrev Reading (α : Type) := List Byte → Option (α × List Byte)

/-- Reads a number of `k` bytes. -/
def rd (k : Nat) : Reading Nat := fun b => if b.length < k then none else some (fromBe (b.take k), b.drop k)

/-- A number read from `k` bytes in two's complement. -/
def signedOf (k n : Nat) : Int := if 2 * n < 256 ^ k then n else (n : Int) - (256 ^ k : Nat)

/-- Reads `n` bytes as they are. -/
def rdBytes (n : Nat) : Reading (List Byte) := fun b => if b.length < n then none else some (b.take n, b.drop n)

/-- Reads a list of bytes with its count byte. -/
def rdList : Reading (List Byte) := fun b => (rd 1 b).bind fun x => rdBytes x.1 x.2

/-- Reads `n` code entries (R212). -/
def rdEntries : Nat → Reading (List CodeEntry)
  | 0, b => some ([], b)
  | n + 1, b =>
    (rd 1 b).bind fun l => (rd 2 l.2).bind fun v => (rdEntries n v.2).bind fun es => some (⟨l.1, v.1⟩ :: es.1, es.2)

/-- A body read to its end. -/
def whole {α : Type} (x : Option (α × List Byte)) : Option α := x.bind fun y => if y.2.isEmpty then some y.1 else none

/-- Bodies of one, two, three, … numbers of given widths. -/
def read1 (a : Nat) (f : Nat → Request) : Reading Request := fun b => (rd a b).bind fun x => some (f x.1, x.2)
def read2 (a b : Nat) (f : Nat → Nat → Request) : Reading Request := fun s =>
  (rd a s).bind fun x => read1 b (f x.1) x.2
def read3 (a b c : Nat) (f : Nat → Nat → Nat → Request) : Reading Request := fun s =>
  (rd a s).bind fun x => read2 b c (f x.1) x.2
def read4 (a b c d : Nat) (f : Nat → Nat → Nat → Nat → Request) : Reading Request := fun s =>
  (rd a s).bind fun x => read3 b c d (f x.1) x.2
def read5 (a b c d e : Nat) (f : Nat → Nat → Nat → Nat → Nat → Request) : Reading Request := fun s =>
  (rd a s).bind fun x => read4 b c d e (f x.1) x.2
def read6 (a b c d e g : Nat) (f : Nat → Nat → Nat → Nat → Nat → Nat → Request) : Reading Request := fun s =>
  (rd a s).bind fun x => read5 b c d e g (f x.1) x.2

/-- The fields of a record after its bus list (R10). -/
def readRecordTail (f : Nat → Nat → Nat → Nat → Nat → Nat → Request) : Reading Request := read6 1 2 1 2 2 2 f

/-- The body of CONFIGURE_PROGRAM (R10, R212). -/
def readConfigure : Reading Request := fun s =>
  (rd 1 s).bind fun program => (rd 1 program.2).bind fun port => (rd 2 port.2).bind fun width =>
  (rd 2 width.2).bind fun height => (rd 1 height.2).bind fun table => (rd 1 table.2).bind fun chroma =>
  (rd 1 chroma.2).bind fun qmin => (rd 1 qmin.2).bind fun qstart => (rd 1 qstart.2).bind fun qmax =>
  (rd 2 qmax.2).bind fun buffer => (rd 1 buffer.2).bind fun ceiling => (rd 4 ceiling.2).bind fun lo =>
  (rd 4 lo.2).bind fun hi => (rd 1 hi.2).bind fun weight => (rdList weight.2).bind fun buses =>
  readRecordTail (fun soundWidth retention hold y cb cr => .configureProgram program.1
    { port := port.1, width := width.1, height := height.1, table := table.1, chromaOffset := signedOf 1 chroma.1,
      qmin := qmin.1, qstart := qstart.1, qmax := qmax.1, buffer := buffer.1, ceiling := ceiling.1, minRate := lo.1,
      maxRate := hi.1, weight := weight.1, buses := buses.1.map BitVec.toNat, soundWidth := soundWidth,
      retention := retention, hold := hold, slateY := y, slateCb := cb, slateCr := cr }) buses.2

/-- The body of BIND_INPUT: a presence byte other than 0 stands for present (log entry 16). -/
def readBindInput : Reading Request :=
  fun s => read4 1 1 1 1 (fun input present port slot =>
    .bindInput input (if present = 0 then none else some (port, slot))) s

/-- The body of SET_MARK_LINE. -/
def readMarkLine : Reading Request :=
  fun s => read5 1 1 1 2 1 (fun line present program preRoll yieldable =>
    .setMarkLine line (if present = 0 then none else some program) preRoll yieldable) s

/-- The body of SET_LABEL. -/
def readLabel : Reading Request := fun s =>
  (rd 1 s).bind fun clip => (rdList clip.2).bind fun text => (rdList text.2).bind fun tags =>
    read2 1 1 (fun rating yieldable => .setLabel clip.1 text.1 tags.1 rating yieldable) tags.2

/-- The body of LOAD_TABLE: 391 bytes (R212). -/
def readTableLoad : Reading Request := fun s =>
  (rd 1 s).bind fun table => (rdEntries 130 table.2).bind fun es => some (.loadTable table.1 es.1, es.2)

/-- A body without fields. -/
def read0 (r : Request) : Reading Request := fun s => some (r, s)

/-- The reading of a kind's body, absent for a kind that names no request (R212). -/
def readingOf (kind : Nat) : Option (Reading Request) :=
  match kind with
  | 1 => some (read2 1 1 .setStation)
  | 2 => some (read4 1 1 1 1 fun h m s p => .setTimecode ⟨h, m, s, p⟩)
  | 3 => some (read0 .readTimebase)
  | 4 => some readConfigure
  | 5 => some (read4 1 4 4 1 .setRateLimits)
  | 6 => some (read1 1 .start)
  | 7 => some (read1 1 .stop)
  | 8 => some (read1 1 .abort)
  | 9 => some (read1 1 .programStatus)
  | 10 => some (read5 1 2 2 2 1 .setSlate)
  | 11 => some (read1 1 .readPicturePort)
  | 12 => some readTableLoad
  | 13 => some (read2 1 1 .selectTable)
  | 14 => some (read1 1 .readTable)
  | 15 => some (read0 .readBudget)
  | 16 => some (read2 1 1 .configureSlotPort)
  | 17 => some (read1 1 .enableSlotPort)
  | 18 => some (read1 1 .disableSlotPort)
  | 19 => some (read1 1 .readSlotPort)
  | 20 => some readBindInput
  | 21 => some (read4 1 1 2 2 .setGain)
  | 22 => some (read3 1 2 2 .setBus)
  | 23 => some (read2 1 1 .setMonitor)
  | 24 => some (read2 1 1 .readMixer)
  | 25 => some (read2 1 2 .setRetention)
  | 26 => some (read1 2 .setReserve)
  | 27 => some (read0 .readStore)
  | 28 => some (read2 2 2 .readSegment)
  | 29 => some (read2 1 2 .readChain)
  | 30 => some (read6 1 4 4 1 1 2 .configurePath)
  | 31 => some (read1 1 .enablePath)
  | 32 => some (read1 1 .disablePath)
  | 33 => some (read6 1 2 4 2 1 1 .setUplink)
  | 34 => some (read1 1 .readPath)
  | 35 => some (read0 .readUplink)
  | 36 => some (read2 2 2 .setDelivery)
  | 37 => some (read0 .readWindow)
  | 38 => some (read4 1 1 4 1 .markIn)
  | 39 => some (read3 1 1 4 .markOut)
  | 40 => some readMarkLine
  | 41 => some readLabel
  | 42 => some (read1 1 .ship)
  | 43 => some (read1 1 .cancelShip)
  | 44 => some (read1 1 .release)
  | 45 => some (read1 1 .readClip)
  | 46 => some (read0 .listClips)
  | 47 => some (read1 4 .status)
  | 48 => some (read1 4 .subscribe)
  | 49 => some (read0 .identify)
  | 50 => some (read0 .restart)
  | _ => none

/-- Whether a LOAD_TABLE body of a wrong length is refused for its table letter: R54 checks the letter before the length,
and R203 the length before all that the chapter checks (free value, log entry 30). -/
def refusedByLetter (kind : Byte) : List Byte → Bool
  | [] => false
  | letter :: _ => kind == 12 && decide (1 < letter.toNat) && Config.tableLetterFirst

/-- The request that a body of a wrong length spells (R54, R203). -/
def misfit (kind : Byte) (body : List Byte) : Request :=
  if refusedByLetter kind body then .loadTable ((body.map BitVec.toNat).headD 0) [] else .badLength kind body.length

/-- The request that a kind and a body spell (R203, R212): a body of a length out of the kind's range is refused before
any field of it is looked at, but for the table letter of a LOAD_TABLE (R54; log entry 30). -/
def readRequest (kind : Byte) (body : List Byte) : Request :=
  match readingOf kind.toNat with
  | none => .unknownKind kind
  | some f => (whole (f body)).getD (misfit kind body)

end Sys2Proof.Machine
end

