-- ==== Sys2Proof/Machine/Flags.lean ====
section
/-! DEFINITION. Events: the latch and raise count of each kind, the notices the link makes for subscribed kinds, and
the notices it loses (R205, R206). -/

namespace Sys2Proof.Machine

/-- Sets the latch of a kind and increments its raise count (R206). -/
def latchEvent (k : EventKind) (l : Link) : Link :=
  { l with
    latches := Vec.put l.latches k.index true
    raises := Vec.put l.raises k.index (incWrap32 (l.raises.get k.index)) }

/-- Makes a notice: it takes the next notice number and joins the notice queue, or, with the queue full, is dropped
and raises NOTICE_LOST, which makes no notice of its own here (R205). The lost-since count has no bound (log entry
37). -/
def makeNotice (kind : Nat) (details : List Byte) (s : State) : State :=
  let number := incWrap16 s.link.noticeNumber
  let notice : Notice := ⟨number, kind, s.tb.picture, s.tb.pacing, details⟩
  s.modLink fun l =>
    if l.notices.length < Config.maxNotices then
      { l with noticeNumber := number, notices := l.notices ++ [notice] }
    else
      latchEvent .noticeLost
        { l with
          noticeNumber := number
          lostNotices := incWrap32 l.lostNotices
          lostSince := l.lostSince + 1 }

/-- Raises an event: latch, raise count and, when its kind is subscribed, a notice (R206). -/
def raise (k : EventKind) (details : List Byte) (s : State) : State :=
  let s' := s.modLink (latchEvent k)
  if s.link.subscribed.get k.index then makeNotice k.index.1 details s' else s'

/-- Makes the NOTICE_LOST notice when notices have been dropped, the kind is subscribed and a slot is free (R205). It
carries the picture number and pacing count of this moment, and the lost-since count modulo 2^32 (log entry 37). -/
def noticeLostTest (s : State) : State :=
  if 0 < s.link.lostSince && s.link.subscribed.get EventKind.noticeLost.index
      && decide (s.link.notices.length < Config.maxNotices) then
    (makeNotice EventKind.noticeLost.index.1 (u32 s.link.lostSince) s).modLink fun l => { l with lostSince := 0 }
  else s

end Sys2Proof.Machine
end

