-- ==== Sys2Proof/Machine/Memory.lean ====
section
/-! DEFINITION. The segment store's DRAM: a list of address and byte pairs in one canonical form. An address not
listed reads as 0 (log entry 4); no rule lets anything read a byte that no unit has been written to. -/

namespace Sys2Proof.Machine

/-- What an unlisted address reads as. -/
def unlisted : Byte := 0

/-- Reads the byte at an address. -/
def memRead : List Host.Cell → Nat → Byte
  | [], _ => unlisted
  | (k, v) :: rest, a => if k = a then v else memRead rest a

/-- The cells of bytes from an address upward: those that differ from what an unlisted address reads as. -/
def cellsOf : Nat → List Byte → List Host.Cell
  | _, [] => []
  | a, b :: bs => if b = unlisted then cellsOf (a + 1) bs else (a, b) :: cellsOf (a + 1) bs

/-- Writes bytes from an address upward, keeping the canonical form. -/
def memWriteBytes (m : List Host.Cell) (a : Nat) (bytes : List Byte) : List Host.Cell :=
  let stop := a + bytes.length
  (m.filter fun c => decide (c.1 < a)) ++ cellsOf a bytes ++ m.filter fun c => decide (stop ≤ c.1)

/-- The canonical form: addresses strictly rising from `lo` on, and no entry equal to what an unlisted address
reads as. -/
def memCanonicalFrom : Nat → List Host.Cell → Bool
  | _, [] => true
  | lo, (k, v) :: rest => decide (lo ≤ k) && decide (v ≠ unlisted) && memCanonicalFrom (k + 1) rest

/-- A memory in canonical form. -/
def Memory.wf (m : List Host.Cell) : Bool := memCanonicalFrom 0 m

/-- Address of byte `o` of segment `n`. -/
def segAddress (n o : Nat) : Nat := n * Config.segmentBytes + o

end Sys2Proof.Machine
end

