-- ==== Sys2Proof/Machine/Store.lean ====
section
/-! DEFINITION. The segment store: holds, freeing and the pressure flag, sealing, pins, window references, retention,
and the lookups over a program's chain (R105 to R120). -/

namespace Sys2Proof.Machine

/-! ### Segments -/

/-- The hold of a segment (R106, R116). -/
def hold (g : Segment) : Nat :=
  g.writer.toNat + g.pendingSend.toNat + g.refs + g.retention.toNat + g.pins

/-- The offset just past a segment's byte range (R105). -/
def segEnd (g : Segment) : Nat := g.first + g.fill

/-- A segment's byte range meets the range from `lo` to `hi`, `hi` not included (R105). -/
def segMeets (lo hi : Nat) (g : Segment) : Bool :=
  decide (0 < g.fill) && decide (g.first < hi) && decide (lo < segEnd g)

/-- Whether the pin service pins a segment for a range: a SEALED one by its byte range, the OPEN one by all it can
still hold, since its later bytes will fall in the clip (R115, R179, R182; log entry 12). -/
def pinMeets (lo : Nat) (g : Segment) : Bool :=
  if g.isSealed then decide (0 < g.fill) && decide (lo < segEnd g)
  else decide (lo < g.first + Config.segmentBytes)

/-- Changes every segment of a program's chain. -/
def modSegs (p : Fin 4) (f : Segment → Segment) (s : State) : State :=
  s.modChain p fun c => { c with segs := c.segs.map f }

/-- Segments of one run of a program, in chain order (R108). -/
def runSegs (p : Fin 4) (run : Nat) (s : State) : List Segment :=
  (s.chain p).segs.filter fun g => g.run == run

/-- The program's OPEN segment (R110). -/
def openSeg (p : Fin 4) (s : State) : Option Segment :=
  (s.chain p).segs.find? fun g => !g.isSealed

/-- The free count (R107). -/
def freeCount (s : State) : Nat := s.store.freeList.length

/-! ### Freeing (R116) and the pressure flag (R117) -/

/-- Inserts a number into an ascending list. -/
def insertAscending (n : Nat) : List Nat → List Nat
  | [] => [n]
  | m :: ms => if n ≤ m then n :: m :: ms else m :: insertAscending n ms

/-- Numbers in ascending order. -/
def ascending (l : List Nat) : List Nat := l.foldr insertAscending []

/-- Clears the pressure flag when the free count is at or above the reserve and above 0 (R117). -/
def clearPressure (s : State) : State :=
  if s.store.reserve ≤ freeCount s ∧ 0 < freeCount s then s.modStore fun t => { t with pressure := false } else s

/-- Numbers of the segments of one chain that have a hold of 0. -/
def zeroHolds (c : Chain) : List Nat := (c.segs.filter fun g => hold g == 0).map Segment.number

/-- Frees every segment whose hold is 0: each leaves its chain and joins the tail of the free list, in ascending
number, and the pressure rule follows (R116, R117). -/
def freeZero (s : State) : State :=
  match ascending (zeroHolds (s.chain 0) ++ zeroHolds (s.chain 1) ++ zeroHolds (s.chain 2) ++ zeroHolds (s.chain 3)) with
  | [] => s
  | n :: ns =>
    clearPressure
      { s with
        chains := mapAll (fun _ c => { c with segs := c.segs.filter fun g => hold g != 0 }) s.chains
        store :=
          { s.store with
            freeList := s.store.freeList ++ n :: ns
            freed := (s.store.freed + (n :: ns).length) % 2 ^ 32 } }

/-- The free list with the numbers past the first `older` in ascending order (R107). -/
def orderFrees (older : Nat) (s : State) : State :=
  s.modStore fun t => { t with freeList := t.freeList.take older ++ ascending (t.freeList.drop older) }

/-- The segments freed since the state `start` of the same event, in ascending number at the tail of the free list,
whatever the order in which the event's parts freed them (R107, R116). The takes since `start` have removed as many
numbers at the head. -/
def freedTogether (start s : State) : State :=
  orderFrees (freeCount start - diff32 s.store.takes start.store.takes) s

/-- Sets the pressure flag and raises STORE_PRESSURE when it was clear; `cut` is the program whose take was refused
(R117), a field of the details that may be absent (log entry 20). -/
def setPressure (cut : Option Nat) (s : State) : State :=
  let s' := s.modStore fun t => { t with pressure := true }
  if s.store.pressure then s'
  else
    raise .storePressure
      (u16 (freeCount s) ++ u16 s.store.reserve ++ u8 (if cut.isSome then 1 else 0) ++ encOpt 1 u8 cut) s'

/-! ### Releasing the holds (R111 to R115) -/

/-- Clears the pending-send flag of the SEALED segments whose end the program's live cursor has reached (R112). -/
def clearPassed (p : Fin 4) (s : State) : State :=
  match (s.live p).cursor with
  | none => s
  | some (run, off) =>
    modSegs p (fun g =>
      if g.isSealed && g.run == run && decide (segEnd g ≤ off) then { g with pendingSend := false } else g) s

/-- Seals the program's OPEN segment (R111), then checks it against the live cursor (R112). -/
def sealOpen (p : Fin 4) (s : State) : State :=
  let keeps := match (s.prog p).record with
    | some r => decide (0 < r.retention)
    | none => false
  clearPassed p (modSegs p (fun g =>
    if g.isSealed then g
    else { g with isSealed := true, writer := false, retention := decide (0 < g.fill) && keeps }) s)

/-- Adds a window reference to each segment in which bytes of a packet lie (R113). -/
def addRefs (p : Fin 4) (run off len : Nat) (s : State) : State :=
  modSegs p (fun g => if g.run == run && segMeets off (off + len) g then { g with refs := g.refs + 1 } else g) s

/-- Removes the window references of a packet (R113). -/
def dropRefs (p : Fin 4) (run off len : Nat) (s : State) : State :=
  modSegs p (fun g => if g.run == run && segMeets off (off + len) g then { g with refs := g.refs - 1 } else g) s

/-- The retentions that the programs' records hold (R114). -/
def recordRetentions (s : State) : Vector (Option Nat) 4 :=
  Vec.tab fun p => (s.prog p).record.map ProgramRecord.retention

/-- Whether the retention release clears a segment's flag at the current picture, by the retention `r` (R114). -/
def retentionOver (s : State) (r : Option Nat) (g : Segment) : Bool :=
  match r, g.lastPicture with
  | some r, some p => decide (r < diff32 s.tb.picture p)
  | _, _ => false

/-- The retention release over every program's SEALED segments, by the retentions that the picture tick found; the
frees follow together (R114). -/
def retentionRelease (s : State) : State :=
  eachProgram (fun p t => modSegs p (fun g =>
    if g.isSealed && g.retention && retentionOver t (t.tb.retentions.get p) g then { g with retention := false }
    else g) t) s

/-- Adds one pin to each segment of the run that a clip's range from `lo` on meets, and answers their numbers
(R115). -/
def pinFrom (p : Fin 4) (run lo : Nat) (s : State) : List Nat × State :=
  let hit := fun g : Segment => g.run == run && pinMeets lo g
  (((s.chain p).segs.filter hit).map Segment.number,
    modSegs p (fun g => if hit g then { g with pins := g.pins + 1 } else g) s)

/-- Removes one pin from each segment with a listed number (R115). -/
def unpin (p : Fin 4) (numbers : List Nat) (s : State) : State :=
  modSegs p (fun g => if numbers.contains g.number then { g with pins := g.pins - 1 } else g) s

/-! ### Lookups (R108, R120) -/

/-- The segment of a run that holds the byte at a stream offset. -/
def segAt (p : Fin 4) (run off : Nat) (s : State) : Option Segment :=
  (s.chain p).segs.find? fun g => g.run == run && decide (g.first ≤ off) && decide (off < segEnd g)

/-- The byte at a stream offset of a run. -/
def streamByte (p : Fin 4) (run : Nat) (s : State) (off : Nat) : Byte :=
  match segAt p run off s with
  | some g => memRead s.mem (segAddress g.number (off - g.first))
  | none => unlisted

/-- The stream bytes of a run from an offset on. -/
def streamBytes (p : Fin 4) (run off len : Nat) (s : State) : List Byte :=
  (List.range len).map fun i => streamByte p run s (off + i)

/-- The unit that holds the byte at a stream offset. -/
def unitAt (p : Fin 4) (run off : Nat) (s : State) : Option UnitRef :=
  match segAt p run off s with
  | some g => g.units.find? fun u => decide (u.offset ≤ off) && decide (off < u.offset + u.length)
  | none => none

/-- The longest unbroken sequence that ends a list of segments (R108). -/
def unbrokenTail : List Segment → List Segment
  | [] => []
  | g :: rest =>
    match rest with
    | [] => [g]
    | h :: _ =>
      let t := unbrokenTail rest
      if t.length == rest.length && h.first == g.first + Config.segmentBytes then g :: rest else t

/-- Marks of a list of segments, in stream order. -/
def marksOf (gs : List Segment) : List Mark := gs.flatMap Segment.marks

/-- The offset of a picture's PICTURE_HEAD in the run, absent when no non-FREE segment holds its mark (R120). -/
def headLookup (p : Fin 4) (run picture : Nat) (s : State) : Option Nat :=
  ((marksOf (runSegs p run s)).find? fun m => m.kind == .head && m.picture == picture).map Mark.offset

/-- Head marks of the run's unbroken tail (R120). -/
def tailHeads (p : Fin 4) (run : Nat) (s : State) : List Mark :=
  (marksOf (unbrokenTail (runSegs p run s))).filter fun m => m.kind == .head

/-- The offset just past a picture's SOUND unit (R120). -/
def soundLookup (p : Fin 4) (run picture : Nat) (s : State) : Option Nat :=
  ((marksOf (runSegs p run s)).find? fun m => m.kind == .sound && m.picture == picture).map Mark.offset

/-- Whether the four label bytes of the PICTURE_HEAD at a stream offset all stand in segments that are not FREE: no lookup
reads a header across a segment the store does not hold (R215; log entry 35). -/
def labelHeld (p : Fin 4) (run off : Nat) (s : State) : Bool :=
  (List.range 4).all fun i => (segAt p run (off + 9 + i) s).isSome

/-- The timecode label that the PICTURE_HEAD at a stream offset carries (R46, R215); a byte of it whose segment is FREE
has no value in the spec, and is a free value (log entry 35). -/
def headLabel (p : Fin 4) (run off : Nat) (s : State) : Timecode :=
  let b := fun i =>
    if (segAt p run (off + 9 + i) s).isSome then (streamByte p run s (off + 9 + i)).toNat
    else (Config.freedLabelByte (off + 9 + i)).toNat
  ⟨b 0, b 1, b 2, b 3⟩

end Sys2Proof.Machine
end

