-- ==== Sys2Proof/Machine/Window.lean ====
section
/-! DEFINITION. The resend window: entries and their references, the resend queue, loss, abandonment, and the
withdrawal services of the clip log (R151, R164 to R170). -/

namespace Sys2Proof.Machine

/-- A PICTURE entry, or else a reliable one (R151). -/
def Entry.isLive (e : Entry) : Bool :=
  match e.place with
  | .live .. => true
  | .label .. => false
  | .clip .. => false

/-- A CLIP entry of a clip. -/
def Entry.isClipOf (c : Nat) (e : Entry) : Bool :=
  match e.place with
  | .clip k .. => k == c
  | .label .. => false
  | .live .. => false

/-- A LABEL entry of a clip. -/
def Entry.isLabelOf (c : Nat) (e : Entry) : Bool :=
  match e.place with
  | .label k _ => k == c
  | .clip .. => false
  | .live .. => false

/-- The live entries, and the reliable entries (R151). -/
def liveEntries (s : State) : List Entry := s.sched.window.filter Entry.isLive
def reliableEntries (s : State) : List Entry := s.sched.window.filter fun e => !e.isLive

/-- The resend queue: the entries whose mark is set, in send-number order (R151). -/
def resendQueue (s : State) : List Entry := s.sched.window.filter Entry.queued

/-- The age of an entry in milliseconds (R151). -/
def age (s : State) (e : Entry) : Nat := diff32 s.tb.pacing e.firstSent

/-- Lets every path ask in this event (R157). -/
def letAsk (s : State) : State := s.modSched fun c => { c with asking := Vector.replicate 6 true }

/-- Lets one path ask in this event (R157). -/
def letAskPath (l : Fin 6) (s : State) : State := s.modSched fun c => { c with asking := Vec.put c.asking l true }

/-- Adds the window references of an entry's bytes (R113). -/
def placeAdds (e : Entry) (s : State) : State :=
  match e.place with
  | .label .. => s
  | .clip _ p run _ off len => addRefs (idx4 p) run off len s
  | .live p run _ off len => addRefs (idx4 p) run off len s

/-- Removes the window references of an entry's bytes (R113). -/
def placeDrops (e : Entry) (s : State) : State :=
  match e.place with
  | .label .. => s
  | .clip _ p run _ off len => dropRefs (idx4 p) run off len s
  | .live p run _ off len => dropRefs (idx4 p) run off len s

/-- Takes entries out of the window, and so out of the resend queue, with their references (R113, R151). -/
def removeEntries (gone : Entry → Bool) (s : State) : State :=
  ((s.sched.window.filter gone).foldl (fun t e => placeDrops e t) s).modSched fun c =>
    { c with window := c.window.filter fun e => !gone e }

/-- Appends an entry at the window's tail and adds its references (R151). -/
def enterWindow (e : Entry) (s : State) : State :=
  (placeAdds e s).modSched fun c => { c with window := c.window ++ [e] }

/-- The abandoned list with numbers added at its tail, the oldest leaving it when it is full (R165). -/
def abandonedWith (l ns : List Nat) : List Nat := (l ++ ns).drop ((l ++ ns).length - Config.maxAbandoned)

/-- Abandons live entries: they leave the window and their send numbers join the abandoned list (R165, R169). Several
that go in one event join the list in send-number order (log entry 36). The caller counts the cause. -/
def abandon (gone : Entry → Bool) (s : State) : State :=
  let numbers := (s.sched.window.filter gone).map Entry.send
  (removeEntries gone s).modSched fun c => { c with abandoned := abandonedWith c.abandoned numbers }

/-- Whether a lost live entry is given up and not queued (R166). -/
def isGivenUp (s : State) (e : Entry) : Bool :=
  e.isLive && !e.queued && !(decide (e.resends < 3) && decide (age s e < s.sched.deadline - s.sched.guardMs))

/-- Treats entries as lost: each is queued for resend or, a live one past its limit, abandoned with the loss cause
(R166). -/
def loseEntries (lost : Entry → Bool) (s : State) : State :=
  let gone := fun e => lost e && isGivenUp s e
  let n := (s.sched.window.filter gone).length
  let queues := fun e => lost e && !e.queued && !isGivenUp s e
  let s1 := if s.sched.window.any queues then letAsk s else s
  (abandon gone s1).modSched fun c =>
    { c with
      byLoss := (c.byLoss + n) % 2 ^ 32
      window := c.window.map fun e => if lost e then { e with queued := true } else e }

/-- The live deadline that stands at a pacing tick comes into force for the ages of entries (R171). -/
def bringDeadline (c : Scheduler) : Scheduler := { c with deadlineInForce := c.deadline }

/-- The age expiry of the live entries `due` selects, by the deadline of the last pacing tick (R169, R171). -/
def expireEntries (due : Entry → Bool) (s : State) : State :=
  let gone := fun e => due e && e.isLive && decide (s.sched.deadlineInForce ≤ age s e)
  let n := (s.sched.window.filter gone).length
  (abandon gone s).modSched fun c => { c with byAge := (c.byAge + n) % 2 ^ 32 }

/-- The oldest live entry gives way to a new one in a full window (R152). -/
def displace (s : State) : State :=
  match liveEntries s with
  | [] => s
  | e :: _ =>
    (abandon (fun x => x.send == e.send) s).modSched fun c =>
      { c with byDisplacement := incWrap32 c.byDisplacement, displaced := incWrap32 c.displaced }

/-! ### Services for the clip log (R161, R170) -/

/-- Adds a clip to the label queue's tail, unless it stands there (R161). -/
def addLabel (c : Nat) (s : State) : State :=
  if s.sched.labelQueue.contains c then s
  else letAsk (s.modSched fun d => { d with labelQueue := d.labelQueue ++ [c] })

/-- The label-withdraw service (R170). -/
def withdrawLabel (c : Nat) (s : State) : State :=
  s.modSched fun d => { d with labelQueue := d.labelQueue.filter fun k => k != c }

/-- The cursor-withdraw service (R170). -/
def withdrawCursor (c : Nat) (s : State) : State :=
  s.modSched fun d =>
    { d with clipCursor := match d.clipCursor with
        | some k => if k.clip == c then none else some k
        | none => none }

/-- The drop service (R170). -/
def dropClip (c : Nat) (withLabel : Bool) (s : State) : State :=
  removeEntries (fun e => e.isClipOf c || (withLabel && e.isLabelOf c)) s

end Sys2Proof.Machine
end

