-- ==== Sys2Proof/Machine/Clips.lean ====
section
/-! DEFINITION. The clip log: marking in and out, closing, labels, shipping, release and yield (R175 to R197). -/

namespace Sys2Proof.Machine

/-- The record of a clip id, absent when FREE (R175). -/
def clipAt (c : Nat) (s : State) : Option Clip := s.clips.recs.get (Fin.ofNat 64 c)

/-- Changes a clip's record, if it is not FREE. -/
def modClip (c : Nat) (f : Clip → Clip) (s : State) : State :=
  s.modClips fun l =>
    { l with recs := Vec.put l.recs (Fin.ofNat 64 c) ((l.recs.get (Fin.ofNat 64 c)).map f) }

/-- The clip ids 0 to 63 that satisfy a test, in ascending order. -/
def clipIds (ok : Clip → Bool) (s : State) : List Nat :=
  ((List.finRange 64).filter fun c => match s.clips.recs.get c with
    | some k => ok k
    | none => false).map Fin.val

/-- The OPEN clip of a program (R115, R177). -/
def openClipOf (p : Fin 4) (s : State) : Option Nat :=
  (clipIds (fun k => k.program == p && k.st == .opened) s).head?

/-- The SHIPPING clip (R189). -/
def shippingClip (s : State) : Option Nat := (clipIds (fun k => k.st == .shipping) s).head?

/-- Sets the store's open-clip count of a program (R108). -/
def setOpenClips (p : Fin 4) (n : Nat) (s : State) : State := s.modChain p fun c => { c with openClips := n }

/-! ### Labels (R188) -/

/-- A label of revision `r` was sent (R188). -/
def labelSent (c r : Nat) (s : State) : State :=
  modClip c (fun k => if k.revision == r && k.label == .pending then { k with label := .sent } else k) s

/-- A LABEL entry of revision `r` was acked (R188). -/
def labelAcked (c r : Nat) (s : State) : State :=
  match clipAt c s with
  | some k =>
    if k.revision == r && k.label == .sent then
      (modClip c (fun k => { k with label := .confirmed }) s).modClips fun l =>
        { l with confirmed := incWrap32 l.confirmed }
    else s
  | none => s

/-! ### Shipping (R162, R189) -/

/-- Puts a clip at the ship queue's tail (R190, R191). -/
def queueShip (c : Nat) (s : State) : State :=
  (modClip c (fun k => { k with st := .queued, shipCursor := none }) s).modClips fun l =>
    { l with shipQueue := l.shipQueue ++ [c] }

/-- Whether shipping of the cursor's clip is complete (R162). -/
def shipDone (s : State) : Bool :=
  match s.sched.clipCursor with
  | some k => k.next == k.out && !(s.sched.window.any (Entry.isClipOf k.clip))
  | none => false

/-- Shipping complete: the clip becomes SHIPPED and CLIP_SHIPPED is raised (R189). The length of the range takes the 6 bytes
of a stream offset (the model's choice: log entry 20). -/
def completeShip (s : State) : State :=
  match s.sched.clipCursor with
  | none => s
  | some k =>
    let s1 := s.modSched fun d => { d with clipCursor := none }
    match clipAt k.clip s with
    | none => s1
    | some r =>
      raise .clipShipped (u8 k.clip ++ u32 r.creation ++ u48 (k.out - r.inOffset))
        ((modClip k.clip (fun r => { r with st := .shipped, shipCursor := some k.out }) s1).modClips fun l =>
          { l with shippedCount := incWrap32 l.shippedCount })

/-- Whether the ship queue's head may start (R189). -/
def shipCanStart (s : State) : Bool := (shippingClip s).isNone && !s.clips.shipQueue.isEmpty

/-- The clip at the ship queue's head becomes SHIPPING and the clip cursor is set for it (R162, R189). -/
def startShip (s : State) : State :=
  match s.clips.shipQueue with
  | [] => s
  | c :: rest =>
    let s1 := s.modClips fun l => { l with shipQueue := rest }
    match clipAt c s1 with
    | none => s1
    | some k =>
      letAsk ((modClip c (fun k => { k with st := .shipping, shipCursor := some k.inOffset }) s1).modSched fun d =>
        { d with clipCursor := some ⟨c, k.program.1, k.run, k.outOffset.getD k.inOffset, k.inOffset⟩ })

/-- Completes and starts clips until neither applies: each of the 64 queued clips starts and completes once at
most (R189). -/
def settleShipN : Nat → State → State
  | 0, s => s
  | n + 1, s =>
    if shipDone s then settleShipN n (completeShip s)
    else if shipCanStart s then settleShipN n (startShip s)
    else s

def settleShip (s : State) : State := settleShipN 130 s

/-! ### Closing (R181 to R184) -/

/-- Numbers of the segments a closing clip no longer pins: those at or after its out offset, all of them when its
range is empty (R183). -/
def pinsBeyond (k : Clip) (out : Nat) (s : State) : List Nat :=
  ((s.chain k.program).segs.filter fun g =>
    k.pinned.contains g.number && (k.inOffset == out || decide (out ≤ g.first))).map Segment.number

/-- A clip enters CLOSED (R183). -/
def closeClip (c outPicture : Nat) (outTimecode : Option Timecode) (outOffset : Nat) (s : State) : State :=
  match clipAt c s with
  | none => s
  | some k =>
    let out := max k.inOffset outOffset
    let far := pinsBeyond k out s
    let s1 := if k.st == .opened then setOpenClips k.program 0 s else s
    let s2 := modClip c (fun k =>
      { k with
        st := .closed
        outPicture := some outPicture
        outTimecode := outTimecode
        outOffset := some out
        requestedOut := none
        shipAtClose := false
        pinned := k.pinned.filter fun n => !far.contains n }) (unpin k.program far s1)
    let s3 := if k.label == .pending then addLabel c s2 else s2
    if k.shipAtClose then (queueShip c s3).modClips fun l => { l with shipQueued := incWrap32 l.shipQueued }
    else s3

/-- The label of a picture's PICTURE_HEAD, absent when the lookup finds none (R181, R184) or the label bytes do not all
stand (log entry 35). -/
def pictureLabel (p : Fin 4) (run picture : Nat) (s : State) : Option Timecode :=
  ((headLookup p run picture s).filter fun off => labelHeld p run off s).map fun off => headLabel p run off s

/-- Closes the OPEN or CLOSING clips of a program that enters IDLE (R184), in ascending clip id (log entry 36). -/
def closeAtIdle (p : Fin 4) (s : State) : State :=
  (clipIds (fun k => k.program == p && (k.st == .opened || k.st == .closing)) s).foldl (fun t c =>
    match clipAt c t with
    | none => t
    | some k =>
      let out := match t.clips.lastWritten.get p with
        | some w => if newer32 k.inPicture w then k.inPicture else w
        | none => k.inPicture
      closeClip c out (pictureLabel p k.run out t) (t.prog p).streamOffset t) s

/-- The period end of the CLOSING clips of a program whose requested out picture's period has ended (R182), in ascending
clip id, which orders the label queue and the ship queue (log entry 36). -/
def periodEnd (p : Fin 4) (s : State) : State :=
  (clipIds (fun k => k.program == p && k.st == .closing && match k.requestedOut with
      | some q => newer32 s.tb.picture q
      | none => false) s).foldl (fun t c =>
    match clipAt c t with
    | none => t
    | some k =>
      let q := k.requestedOut.getD k.inPicture
      closeClip c q (some t.tb.endedLabel) ((soundLookup p k.run q t).getD (t.prog p).streamOffset) t) s

/-! ### Marking in (R177 to R179) -/

/-- Answer of a mark that is refused: the status and its detail value. -/
structure MarkRefusal where
  status : Status
  detail : Nat
  deriving DecidableEq, Repr

/-- The requested picture of MARK_IN, clamped to the current picture and to the run's first (R178). -/
def clampIn (s : State) (p : Fin 4) (picture : Nat) : Nat :=
  let first := (s.prog p).firstPicture.getD s.tb.picture
  let q := if newer32 picture s.tb.picture then s.tb.picture else picture
  if newer32 first q then first else q

/-- Where an in point falls: its picture, offset and timecode, and whether it was trimmed (R178). -/
structure InPoint where
  picture : Nat
  offset : Nat
  timecode : Timecode
  trimmed : Bool
  deriving DecidableEq, Repr

/-- Places an in point for a clamped requested picture (R178). The unbroken tail may end in a held segment whose last
head runs into a newest segment that was sealed full and freed: the label bytes lost with it are free values (log entry
35). A picture 2^31 from the oldest head, with no head before it, is neither older nor newer than that head, and R178 gives
it no case: the model takes the oldest head, not TRIMMED. The oldest head is the first of the tail, and the newest before
the picture is the last, in stream order, that is older than it, also where the heads span over half the range (log entry
39). -/
def placeIn (p : Fin 4) (q : Nat) (s : State) : InPoint :=
  let run := (s.prog p).run
  let at' := fun (m : Mark) (trimmed : Bool) => InPoint.mk m.picture m.offset (headLabel p run m.offset s) trimmed
  let heads := tailHeads p run s
  match heads.find? fun m => m.picture == q with
  | some m => at' m false
  | none =>
    match heads with
    | [] => ⟨s.tb.picture, (s.prog p).streamOffset, s.tb.label, newer32 s.tb.picture q⟩
    | oldest :: _ =>
      if newer32 oldest.picture q then at' oldest true
      else
        match (heads.filter fun m => newer32 q m.picture).getLast? with
        | some m => at' m false
        | none => at' oldest false

/-- The next creation number: from 2^32 - 1 back to 1 (R175). -/
def nextCreationAfter (n : Nat) : Nat := if n + 1 = 2 ^ 32 then 1 else n + 1

/-- Whether a mark in is refused, by the checks of R177 that follow the range checks. -/
def markInRefusal (p : Fin 4) (s : State) : Option MarkRefusal :=
  match openClipOf p s with
  | some c => some ⟨.clipOpen, c⟩
  | none =>
    if (s.prog p).st != .running then some ⟨.wrongState, p.1⟩
    else if (clipIds (fun _ => true) s).length = Config.clipCount then some ⟨.clipLogFull, 64⟩
    else none

/-- The lowest-numbered FREE record (R177). -/
def lowestFree (s : State) : Nat :=
  (((List.finRange 64).filter fun c => (s.clips.recs.get c).isNone).map Fin.val).headD 0

/-- A mark in that is taken: the lowest FREE record becomes OPEN, with its in point and its pins (R177 to R179). -/
def markIn (p : Fin 4) (picture : Nat) (yieldable : Bool) (source : ClipSource) (s : State) : State :=
  let c := lowestFree s
  let q := clampIn s p picture
  let point := placeIn p q s
  let run := (s.prog p).run
  let (pinned, s1) := pinFrom p run point.offset s
  let clip : Clip :=
    { st := .opened, program := p, run := run, creation := s.clips.nextCreation, source := source,
      inPicture := point.picture, inTimecode := point.timecode, inOffset := point.offset, outPicture := none,
      outTimecode := none, outOffset := none, requestedOut := none, shipAtClose := false, text := [], tags := [],
      rating := 0, yieldable := yieldable, trimmed := point.trimmed, revision := 0, label := .pending,
      shipCursor := none, pinned := pinned }
  let s2 := (setOpenClips p 1 s1).modClips fun l =>
    { l with
      recs := Vec.put l.recs (Fin.ofNat 64 c) (some clip)
      nextCreation := nextCreationAfter l.nextCreation
      created := incWrap32 l.created
      trims := if point.trimmed then incSat16 l.trims else l.trims }
  if point.trimmed then raise .clipTrimmed (u8 c ++ u32 q ++ u32 point.picture) s2 else s2

/-! ### Marking out (R180, R181) -/

/-- The program's latest picture (R180). -/
def latestPicture (p : Fin 4) (s : State) : Nat :=
  match (s.prog p).st with
  | .draining => (s.prog p).drainPicture.getD s.tb.picture
  | .idle => s.tb.picture
  | .armed => s.tb.picture
  | .running => s.tb.picture

/-- The requested out picture: `none` is "now" (R180). -/
def clampOut (p : Fin 4) (inPicture : Nat) (picture : Option Nat) (s : State) : Nat :=
  let latest := latestPicture p s
  match picture with
  | none => latest
  | some q =>
    let q1 := if newer32 q latest then latest else q
    if newer32 inPicture q1 then inPicture else q1

/-- The out offset of a picture whose period has ended (R181). -/
def endedOut (p : Fin 4) (run q : Nat) (s : State) : Nat :=
  match soundLookup p run q s with
  | some off => off
  | none =>
    let later := (marksOf (runSegs p run s)).find? fun m =>
      m.kind == .head && newer32 m.picture q && !newer32 m.picture (latestPicture p s)
    match later with
    | some m => m.offset
    | none => (s.prog p).streamOffset

/-- A mark out that is taken, for the program's OPEN clip `c` (R180 to R182). -/
def markOut (p : Fin 4) (c : Nat) (picture : Option Nat) (s : State) : State :=
  match clipAt c s with
  | none => s
  | some k =>
    let q := clampOut p k.inPicture picture s
    if newer32 s.tb.picture q then
      closeClip c q (pictureLabel p k.run q s) (endedOut p k.run q s) s
    else
      modClip c (fun k => { k with st := .closing, requestedOut := some q }) (setOpenClips p 0 s)

/-! ### Release and yield (R193, R194) -/

/-- A clip is released (R193). The freed segments join the free list when the event frees its segments. -/
def releaseClip (c : Nat) (s : State) : State :=
  match clipAt c s with
  | none => s
  | some k =>
    let s1 := if k.st == .opened then setOpenClips k.program 0 s else s
    let s2 := s1.modClips fun l => { l with shipQueue := l.shipQueue.filter fun i => i != c }
    let s3 := if k.st == .shipping then withdrawCursor c s2 else s2
    let s4 := dropClip c true (withdrawLabel c s3)
    let s5 := unpin k.program k.pinned s4
    s5.modClips fun l =>
      { l with recs := Vec.put l.recs (Fin.ofNat 64 c) none, released := incWrap32 l.released }

/-- The oldest of some clips by creation number (R175, R194). Scanned from the end of the list, each clip takes the place
of the one held unless it is the newer. Where the creation numbers span half the 32-bit range or more, the serial
comparison names no oldest, and the scan decides: of two that lie 2^31 apart it takes the one of the lower id (the model's
choice: log entry 40). -/
def oldestClip (s : State) : List Nat → Option Nat
  | [] => none
  | c :: cs =>
    match oldestClip s cs with
    | none => some c
    | some d =>
      match clipAt c s, clipAt d s with
      | some k, some m => if newer32 k.creation m.creation then some d else some c
      | _, _ => some c

/-- The CLOSED or SHIPPED clips whose yieldable flag is set (R194). -/
def yieldables (s : State) : List Nat :=
  clipIds (fun k => k.yieldable && (k.st == .closed || k.st == .shipped)) s

/-- Answers a yield request: at most the 64 clips are released, oldest first, until the free count reaches the
reserve (R194). -/
def yieldN : Nat → State → State
  | 0, s => s
  | n + 1, s =>
    if s.store.reserve ≤ freeCount s then s
    else
      match oldestClip s (yieldables s) with
      | none => s
      | some c =>
        match clipAt c s with
        | none => s
        | some k =>
          yieldN n (freeZero (raise .clipYielded (u8 c ++ u32 k.creation ++ u8 k.program.1)
            ((releaseClip c s).modClips fun l => { l with yielded := incWrap32 l.yielded })))

/-- The reserve rule's yield request, whose frees join the free list together (R116, R117). -/
def yieldRequest (s : State) : State :=
  if freeCount s < s.store.reserve then
    freedTogether s (yieldN Config.clipCount (s.modStore fun t => { t with yields := incWrap32 t.yields }))
  else s

/-! ### Home clip requests (R191) -/

/-- One clip request of an accepted report (R191). -/
def homeRequest (id creation : Nat) (s : State) : State :=
  let found := if id < 64 then (clipAt id s).filter fun k => k.creation == creation else none
  match found with
  | some k =>
    if k.st == .closed then
      (queueShip id s).modClips fun l => { l with homeAccepted := incWrap32 l.homeAccepted }
    else
      raise .homeRequestRefused (u8 id ++ u32 creation ++ u8 k.st.code)
        (s.modClips fun l => { l with homeRefused := incSat16 l.homeRefused })
  | none =>
    raise .homeRequestRefused (u8 id ++ u32 creation ++ u8 0)
      (s.modClips fun l => { l with homeRefused := incSat16 l.homeRefused })

end Sys2Proof.Machine
end

