-- ==== Sys2Proof/Machine/Budget.lean ====
section
/-! DEFINITION. The picture rates (R1), the budget allocator (R60 to R72, R80) and the arithmetic of the rate loop
(R73 to R78). -/

namespace Sys2Proof.Machine

/-! ### Picture rates (R1) -/

/-- One row of the table of R1: the rate num/den, its timecode count, its cadence N/D and whether drop-frame is
allowed. -/
structure RateRow where
  num : Nat
  den : Nat
  pictures : Nat
  cadenceN : Nat
  cadenceD : Nat
  dropAllowed : Bool
  deriving DecidableEq, Repr

/-- The table of R1. -/
def rateRow : Fin 8 → RateRow
  | 0 => ⟨24000, 1001, 24, 2002, 1, false⟩
  | 1 => ⟨24, 1, 24, 2000, 1, false⟩
  | 2 => ⟨25, 1, 25, 1920, 1, false⟩
  | 3 => ⟨30000, 1001, 30, 8008, 5, true⟩
  | 4 => ⟨30, 1, 30, 1600, 1, false⟩
  | 5 => ⟨50, 1, 50, 960, 1, false⟩
  | 6 => ⟨60000, 1001, 60, 4004, 5, true⟩
  | 7 => ⟨60, 1, 60, 800, 1, false⟩

/-- The row of the station rate. -/
def stationRate (s : State) : RateRow := rateRow s.tb.rate

/-- The nominal period P of a rate, den/num seconds, in units of 1/375,000,000 s; it is a whole number of them. -/
def nominalPeriod (r : RateRow) : Nat := r.den * Config.unitsPerSecond / r.num

/-! ### The allocator -/

/-- Programs that are RUNNING, with their records (R64, R67). -/
def runningRecords (s : State) : List ProgramRecord :=
  (List.finRange 4).filterMap fun p => if (s.prog p).st == .running then (s.prog p).record else none

/-- Whether a path adds to the usable capacity (R63). -/
def carries (p : Path) : Bool := p.st == .up || p.st == .degraded

/-- The sum of the estimates of the paths in UP or DEGRADED (R63). -/
def sumEstimates (s : State) : Nat :=
  ((List.finRange 6).map fun l => if carries (s.path l) then (s.path l).estimate else 0).sum

/-- The sound rate of one record (R64). -/
def soundRate (r : ProgramRecord) : Nat := r.buses.length * r.soundWidth * 48

/-- Whether a clip is QUEUED or SHIPPING (R65). -/
def clipWaits (s : State) : Bool := !(clipIds (fun k => k.st == .queued || k.st == .shipping) s).isEmpty

/-- The share of a record when the video budget meets the minima (R68). -/
def shareAbove (video minSum weights : Nat) (r : ProgramRecord) : Nat :=
  min r.maxRate (r.minRate + (video - minSum) * r.weight / weights)

/-- The share of a record when it does not (R69). -/
def shareBelow (video minSum : Nat) (r : ProgramRecord) : Nat := video * r.minRate / minSum

/-- The share of one program (R67 to R69). -/
def shareOf (s : State) (video minSum weights : Nat) (p : Fin 4) : Nat :=
  match (s.prog p).st, (s.prog p).record with
  | .running, some r => if minSum ≤ video then shareAbove video minSum weights r else shareBelow video minSum r
  | _, _ => 0

/-- The outputs that a run forms from the state (R63 to R71). -/
def allocate (cause : AllocCause) (s : State) : Allocator :=
  let a := s.alloc
  let rs := runningRecords s
  let usable := sumEstimates s * a.headroom / 16
  let sound := (rs.map soundRate).sum
  let counted := if clipWaits s then a.clipFloor else 0
  let video := usable - (sound + a.labelReserve + counted)
  let minSum := (rs.map ProgramRecord.minRate).sum
  let weights := (rs.map ProgramRecord.weight).sum
  let shares := Vec.tab (shareOf s video minSum weights)
  let spare := video - (shares.get 0 + shares.get 1 + shares.get 2 + shares.get 3)
  let starved := !rs.isEmpty && decide (video < minSum)
  { a with
    usable := usable
    sound := sound
    clipCounted := counted
    video := video
    minSum := minSum
    shares := shares
    spare := spare
    clipRate := counted + spare
    starved := starved
    runs := incWrap32 a.runs
    starvedCount := if starved && !a.starved then incWrap32 a.starvedCount else a.starvedCount
    cause := some cause }

/-- One run of the allocator (R62): its outputs stand, STARVED is raised when the indication is set from clear (R71),
and the clip bucket is saturated to its new cap (R163). -/
def runAllocator (cause : AllocCause) (s : State) : State :=
  let a := allocate cause s
  let s1 := { s with alloc := a, sched := { s.sched with bucket := min s.sched.bucket (100 * a.clipRate) } }
  if a.starved && !s.alloc.starved then
    raise .starved (u32 a.video ++ u32 a.minSum ++ u8 (runningRecords s).length) s1
  else s1

/-- The allocation tick, when the divider has made one (R7, R61). -/
def takeAllocationTick (s : State) : State :=
  if s.tb.allocDue then runAllocator .allocationTick (s.modTb fun t => { t with allocDue := false }) else s

/-! ### The rate loop -/

/-- The picture target of a share (R74). -/
def pictureTarget (share : Nat) (rate : RateRow) : Nat := share * 1000 * rate.den / rate.num

/-- The picture start (R74): `slices` is height/8. -/
def loopStart (share : Nat) (rate : RateRow) (r : ProgramRecord) (l : RateLoop) : RateLoop :=
  let target := pictureTarget share rate
  let bound := share * r.buffer
  { l with
    share := share
    target := target
    sliceTarget := target / (r.height / 8)
    bound := bound
    cmax := target * r.ceiling
    fullness := saturate (-(bound : Int)) bound l.fullness
    struck := false }

/-- How far the index moves for a fullness (R75). -/
def indexMove (bound : Nat) (f : Int) : Int :=
  let half : Int := (bound / 2 : Nat)
  let eighth : Int := (bound / 8 : Nat)
  if half < f then 2
  else if eighth < f then 1
  else if f < -half then -2
  else if f < -eighth then -1
  else 0

/-- The fullness after a slice of `b` bits (R75). -/
def fullnessAfter (l : RateLoop) (b : Nat) : Int :=
  saturate (-(l.bound : Int)) l.bound (l.fullness + b - l.sliceTarget)

/-- The quantiser index after a slice (R75). -/
def indexAfter (r : ProgramRecord) (bound : Nat) (f : Int) (qi : Nat) : Nat :=
  (saturate r.qmin r.qmax (qi + indexMove bound f)).toNat

end Sys2Proof.Machine
end

