-- ==== Sys2Proof/Machine/Tile.lean ====
section
/-! DEFINITION. Tile coding: transform, quantiser, scan, codes and packing (R37 to R45), the stream units (R215), and
the check of a code table (R55). -/

namespace Sys2Proof.Machine

/-- Four like things in order: the samples of a tile row, or the rows of a tile. -/
structure Quad (α : Type) where
  a : α
  b : α
  c : α
  d : α
  deriving DecidableEq, Repr

/-- Applies a function to each of the four. -/
def quadMap {α β : Type} (f : α → β) (q : Quad α) : Quad β := ⟨f q.a, f q.b, f q.c, f q.d⟩

/-- Element 0 to 3. -/
def quadGet {α : Type} (q : Quad α) : Fin 4 → α
  | 0 => q.a
  | 1 => q.b
  | 2 => q.c
  | 3 => q.d

/-- Rows become columns. -/
def quadTranspose {α : Type} (t : Quad (Quad α)) : Quad (Quad α) :=
  ⟨⟨t.a.a, t.b.a, t.c.a, t.d.a⟩, ⟨t.a.b, t.b.b, t.c.b, t.d.b⟩, ⟨t.a.c, t.b.c, t.c.c, t.d.c⟩,
    ⟨t.a.d, t.b.d, t.c.d, t.d.d⟩⟩

/-- The four-point transform (R38). -/
def fourPoint (q : Quad Int) : Quad Int :=
  ⟨q.a + q.b + q.c + q.d, q.a + q.b - q.c - q.d, q.a - q.b - q.c + q.d, q.a - q.b + q.c - q.d⟩

/-- Coefficients of a centred tile, rows first: row `u`, place `v` of the result is the coefficient (u, v) (R38). -/
def coefficients (tile : Quad (Quad Int)) : Quad (Quad Int) :=
  quadTranspose (quadMap fourPoint (quadTranspose (quadMap fourPoint tile)))

/-- The quantiser step of an index (R39). -/
def quantStep (qi : Nat) : Nat := (8 + qi % 8) * 2 ^ (qi / 8)

/-- The level of a coefficient (R39). -/
def quantLevel (step : Nat) (c : Int) : Int :=
  let m : Int := ((c.natAbs + step / 2) / step : Nat)
  if c < 0 then -m else m

/-- The chroma index of a luma index and a chroma offset (R40). -/
def chromaIndex (qi : Nat) (offset : Int) : Nat := (saturate 0 47 (qi + offset)).toNat

/-- The scan order (R41). -/
def scanOrder : List (Fin 4 × Fin 4) :=
  [(0, 0), (0, 1), (1, 0), (2, 0), (1, 1), (0, 2), (0, 3), (1, 2),
    (2, 1), (3, 0), (3, 1), (2, 2), (1, 3), (2, 3), (3, 2), (3, 3)]

/-- The sixteen levels of a tile in scan order on the full path (R38, R39, R41). -/
def scanLevels (step : Nat) (tile : Quad (Quad Int)) : List Int :=
  let k := coefficients tile
  scanOrder.map fun (u, v) => quantLevel step (quadGet (quadGet k u) v)

/-- On the DC-only path every level but the first is 0 (R45). -/
def dcLevels (step : Nat) (tile : Quad (Quad Int)) : List Int :=
  [quantLevel step (coefficients tile).a.a]

/-- Run and level pairs of levels in scan order; `run` zeros stand before the first (R41). -/
def runPairs : Nat → List Int → List (Nat × Int)
  | _, [] => []
  | run, l :: ls => if l = 0 then runPairs (run + 1) ls else (run, l) :: runPairs 0 ls

/-- The `k` low bits of `n`, most significant first. -/
def bitsMsb : Nat → Nat → List Bool
  | 0, _ => []
  | k + 1, n => n.testBit k :: bitsMsb k n

/-- The code of an entry (R42). -/
def codeBits (t : List CodeEntry) (i : Nat) : List Bool :=
  let e := t.getD i ⟨0, 0⟩
  bitsMsb e.length e.value

/-- Whether a pair is escaped (R43). -/
def isEscaped (p : Nat × Int) : Bool := decide (8 < p.2.natAbs)

/-- The bits of one pair (R43). -/
def pairBits (t : List CodeEntry) (p : Nat × Int) : List Bool :=
  if isEscaped p then codeBits t 128 ++ bitsMsb 4 p.1 ++ bitsMsb 12 (p.2 % 4096).toNat
  else codeBits t (8 * p.1 + p.2.natAbs - 1) ++ [decide (p.2 < 0)]

/-- The bits of one tile: its pairs, then EOT (R43). -/
def tileBits (t : List CodeEntry) (pairs : List (Nat × Int)) : List Bool :=
  pairs.flatMap (pairBits t) ++ codeBits t 129

/-- A byte from its 8 bits, most significant first. -/
def byteOfBits (bs : List Bool) : Byte := BitVec.ofNat 8 (bs.foldl (fun n b => 2 * n + (if b then 1 else 0)) 0)

/-- Bits packed into bytes from the most significant bit, the last byte padded with zeros (R44). -/
def packBits : List Bool → List Byte
  | b7 :: b6 :: b5 :: b4 :: b3 :: b2 :: b1 :: b0 :: rest => byteOfBits [b7, b6, b5, b4, b3, b2, b1, b0] :: packBits rest
  | [] => []
  | rest => [byteOfBits ((rest ++ List.replicate 8 false).take 8)]

/-- Centred samples of a line (R38). -/
def centred (l : List Sample10) : List Int := l.map fun x => (x.toNat : Int) - 512

/-- A line cut into groups of four samples. -/
def quads : List Int → List (Quad Int)
  | a :: b :: c :: d :: rest => ⟨a, b, c, d⟩ :: quads rest
  | _ => []

/-- The tiles of four lines, left to right (R37). -/
def tilesOfRows (r0 r1 r2 r3 : List Sample10) : List (Quad (Quad Int)) :=
  List.zipWith (fun p q => ⟨p.1, p.2, q.1, q.2⟩)
    ((quads (centred r0)).zip (quads (centred r1))) ((quads (centred r2)).zip (quads (centred r3)))

/-- The tiles of one component of a slice's eight lines: the upper row, then the lower (R37). -/
def tilesOfComponent (ls : List (List Sample10)) : List (Quad (Quad Int)) :=
  let r := fun i => ls.getD i []
  tilesOfRows (r 0) (r 1) (r 2) (r 3) ++ tilesOfRows (r 4) (r 5) (r 6) (r 7)

/-- The pairs of a slice, tile by tile: every Y tile, then every Cb, then every Cr (R37, R40, R45). -/
def slicePairs (lines : List Line) (qi : Nat) (offset : Int) (dcOnly : Bool) : List (List (Nat × Int)) :=
  let path := fun step => if dcOnly then dcLevels step else scanLevels step
  let luma := quantStep qi
  let chroma := quantStep (chromaIndex qi offset)
  ((tilesOfComponent (lines.map Line.y)).map fun t => runPairs 0 (path luma t)) ++
    ((tilesOfComponent (lines.map Line.cb)).map fun t => runPairs 0 (path chroma t)) ++
    ((tilesOfComponent (lines.map Line.cr)).map fun t => runPairs 0 (path chroma t))

/-- The payload of a slice (R44). -/
def slicePayload (t : List CodeEntry) (pairs : List (List (Nat × Int))) : List Byte :=
  packBits (pairs.flatMap (tileBits t))

/-- Pairs of a slice that are written with ESCAPE (R52). -/
def escapedPairs (pairs : List (List (Nat × Int))) : Nat :=
  (pairs.map fun ps => ps.countP isEscaped).sum

/-! ### Stream units (R215) -/

/-- The kinds of stream unit, with what a mark or a closing test needs of each. -/
inductive UnitKind where
  | head
  | slice (last : Bool)
  | repeated
  | sound
  deriving DecidableEq, Repr

/-- A whole unit as it is offered to a writer (R109, R110). -/
structure StreamUnit where
  kind : UnitKind
  picture : Nat
  bytes : List Byte
  deriving DecidableEq, Repr

/-- A unit's bytes: the 9-byte header, then what follows it. -/
def unitBytes (kind picture : Nat) (rest : List Byte) : List Byte :=
  u8 kind ++ u32 (9 + rest.length) ++ u32 picture ++ rest

/-- PICTURE_HEAD (R46, R215). -/
def headUnit (picture : Nat) (label : Timecode) (r : ProgramRecord) (qi : Nat) (slate : Bool) : StreamUnit :=
  ⟨.head, picture, unitBytes 1 picture (encTimecode label ++ u8 r.table ++ u8 qi ++ flag slate ++ u16 r.width
    ++ u16 r.height ++ twos 1 r.chromaOffset)⟩

/-- SLICE (R47, R215). -/
def sliceUnit (picture index qi : Nat) (last : Bool) (payload : List Byte) : StreamUnit :=
  ⟨.slice last, picture, unitBytes 2 picture (u16 index ++ u8 qi ++ u32 payload.length ++ payload)⟩

/-- REPEAT (R30, R215). -/
def repeatUnit (picture : Nat) : StreamUnit := ⟨.repeated, picture, unitBytes 3 picture []⟩

/-- SOUND: `frames` holds, for each of the `count` sample positions, the sample of every bus (R99, R215). -/
def soundUnit (picture count buses width : Nat) (frames : List (List Int)) : StreamUnit :=
  ⟨.sound, picture, unitBytes 4 picture (u16 count ++ u8 buses ++ u8 width
    ++ frames.flatMap fun f => f.flatMap (twos (width / 8)))⟩

/-- A closing unit (R154). -/
def isClosing (u : StreamUnit) : Bool :=
  match u.kind with
  | .head => false
  | .slice last => last
  | .repeated => true
  | .sound => true

/-! ### Code table check (R55) -/

/-- An entry in range (R55, range pass). -/
def entryInRange (e : CodeEntry) : Bool :=
  decide (1 ≤ e.length) && decide (e.length ≤ 16) && decide (e.value < 2 ^ e.length)

/-- Two codes conflict: one equals the leading bits of the other (R55, prefix pass). -/
def entriesConflict (x y : CodeEntry) : Bool :=
  let m := min x.length y.length
  x.value / 2 ^ (x.length - m) == y.value / 2 ^ (y.length - m)

/-- The first entry out of range, counting from `i`. -/
def firstOutOfRange : Nat → List CodeEntry → Option Nat
  | _, [] => none
  | i, e :: es => if entryInRange e then firstOutOfRange (i + 1) es else some i

/-- The first later entry, counting from `j`, that conflicts with `x`. -/
def firstConflictWith (x : CodeEntry) : Nat → List CodeEntry → Option Nat
  | _, [] => none
  | j, e :: es => if entriesConflict x e then some j else firstConflictWith x (j + 1) es

/-- The first conflicting pair in order of i and then j, counting from `i`. -/
def firstConflict : Nat → List CodeEntry → Option (Nat × Nat)
  | _, [] => none
  | i, e :: es =>
    match firstConflictWith e (i + 1) es with
    | some j => some (i, j)
    | none => firstConflict (i + 1) es

/-- The result of the check (R55). -/
def checkTable (es : List CodeEntry) : CheckResult :=
  match firstOutOfRange 0 es with
  | some i => .outOfRange i
  | none =>
    match firstConflict 0 es with
    | some (i, j) => .ambiguous i j
    | none => .pass

end Sys2Proof.Machine
end

