-- ==== Sys2Proof/Machine/Writer.lean ====
section
/-! DEFINITION. Taking segments and offering units to a program's writer (R109, R110, R117, R118), and the tile
coder's list with the rate loop's part in it (R46 to R51, R74 to R78, R31). -/

namespace Sys2Proof.Machine

/-! ### Takes -/

/-- The reserve rule after a take (R117). -/
def reserveRule (s : State) : State :=
  if freeCount s < s.store.reserve then yieldRequest (setPressure none s) else s

/-- A CLOSING clip pins a segment its program's writer takes (R182). -/
def pinClosing (p : Fin 4) (n : Nat) (s : State) : State :=
  (clipIds (fun k => k.program == p && k.st == .closing) s).foldl (fun t c =>
    modClip c (fun k => { k with pinned := k.pinned ++ [n] })
      (modSegs p (fun g => if g.number == n then { g with pins := g.pins + 1 } else g) t)) s

/-- The OPEN clip counts the pin its program's new segment starts with (R109, R115). -/
def pinOpen (p : Fin 4) (n : Nat) (s : State) : State :=
  match openClipOf p s with
  | some c => modClip c (fun k => { k with pinned := k.pinned ++ [n] }) s
  | none => s

/-- The record of a segment just taken (R109). -/
def newSegment (n run offset pins : Nat) : Segment :=
  { number := n, run := run, first := offset, fill := 0, firstPicture := none, lastPicture := none, isSealed := false,
    writer := true, pendingSend := true, refs := 0, retention := false, pins := pins, marks := [], units := [] }

/-- A take from a free list that is not empty; `offset` is the program's stream offset at that moment (R109). The
program's own take count wraps at 2^32, as the store's does (R123; log entry 20). -/
def takeSegment (p : Fin 4) (offset : Nat) (s : State) : State :=
  match s.store.freeList with
  | [] => s
  | n :: rest =>
    let seg := newSegment n (s.prog p).run offset (s.chain p).openClips
    reserveRule (pinClosing p n (pinOpen p n
      ((s.modStore fun t => { t with freeList := rest, takes := incWrap32 t.takes }).modChain p fun c =>
        { c with segs := c.segs ++ [seg], takes := incWrap32 c.takes })))

/-- A take that finds the free list empty: the picture is cut (R118). -/
def refuseTake (p : Fin 4) (picture : Nat) (s : State) : State :=
  let s1 := (s.modStore fun t => { t with refused := incSat16 t.refused }).modChain p fun c =>
    { c with cut := some picture, cuts := incSat16 c.cuts }
  let s2 := raise .pictureCut (u8 p.1 ++ u8 (s.prog p).run ++ u32 picture ++ u48 (s.prog p).streamOffset
    ++ u16 (s1.chain p).cuts) s1
  yieldRequest (setPressure (some p.1) s2)

/-- The take at a program's release: `picture` is the run's first picture (R14, R118). -/
def takeAtRelease (p : Fin 4) (picture : Nat) (s : State) : State :=
  if s.store.freeList.isEmpty then refuseTake p picture s else takeSegment p (s.prog p).streamOffset s

/-! ### Offering units (R110) -/

/-- The room of a program (R110). -/
def room (p : Fin 4) (s : State) : Nat :=
  match openSeg p s with
  | some g => Config.segmentBytes - g.fill
  | none => 0

/-- The older, and the newer, of a touched picture and one more (R105). Pictures of one segment that span over half the
range have no oldest and no newest: each is compared with the one held, in stream order (log entry 39). -/
def olderOf (a : Option Nat) (b : Nat) : Option Nat :=
  match a with
  | none => some b
  | some x => some (if newer32 x b then b else x)
def newerOf (a : Option Nat) (b : Nat) : Option Nat :=
  match a with
  | none => some b
  | some x => some (if newer32 b x then b else x)

/-- The mark that a part of a unit gives the segment it lies in (R105). -/
def partMark (u : StreamUnit) (start : Nat) (hasFirst hasLast : Bool) : List Mark :=
  match u.kind with
  | .head => if hasFirst then [⟨.head, u.picture, start⟩] else []
  | .repeated => if hasFirst then [⟨.repeated, u.picture, start⟩] else []
  | .sound => if hasLast then [⟨.sound, u.picture, start + u.bytes.length⟩] else []
  | .slice _ => []

/-- Writes part of a unit into the program's OPEN segment from its fill onward, and seals the segment when that fills
it (R110, R111). -/
def writePart (p : Fin 4) (u : StreamUnit) (start : Nat) (part : List Byte) (hasFirst hasLast : Bool) (s : State) :
    State :=
  match openSeg p s with
  | none => s
  | some g =>
    let s1 := s.modMem fun m => memWriteBytes m (segAddress g.number g.fill) part
    let s2 := modSegs p (fun x =>
      if x.number == g.number then
        { x with
          fill := x.fill + part.length
          firstPicture := olderOf x.firstPicture u.picture
          lastPicture := newerOf x.lastPicture u.picture
          marks := x.marks ++ partMark u start hasFirst hasLast
          units := x.units ++ [⟨start, u.bytes.length, u.picture⟩] }
      else x) s1
    if g.fill + part.length = Config.segmentBytes then sealOpen p s2 else s2

/-- What a unit that was written leaves: the stream offset, the last written picture (R184), whether it is a closing
unit (R154), and an ask (R157). -/
def afterWrite (p : Fin 4) (u : StreamUnit) (s : State) : State :=
  letAsk (((s.modProg p fun g => { g with streamOffset := g.streamOffset + u.bytes.length }).modLive p fun v =>
    { v with closing := isClosing u }).modClips fun l => { l with lastWritten := Vec.put l.lastWritten p (some u.picture) })

/-- Offers a unit to a program's writer: whether the store took it, and the state after (R110). -/
def offerUnit (p : Fin 4) (u : StreamUnit) (s : State) : Bool × State :=
  if (s.chain p).cut = some u.picture then (false, s)
  else
    let space := room p s
    let start := (s.prog p).streamOffset
    if u.bytes.length ≤ space then (true, afterWrite p u (writePart p u start u.bytes true true s))
    else if s.store.freeList.isEmpty then (false, refuseTake p u.picture s)
    else
      let s1 := if space = 0 then s else writePart p u start (u.bytes.take space) true false s
      let s2 := takeSegment p (start + space) s1
      (true, afterWrite p u (writePart p u start (u.bytes.drop space) (decide (space = 0)) true s2))

/-! ### The coder (R46 to R51) -/

/-- Takes the front item off a coder's list. -/
def popItem (p : Fin 4) (s : State) : State := s.modCoder p fun c => { c with list := c.list.tail, coding := none }

/-- Marks a picture as cut for the coder (R50). -/
def coderCut (p : Fin 4) (picture : Nat) (s : State) : State := s.modCoder p fun c => { c with cut := some picture }

/-- Writes the PICTURE_HEAD of a coded picture; once written it is the rate loop's picture start (R46, R74), with the
share that the program has at that moment (log entry 32). -/
def writeHead (p : Fin 4) (picture : Nat) (label : Timecode) (s : State) : State :=
  match (s.prog p).record with
  | none => s
  | some r =>
    let (ok, s1) := offerUnit p (headUnit picture label r (s.coder p).qi false) s
    if ok then
      (s1.modLoop p (loopStart (s1.alloc.shares.get p) (stationRate s1) r)).modCoder p fun c => { c with bitCount := 0 }
    else coderCut p picture s1

/-- Writes a REPEAT unit (R30). -/
def writeRepeat (p : Fin 4) (picture : Nat) (s : State) : State :=
  let (ok, s1) := offerUnit p (repeatUnit picture) s
  if ok then s1 else coderCut p picture s1

/-- The eight lines of a slate slice (R31). -/
def slateLines (r : ProgramRecord) : List Line :=
  List.replicate 8
    ⟨List.replicate r.width (BitVec.ofNat 10 r.slateY), List.replicate (r.width / 2) (BitVec.ofNat 10 r.slateCb),
      List.replicate (r.width / 2) (BitVec.ofNat 10 r.slateCr)⟩

/-- The code entries that a record's table holds. -/
def recordTable (r : ProgramRecord) (s : State) : List CodeEntry := (s.table (Fin.ofNat 2 r.table)).entries

/-- Writes slices `index` on of a slate, `left` of them, until one is refused (R31, R50). -/
def writeSlateSlices (p : Fin 4) (picture qi escapes : Nat) (payload : List Byte) : Nat → Nat → State → State
  | 0, _, s => s
  | left + 1, index, s =>
    let (ok, s1) := offerUnit p (sliceUnit picture index qi (left == 0) payload) s
    if ok then
      writeSlateSlices p picture qi escapes payload left (index + 1)
        (s1.modCoder p fun c => { c with escaped := (c.escaped + escapes) % 2 ^ 32 })
    else coderCut p picture s1

/-- Writes a slate: its head, then every slice on the DC-only path at the index the rate loop holds (R31, R32). -/
def writeSlate (p : Fin 4) (picture : Nat) (label : Timecode) (s : State) : State :=
  match (s.prog p).record with
  | none => s
  | some r =>
    let qi := (s.coder p).qi
    let (ok, s1) := offerUnit p (headUnit picture label r qi true) s
    if ok then
      let pairs := slicePairs (slateLines r) qi r.chromaOffset true
      writeSlateSlices p picture qi (escapedPairs pairs) (slicePayload (recordTable r s) pairs) (r.height / 8) 0 s1
    else coderCut p picture s1

/-- The coder begins a slice: its path and index are chosen, and the ceiling acts (R48, R77). The slice index in the details
of CEILING takes 2 bytes, as in a SLICE unit (R215), since R212 lists no type for it (the model's choice: log entry 20). -/
def beginSlice (p : Fin 4) (picture index : Nat) (s : State) : State :=
  match (s.prog p).record with
  | none => popItem p s
  | some r =>
    let l := s.loop p
    if l.cmax < (s.coder p).bitCount then
      let s1 := s.modCoder p fun c =>
        { c with coding := some ⟨r.qmax, true⟩, dcSlices := incWrap32 c.dcSlices }
      if l.struck then s1
      else
        let s2 := s1.modLoop p fun l => { l with ceilings := incSat16 l.ceilings, struck := true, held := true }
        if l.held then s2 else raise .ceiling (u8 p.1 ++ u32 picture ++ u16 index ++ u32 l.cmax) s2
    else s.modCoder p fun c => { c with coding := some ⟨c.qi, false⟩ }

/-- Whether the slices of a picture are dropped uncoded: a unit of the picture was refused, one of the coder's own or,
as the program's cut picture tells, any other such as its SOUND unit (R50, R118). -/
def isCut (p : Fin 4) (picture : Nat) (s : State) : Bool :=
  (s.coder p).cut == some picture || (s.chain p).cut == some picture

/-- Works the coder's list until a slice is coding or the list is empty: heads, REPEAT units and slates are written
as they reach the front, and slices of a cut picture are dropped (R49, R50). -/
def advanceN (p : Fin 4) : Nat → State → State
  | 0, s => s
  | n + 1, s =>
    match (s.coder p).list with
    | [] => s
    | .head picture label :: _ => advanceN p n (writeHead p picture label (popItem p s))
    | .repeated picture :: _ => advanceN p n (writeRepeat p picture (popItem p s))
    | .slate picture label :: _ => advanceN p n (writeSlate p picture label (popItem p s))
    | .slice picture index _ :: _ =>
      if (s.coder p).coding.isSome then s
      else if isCut p picture s then advanceN p n (popItem p s)
      else beginSlice p picture index s

def advance (p : Fin 4) (s : State) : State := advanceN p ((s.coder p).list.length) s

/-- The rate loop takes a slice of `b` bits and moves the coder's index (R75). -/
def loopTake (p : Fin 4) (r : ProgramRecord) (b : Nat) (s : State) : State :=
  let f := fullnessAfter (s.loop p) b
  let bound := (s.loop p).bound
  (s.modLoop p fun l => { l with fullness := f }).modCoder p fun c => { c with qi := indexAfter r bound f c.qi }

/-- The last slice of a coded picture was written (R52, R77). -/
def pictureDone (p : Fin 4) (s : State) : State :=
  (s.modCoder p fun c => { c with coded := incWrap32 c.coded, lastBits := c.bitCount }).modLoop p fun l =>
    { l with held := l.held && l.struck }

/-- Coding of the slice at the front completes and its SLICE unit is offered (R47, R50, R52). -/
def finishSlice (p : Fin 4) (s : State) : State :=
  match (s.coder p).list, (s.coder p).coding, (s.prog p).record with
  | .slice picture index lines :: _, some c, some r =>
    let pairs := slicePairs lines c.qi r.chromaOffset c.dcOnly
    let last := index + 1 == r.height / 8
    let u := sliceUnit picture index c.qi last (slicePayload (recordTable r s) pairs)
    let (ok, s1) := offerUnit p u (popItem p s)
    if ok then
      let b := 8 * u.bytes.length
      let s2 := s1.modCoder p fun d =>
        { d with bitCount := d.bitCount + b, escaped := (d.escaped + escapedPairs pairs) % 2 ^ 32 }
      let s3 := loopTake p r b s2
      if last then pictureDone p s3 else s3
    else coderCut p picture s1
  | _, _, _ => s

/-- The slice that is coding completes, and the coder goes on with its list (R49). -/
def sliceCoded (p : Fin 4) (s : State) : State :=
  if (s.coder p).coding.isSome then advance p (finishSlice p s) else s

/-- Codes and writes the whole list at once: the slices that close a picture short, a stand-in, and all that stands
before them (R30, R49). -/
def flushN (p : Fin 4) : Nat → State → State
  | 0, s => s
  | n + 1, s =>
    let s1 := advance p s
    if (s1.coder p).coding.isSome then flushN p n (finishSlice p s1) else s1

def flushCoder (p : Fin 4) (s : State) : State := flushN p ((s.coder p).list.length + 1) s

/-- Puts items at the tail of a coder's list (R49). -/
def callFor (p : Fin 4) (items : List CoderItem) (s : State) : State :=
  s.modCoder p fun c => { c with list := c.list ++ items }

end Sys2Proof.Machine
end

