-- ==== Sys2Proof/Machine/Sound.lean ====
section
/-! DEFINITION. Sound: the slot ports (R81 to R87), the sample tick of the mixer (R88 to R96), the framer (R97 to
R100) and the monitor port (R101). -/

namespace Sys2Proof.Machine

/-! ### Slot ports -/

/-- Frames a slot port's buffer holds (R83), and the frames a release keeps (R84). -/
def slotBufferFrames : Nat := 16
def alignedDepth : Nat := 8

/-- The position that the next slot is expected to take (R81). -/
def expectedSlot (q : SlotPort) : Nat :=
  match q.position with
  | none => 0
  | some p => if q.count ≤ p + 1 then 0 else p + 1

/-- What a slot is to the port (R81). -/
inductive SlotClass where
  | correctMarker
  | wrongMarker
  | missedMarker
  | other
  deriving DecidableEq, Repr

/-- The class of a slot (R81). -/
def slotClass (q : SlotPort) (marker : Bool) : SlotClass :=
  if marker then
    if q.position.isSome && expectedSlot q == 0 then .correctMarker else .wrongMarker
  else if expectedSlot q == 0 then .missedMarker
  else .other

/-- Loss of frame lock: the position and lock count are as the event left them (R81). -/
def loseLock (position : Option Nat) (q : SlotPort) : SlotPort :=
  { q with
    st := .seeking, position := position, lock := 0, partFrame := [], buffer := [],
    lockLosses := incSat16 q.lockLosses }

/-- A port that keeps frame lock takes a slot into the frame being taken, and appends the frame when it is complete
(R83). -/
def growFrame (position : Nat) (samples : List Sample24) (q : SlotPort) : SlotPort :=
  if position + 1 = q.count then
    { q with
      position := some position
      partFrame := []
      buffer := (q.buffer ++ [samples]).drop ((q.buffer ++ [samples]).length - slotBufferFrames) }
  else { q with position := some position, partFrame := samples }

/-- The port after a slot, before its depth is looked at (R81, R83). -/
def slotStep (marker : Bool) (sample : Sample24) (q : SlotPort) : SlotPort :=
  match q.st, slotClass q marker with
  | .off, _ => q
  | .seeking, .correctMarker =>
    if q.lock + 1 < 2 then { q with position := some 0, lock := q.lock + 1 }
    else growFrame 0 [sample] { q with st := .pending, lock := 2 }
  | .seeking, .wrongMarker => { q with position := some 0, lock := 0 }
  | .seeking, .missedMarker => { q with position := none, lock := 0 }
  | .seeking, .other => { q with position := some (expectedSlot q) }
  | _, .correctMarker => growFrame 0 [sample] { q with lock := min (q.lock + 1) 2 }
  | _, .wrongMarker => loseLock (some 0) q
  | _, .missedMarker => loseLock none q
  | _, .other => growFrame (expectedSlot q) (q.partFrame ++ [sample]) q

/-- A buffer depth that leaves 2 to 14 takes an ALIGNED port to UNALIGNED (R85). -/
def checkDepth (i : Fin 4) (s : State) : State :=
  let q := s.slot i
  if q.st == .aligned && (decide (q.buffer.length < 2) || decide (14 < q.buffer.length)) then
    raise .portUnaligned (u8 i.1 ++ u8 q.buffer.length)
      (s.modSlot i fun q => { q with st := .unaligned, unaligneds := incSat16 q.unaligneds })
  else s

/-- A slot port takes a slot (R81, R83, R85). -/
def takeSlot (i : Fin 4) (marker : Bool) (sample : Sample24) (s : State) : State :=
  checkDepth i (s.modSlot i (slotStep marker sample))

/-- The port after 1 ms without a slot (R81). -/
def silentSlot (q : SlotPort) : SlotPort :=
  match q.st with
  | .off => q
  | .seeking => { q with position := none, lock := 0 }
  | .pending => loseLock none q
  | .aligned => loseLock none q
  | .unaligned => loseLock none q

/-- The release of a slot port at a picture tick (R84). -/
def releaseSlot (q : SlotPort) : SlotPort :=
  if (q.st == .pending || q.st == .unaligned) && decide (alignedDepth ≤ q.buffer.length) then
    { q with st := .aligned, buffer := q.buffer.drop (q.buffer.length - alignedDepth) }
  else q

/-! ### The mixer -/

/-- The frame that an ALIGNED port hands at a sample tick (R85). -/
def handed (q : SlotPort) : Option (List Sample24) := if q.st == .aligned then q.buffer.head? else none

/-- Every ALIGNED port hands its oldest frame (R85), in ascending number, which orders the notices of ports that go
UNALIGNED together (log entry 24). -/
def handFrames (s : State) : State :=
  let hand := fun (i : Fin 4) (t : State) =>
    checkDepth i (t.modSlot i fun q => if q.st == .aligned then { q with buffer := q.buffer.tail } else q)
  eachProgram hand s

/-- The sample an input takes, from the ports as they stand before the hand-over (R89). -/
def inputSample (s : State) (i : Fin 32) : Int :=
  match s.mixer.bindings.get i with
  | none => 0
  | some (port, slot) =>
    let q := s.slot (idx4 port)
    match handed q with
    | none => 0
    | some f => if slot < q.count then (f.getD slot 0).toInt else 0

/-- One ramp step of a gain cell (R91). -/
def rampStep (g : GainCell) : GainCell :=
  if g.remaining = 0 then g
  else
    { g with
      current := ((g.current : Int) + ((g.target : Int) - g.current).tdiv g.remaining).toNat
      remaining := g.remaining - 1 }

/-- The bounds of a 24-bit, and of a 16-bit, signed sample. -/
def min24 : Int := -8388608
def max24 : Int := 8388607
def min16 : Int := -32768
def max16 : Int := 32767

/-- The rounded bus sum before saturation (R92). -/
def busSum (inputs : Vector Int 32) (cells : Vector GainCell 32) : Int :=
  (((List.finRange 32).map fun i => inputs.get i * (cells.get i).current).sum + 8192) / 16384

/-- One step of dither generator A: the new bit and the register (R95). -/
def stepA (r : BitVec 17) : Bool × BitVec 17 :=
  let b := r.getLsbD 16 ^^ r.getLsbD 13
  (b, (r <<< 1) ||| BitVec.ofNat 17 b.toNat)

/-- One step of dither generator B (R95), which is also the step of R136. -/
def stepB (r : BitVec 23) : Bool × BitVec 23 :=
  let b := r.getLsbD 22 ^^ r.getLsbD 17
  (b, (r <<< 1) ||| BitVec.ofNat 23 b.toNat)

/-- `k` steps of a generator: the number its new bits spell, the first as the most significant, and the register. -/
def genSteps {w : Nat} (step : BitVec w → Bool × BitVec w) : Nat → Nat → BitVec w → Nat × BitVec w
  | 0, acc, r => (acc, r)
  | k + 1, acc, r => genSteps step k (2 * acc + (step r).1.toNat) (step r).2

/-- Eight steps: the dither byte, or a byte of a probe's payload (R95, R136). -/
def eightSteps {w : Nat} (step : BitVec w → Bool × BitVec w) (r : BitVec w) : Nat × BitVec w := genSteps step 8 0 r

/-- The 16-bit form of a delayed sample before saturation; `d` is the dither value (R94). -/
def narrow (y d : Int) : Int := (y + d + 128) / 256

/-- What one bus gives at a sample tick: the bus after it, whether its sample needed saturation, and its delayed
sample at 24 and at 16 bits. -/
structure BusOut where
  bus : Bus
  clipped : Bool
  y24 : Int
  y16 : Int
  deriving DecidableEq, Repr

/-- Generator loads for a seed (R96). -/
def loadA (seed : Nat) : BitVec 17 := BitVec.ofNat 17 (2 * seed + 1)
def loadB (k : Fin 8) (seed : Nat) : BitVec 23 := BitVec.ofNat 23 ((k.1 + 1) * 65536 + seed)

/-- Steps 3 to 6 of R88 for one bus: ramps, sum, delay, dither and the 16-bit form. -/
def busTick (inputs : Vector Int 32) (b : Bus) : BusOut :=
  let cells := mapAll (fun _ => rampStep) b.cells
  let sum := busSum inputs cells
  let y := saturate min24 max24 sum
  let clipped := sum != y
  let line := y :: b.line.take (Config.lineSamples - 1)
  let delayed := line.getD b.delay 0
  let a := eightSteps stepA b.genA
  let c := eightSteps stepB b.genB
  let wide := narrow delayed ((a.1 : Int) - c.1)
  let y16 := saturate min16 max16 wide
  { bus :=
      { b with
        cells := cells
        line := line
        genA := a.2
        genB := c.2
        saturations := if clipped then incSat16 b.saturations else b.saturations
        narrowings := if wide != y16 then incSat16 b.narrowings else b.narrowings
        saturated := b.saturated || clipped }
    clipped := clipped
    y24 := delayed
    y16 := y16 }

/-- A framing buffer with a sample appended; a full buffer first drops its oldest (R97). -/
def appendSample (buf : List Int) (x : Int) : List Int :=
  if Config.lineSamples ≤ buf.length then buf.tail ++ [x] else buf ++ [x]

/-- The framing buffers of a program take one sample of each bus of its list (R97). -/
def frameTick (outs : Vector BusOut 8) (r : ProgramRecord) (f : Framer) : Framer :=
  if f.filling then
    let xs := r.buses.map fun k =>
      let o := outs.get (Fin.ofNat 8 k)
      if r.soundWidth = 16 then o.y16 else o.y24
    let full := f.buffers.countP fun b => decide (Config.lineSamples ≤ b.length)
    { f with buffers := List.zipWith appendSample f.buffers xs, slips := min (f.slips + full) 65535 }
  else f

/-- BUS_SATURATION for a bus whose flag was clear (R92). -/
def raiseSaturation (before : Mixer) (outs : Vector BusOut 8) (k : Fin 8) (s : State) : State :=
  if (outs.get k).clipped && !(before.buses.get k).saturated then
    raise .busSaturation (u8 k.1 ++ u16 (outs.get k).bus.saturations ++ u32 s.tb.picture) s
  else s

/-- The sample tick (R88). The slot ports come before the buses, each in ascending number, which orders the
PORT_UNALIGNED and BUS_SATURATION notices of one tick (R85, R92; log entry 24). -/
def sampleTick (s : State) : State :=
  let inputs := Vec.tab (inputSample s)
  let outs := Vec.tab fun k => busTick inputs (s.mixer.buses.get k)
  let s1 := handFrames s
  let s2 := s1.modMixer fun m =>
    { m with
      buses := Vec.tab fun k => (outs.get k).bus
      monOut := ((outs.get m.left).y24, (outs.get m.right).y24) }
  let s3 := (List.finRange 8).foldl (fun t k => raiseSaturation s.mixer outs k t) s2
  eachProgram (fun p t =>
    match (t.prog p).record with
    | some r => t.modFramer p (frameTick outs r)
    | none => t) s3

/-- A bus at a picture tick: its pending delay comes into force and its saturation flag clears (R92, R93). -/
def busAtTick (b : Bus) : Bus :=
  { b with delay := b.pendingDelay.getD b.delay, pendingDelay := none, saturated := false }

/-! ### The framer (R98 to R100) -/

/-- The framing buffers at a release: 16 samples of 0 for each bus of the list (R97). -/
def framerRelease (r : ProgramRecord) : Framer :=
  { filling := true, buffers := r.buses.map fun _ => List.replicate Config.framerLead 0,
    lasts := r.buses.map fun _ => 0, holds := 0, slips := 0 }

/-- A framer that stops filling: its buffers cease to exist (R100). -/
def framerStop (f : Framer) : Framer := { f with filling := false, buffers := [], lasts := [] }

/-- The samples each buffer holds; they all hold the same number (R97). -/
def framerDepth (f : Framer) : Nat := (f.buffers.head?.map List.length).getD 0

/-- The last sample taken for a bus once all of its buffer has been taken (R98). -/
def lastOf (buf : List Int) (last : Int) : Int := buf.getLastD last

/-- The framer takes `c` samples of each bus: the samples of every bus, and the framer after (R98). -/
def framerTake (c : Nat) (f : Framer) : List (List Int) × Framer :=
  let m := framerDepth f
  if c ≤ m then
    let left := f.buffers.map fun b => b.drop c
    let slips := decide (2 * c < m - c)
    (f.buffers.map fun b => b.take c,
      { f with
        buffers := if slips then left.map fun b => b.drop (b.length - 2 * c) else left
        lasts := List.zipWith (fun b l => lastOf (b.take c) l) f.buffers f.lasts
        slips := if slips then incSat16 f.slips else f.slips })
  else
    let lasts := List.zipWith lastOf f.buffers f.lasts
    (List.zipWith (fun b l => b ++ List.replicate (c - m) l) f.buffers lasts,
      { f with
        buffers := lasts.map fun l => List.replicate Config.framerLead l
        lasts := lasts
        holds := incSat16 f.holds })

/-- The samples of every bus at each of `c` positions (R99). -/
def interleave (c : Nat) (taken : List (List Int)) : List (List Int) :=
  (List.range c).map fun i => taken.map fun b => b.getD i 0

/-- The framer takes the samples of the period of picture `n` and offers the SOUND unit; the samples leave the
buffers whether or not the store takes it (R98, R99). -/
def writeSound (p : Fin 4) (n c : Nat) (s : State) : State :=
  match (s.prog p).record with
  | none => s
  | some r =>
    if r.buses.isEmpty then s
    else
      let (taken, f) := framerTake c (s.framer p)
      (offerUnit p (soundUnit n c r.buses.length r.soundWidth (interleave c taken)) (s.modFramer p fun _ => f)).2

/-- The cadence count of a program (R20). -/
def cadenceCount (row : RateRow) (g : Program) : Nat := (g.accumulator + row.cadenceN) / row.cadenceD

/-- The tick that ends period `n` of a program's run: the cadence steps and the framer writes its unit (R20, R99). -/
def endSound (p : Fin 4) (n : Nat) (s : State) : State :=
  let row := stationRate s
  let c := cadenceCount row (s.prog p)
  writeSound p n c (s.modProg p fun g => { g with accumulator := (g.accumulator + row.cadenceN) % row.cadenceD })

/-- The dither generators of a bus load from its stored seed (R96). -/
def reloadDither (k : Fin 8) (b : Bus) : Bus := { b with genA := loadA b.seed, genB := loadB k b.seed }

end Sys2Proof.Machine
end

