-- ==== Sys2Proof/Machine/Programs.lean ====
section
/-! DEFINITION. The program controller: entering IDLE, the end of writing and of a drain, abort, stop and release
(R12 to R18, R21). -/

namespace Sys2Proof.Machine

/-- A program enters IDLE: PROGRAM_IDLE is raised and its OPEN or CLOSING clip closes (R18, R184). -/
def enterIdle (p : Fin 4) (cause : IdleCause) (s : State) : State :=
  let g := s.prog p
  closeAtIdle p (raise .programIdle (u8 p.1 ++ u8 g.run ++ u48 g.streamOffset ++ u8 cause.code)
    (s.modProg p fun g => { g with st := .idle, drainPicture := none }))

/-! ### Drains (R16) -/

/-- The condition of the end of writing: the period of the STOP has ended, and so its SOUND unit is written, and the
coder has no more to write of its picture (R16, R51). -/
def writingDone (p : Fin 4) (s : State) : Bool :=
  (s.prog p).st == .draining && !(s.prog p).writingEnded && (s.prog p).drainPicture != some s.tb.picture
    && (s.coder p).list.isEmpty && (s.intake p).taking.isNone

/-- The end of writing: the writer hold is released (R16, R119). -/
def endWriting (p : Fin 4) (s : State) : State :=
  if writingDone p s then (sealOpen p s).modProg p fun g => { g with writingEnded := true } else s

/-- The condition of a complete drain (R16). -/
def drained (p : Fin 4) (s : State) : Bool :=
  (s.prog p).st == .draining && (s.prog p).writingEnded
    && (s.live p).cursor == some ((s.prog p).run, (s.prog p).streamOffset)

/-- Drain complete: the live cursor becomes absent and the program IDLE (R16, R153). -/
def completeDrain (p : Fin 4) (s : State) : State :=
  if drained p s then enterIdle p .drained (s.modLive p fun v => { v with cursor := none }) else s

/-- Ends of writing and of drains that the present event has brought about, in every program, in ascending number (R16;
log entry 24). -/
def settlePrograms (s : State) : State := eachProgram (fun p t => completeDrain p (endWriting p t)) s

/-! ### Leaving a run at once (R17, R21) -/

/-- The coder's list is emptied and the slice that is coding dropped (R51). -/
def coderStop (c : Coder) : Coder := { c with list := [], coding := none, cut := none }

/-- Intake stops (R33). -/
def intakeStop (i : Intake) : Intake := { i with taking := none, accepted := false }

/-- The cut picture becomes absent (R118). -/
def clearCut (p : Fin 4) (s : State) : State := s.modChain p fun c => { c with cut := none }

/-- The store's part of an abort: the OPEN segment is sealed, and every pending-send flag of the run clears (R118,
R119). -/
def storeAbort (p : Fin 4) (s : State) : State :=
  let run := (s.prog p).run
  clearCut p (modSegs p (fun g => if g.run == run then { g with pendingSend := false } else g) (sealOpen p s))

/-- A program leaves RUNNING or DRAINING at once (R17). -/
def leaveRun (p : Fin 4) (cause : IdleCause) (s : State) : State :=
  let s1 := (((s.modCoder p coderStop).modIntake p intakeStop).modFramer p framerStop)
  let s2 := (storeAbort p s1).modLive p fun v => { v with cursor := none }
  enterIdle p cause (s2.modProg p fun g => { g with writingEnded := true })

/-- A program is taken to IDLE, by ABORT or RESTART, from any state (R12, R17, R21); from every state but IDLE its cut
picture becomes absent (R118). The allocator is run by the caller. -/
def takeToIdle (p : Fin 4) (cause : IdleCause) (s : State) : State :=
  match (s.prog p).st with
  | .idle => s
  | .armed => enterIdle p cause (clearCut p s)
  | .running => leaveRun p cause s
  | .draining => leaveRun p cause s

/-- ABORT of a program (R17); leaving RUNNING runs the allocator (R12), after the program's clip has closed (log
entry 33). -/
def abortProgram (p : Fin 4) (s : State) : State :=
  let s1 := takeToIdle p .aborted s
  if (s.prog p).st == .running then runAllocator .programState s1 else s1

/-- STOP of a program (R15). -/
def stopProgram (p : Fin 4) (s : State) : State :=
  match (s.prog p).st with
  | .idle => s
  | .armed => enterIdle p .stoppedArmed s
  | .running =>
    runAllocator .programState
      (s.modProg p fun g => { g with st := .draining, drainPicture := some s.tb.picture })
  | .draining => s

/-! ### Release (R14) -/

/-- The program's own values at its release at the tick that carries `picture` (R14). -/
def programRelease (picture : Nat) (g : Program) : Program :=
  { g with
    st := .running
    run := incWrap8 g.run
    streamOffset := 0
    accumulator := 0
    writingEnded := false
    firstPicture := some picture
    drainPicture := none }

/-- Intake values at a release (R27, R30). -/
def intakeRelease : Intake := Intake.reset

/-- Coder values at a release (R52). -/
def coderRelease (r : ProgramRecord) : Coder := { Coder.reset with qi := r.qstart }

/-- Live cursor and counts at a release (R153, R172). -/
def liveRelease (run : Nat) : Live := { Live.reset with cursor := some (run, 0) }

/-- The buses of a record's list. -/
def onBus (r : ProgramRecord) (k : Fin 8) : Bool := r.buses.contains k.1

/-- A picture tick that finds a program ARMED releases it (R14). The allocator's run for it is made before the next
program's release, and so finds a later one still ARMED (R61, R62; log entry 24). -/
def releaseProgram (p : Fin 4) (s : State) : State :=
  match (s.prog p).st, (s.prog p).record with
  | .armed, some r =>
    let s1 := s.modProg p (programRelease s.tb.picture)
    let s2 := (((s1.modIntake p fun _ => intakeRelease).modCoder p fun _ => coderRelease r).modLoop p fun _ =>
      RateLoop.reset).modFramer p fun _ => framerRelease r
    let s3 := (s2.modLive p fun _ => liveRelease (s1.prog p).run).modChain p fun c => { c with cut := none, cuts := 0 }
    let s4 := (s3.modClips fun l => { l with lastWritten := Vec.put l.lastWritten p none }).modMixer fun m =>
      { m with buses := mapAll (fun k b => if onBus r k then reloadDither k b else b) m.buses }
    runAllocator .programState (takeAtRelease p s.tb.picture s4)
  | _, _ => s

end Sys2Proof.Machine
end

