-- ==== Sys2Proof/Machine/Paths.lean ====
section
/-! DEFINITION. The path controllers: rates and caps, state changes and their effects, credit, carriers and silence
(R126 to R134, R144). -/

namespace Sys2Proof.Machine

/-- The rate of a path (R127); in OFF and DOWN, where R127 gives none, it is 0 (log entry 31). -/
def pathRate (p : Path) : Nat :=
  match p.st with
  | .off => 0
  | .down => 0
  | .probing => p.probeRate
  | .up => p.estimate
  | .degraded => p.estimate

/-- The credit cap of a path (R127). -/
def creditCap (p : Path) : Nat := pathRate p * p.burst

/-- The credit saturated to the cap (R127). -/
def capCredit (p : Path) : Path := { p with credit := min p.credit (creditCap p) }

/-- The interval counts restart (R143). -/
def restartInterval (p : Path) : Path := { p with bitsSent := 0, bitsGranted := 0, packetsSent := 0 }

/-- A path in PROBING, UP or DEGRADED (R129). -/
def inService (p : Path) : Bool := p.st == .probing || p.st == .up || p.st == .degraded

/-- Steps 1 and 2 of R131: the estimate, credit, frame in progress and counts go. -/
def outOfService (p : Path) : Path :=
  { restartInterval p with estimate := 0, credit := 0, port := none, good := 0, bad := 0, silence := 0 }

/-- The record of a path that enters a state: PROBING clears the probe-since-entry flag and restarts the silence timer
(R129), and the state-change count increments (R132). -/
def entered (st : PathState) (p : Path) : Path :=
  let q := { p with st := st, stateChanges := incSat16 p.stateChanges }
  if st == .probing then { q with probeSince := false, silence := 0 } else q

/-- A path enters another state, with the effects of R131 and R132. -/
def enterPath (l : Fin 6) (st : PathState) (cause : PathCause) (s : State) : State :=
  let old := s.path l
  let leaves := inService old && (st == .down || st == .off)
  let s1 := if leaves then loseEntries (fun e => e.path == l.1) (s.modPath l outOfService) else s
  let s2 := s1.modPath l (entered st)
  let s3 := raise .pathState
    (u8 l.1 ++ u8 old.st.code ++ u8 st.code ++ u8 cause.code ++ u32 (s2.path l).estimate) s2
  runAllocator .pathState (if st == .up then letAskPath l s3 else s3)

/-- The probe is answered: PROBING to UP (R137). -/
def answerProbe (l : Fin 6) (s : State) : State :=
  let s1 := s.modPath l fun p => { p with estimate := min p.initial p.ceiling, good := 0, bad := 0 }
  (enterPath l .up .probeAnswered s1).modPath l capCredit

/-- Carrier gained (R126, R129). -/
def carrierGained (l : Fin 6) (s : State) : State :=
  if (s.path l).carrier then s
  else
    let s1 := s.modPath l fun p => { p with carrier := true }
    if (s.path l).st == .down then enterPath l .probing .carrierGained s1 else s1

/-- Carrier lost (R126, R129). -/
def carrierLost (l : Fin 6) (s : State) : State :=
  if (s.path l).carrier then
    let s1 := s.modPath l fun p =>
      { p with carrier := false, carrierLosses := if p.st == .off then p.carrierLosses else incSat16 p.carrierLosses }
    if inService (s.path l) then enterPath l .down .carrierLost s1 else s1
  else s

/-- The silence expiry of a path (R144). -/
def silenceExpiry (l : Fin 6) (s : State) : State :=
  let s1 := enterPath l .down .silence (s.modPath l fun p => { p with silences := incSat16 p.silences })
  if (s.path l).carrier then enterPath l .probing .silence s1 else s1

/-- The silence expiry, when the timer has reached the timeout in force: a SET_UPLINK that lowers the timeout below a
timer's count is in force from the next pacing tick on, which makes the expiry (R144, R145). -/
def silenceDue (l : Fin 6) (s : State) : State :=
  if inService (s.path l) && decide (s.uplink.timeoutInForce ≤ (s.path l).silence) then silenceExpiry l s else s

/-- The silence timeout that stands at a pacing tick comes into force (R145). -/
def bringTimeout (u : Uplink) : Uplink := { u with timeoutInForce := u.silenceTimeout }

/-- A path's credit at a pacing tick (R133). -/
def refill (p : Path) : Path :=
  match p.st with
  | .off => p
  | .down => p
  | .probing => { p with credit := min (p.credit + p.probeRate) (creditCap p) }
  | .up =>
    { p with credit := min (p.credit + p.estimate) (creditCap p), bitsGranted := addWrap48 p.bitsGranted p.estimate }
  | .degraded =>
    { p with credit := min (p.credit + p.estimate) (creditCap p), bitsGranted := addWrap48 p.bitsGranted p.estimate }

/-- A path's silence timer at a pacing tick (R144). -/
def countSilence (p : Path) : Path := if inService p then { p with silence := p.silence + 1 } else p

/-- ENABLE_PATH (R129, R130). -/
def enablePath (l : Fin 6) (s : State) : State :=
  let p := s.path l
  match p.st with
  | .off => if p.carrier then enterPath l .probing .enable s else enterPath l .down .enable s
  | .down => if p.carrier then enterPath l .probing .enable s else s
  | .probing => s
  | .up => s
  | .degraded => s

/-- DISABLE_PATH (R129, R130). -/
def disablePath (l : Fin 6) (s : State) : State :=
  if (s.path l).st == .off then s else enterPath l .off .disable s

end Sys2Proof.Machine
end

