-- ==== Sys2Proof/Machine/Packets.lean ====
section
/-! DEFINITION. Uplink packets: header, payloads and Ethernet frame (R136, R149, R214). -/

namespace Sys2Proof.Machine

/-- The fields of an uplink packet's header that are not fixed by its length or its check (R214). -/
structure Header where
  cls : Nat
  program : Nat
  clip : Nat
  run : Nat
  path : Nat
  flags : Nat
  revision : Nat
  sequence : Nat
  send : Nat
  reference : Nat
  picture : Nat
  deriving DecidableEq, Repr

/-- Class codes (R214). -/
def classLabel : Nat := 0
def classClip : Nat := 1
def classPicture : Nat := 2
def classProbe : Nat := 3

/-- Weights of the header's flags (R214). -/
def flagResend : Nat := 1
def flagLastOfClip : Nat := 2

/-- Bytes 0 to 25 of the header (R214). -/
def headerBytes (h : Header) (length : Nat) : List Byte :=
  u8 1 ++ u8 h.cls ++ u8 h.program ++ u8 h.clip ++ u8 h.run ++ u8 h.path ++ u8 h.flags ++ u8 h.revision
    ++ u16 h.sequence ++ u32 h.send ++ u48 h.reference ++ u16 length ++ u32 h.picture

/-- A packet: the header with its check, then the payload (R214). -/
def packetBytes (h : Header) (payload : List Byte) : List Byte :=
  headerBytes h payload.length ++ u16 (crc16 (headerBytes h payload.length)) ++ payload

/-- Bytes of the shortest Ethernet frame, its frame check not counted (PRESUMED, log entry 14). -/
def ethernetMinimum : Nat := 60

/-- The Ethernet frame of a packet of path `l`, up to the frame check, which the MAC appends (R214). -/
def ethernetFrame (l : Nat) (packet : List Byte) : List Byte :=
  let bytes := List.replicate 6 0xFF#8 ++ [0x02#8, 0x00#8, 0x00#8, 0x46#8, 0x00#8] ++ u8 l ++ u16 0x88B5 ++ packet
  bytes ++ List.replicate (ethernetMinimum - bytes.length) 0

/-- The bits of a packet (R134). -/
def packetBits (payload : Nat) : Nat := (28 + payload) * 8

/-- The seed of a probe's payload (R136). -/
def probeSeed (number path : Nat) : Nat :=
  let s := number % 2 ^ 20 * 8 + path
  if s = 0 then 1 else s

/-- `k` bytes of the shift register of R136. -/
def probeBytes : Nat → BitVec 23 → List Byte
  | 0, _ => []
  | k + 1, r => BitVec.ofNat 8 (eightSteps stepB r).1 :: probeBytes k (eightSteps stepB r).2

/-- Bytes of a probe's payload (R136). -/
def probePayload : Nat := 1024

/-- The frame of probe `number` of path `l` with send number `send` (R135, R136, R214). -/
def probeFrame (l number send : Nat) : List Byte :=
  ethernetFrame l (packetBytes
    { cls := classProbe, program := 255, clip := 255, run := 0, path := l, flags := 0, revision := 0, sequence := 0,
      send := send, reference := number, picture := 0 }
    (probeBytes probePayload (BitVec.ofNat 23 (probeSeed number l))))

/-- The LABEL body of a clip (R188, R214). -/
def labelBody (c : Nat) (k : Clip) : List Byte :=
  u8 c ++ u32 k.creation ++ u8 k.revision ++ u8 k.program.1 ++ u8 k.run ++ u8 k.source.code ++ u32 k.inPicture
    ++ encTimecode k.inTimecode ++ u48 k.inOffset ++ u32 (k.outPicture.getD 0) ++ encOpt 4 encTimecode k.outTimecode
    ++ u48 (k.outOffset.getD 0) ++ flag k.trimmed ++ u8 k.rating ++ encList (fun b => [b]) k.text
    ++ encList (fun b => [b]) k.tags

/-- The picture number of the unit that holds a stream byte (R149, R214). -/
def pictureAt (p : Fin 4) (run off : Nat) (s : State) : Nat := ((unitAt p run off s).map UnitRef.picture).getD 0

/-- Number of the segment that holds a stream byte (R151). -/
def segmentAt (p : Fin 4) (run off : Nat) (s : State) : Nat := ((segAt p run off s).map Segment.number).getD 0

end Sys2Proof.Machine
end

