-- ==== Sys2Proof/Machine/Scheduler.lean ====
section
/-! DEFINITION. The scheduler: hand-over, probes, staleness, the class order and the service of the paths (R134, R135,
R149 to R163, R167), and what an event settles before it ends. -/

namespace Sys2Proof.Machine

/-! ### Hand-over (R134, R150) -/

/-- A packet's bits are charged to a path and counted in its interval, and the frame goes to the port (R134). -/
def charge (bits : Nat) (frame : List Byte) (p : Path) : Path :=
  { p with
    credit := p.credit - bits
    bitsSent := addWrap48 p.bitsSent bits
    packetsSent := incSat16 p.packetsSent
    port := some frame }

/-- Path sequence and repair counter step for a packet that is not a probe (R134). -/
def stepSequence (p : Path) : Path := { p with sequence := incWrap16 p.sequence, repair := incWrap8 p.repair }

/-- Hands a packet that is not a probe to path `l`; `h` is its header but for path, sequence and send number (R134,
R150). -/
def handOver (l : Fin 6) (h : Header) (payload : List Byte) (s : State) : State :=
  let s1 := s.modPath l stepSequence
  let h' := { h with path := l.1, sequence := (s1.path l).sequence, send := s.sched.nextSend }
  let frame := ethernetFrame l.1 (packetBytes h' payload)
  (s1.modPath l (charge (packetBits payload.length) frame)).modSched fun c => { c with nextSend := incWrap32 c.nextSend }

/-- A path in PROBING sends a probe when its port is idle and its credit allows (R135). -/
def sendProbe (l : Fin 6) (s : State) : State :=
  let p := s.path l
  if p.st == .probing && p.port.isNone && decide (Config.probeBits ≤ p.credit) then
    let number := incWrap32 p.probeNumber
    let s1 := s.modPath l fun q =>
      charge Config.probeBits (probeFrame l.1 number s.sched.nextSend) { q with probeNumber := number, probeSince := true }
    s1.modSched fun c => { c with nextSend := incWrap32 c.nextSend }
  else s

/-! ### Live cursors (R153 to R156) -/

/-- Pending bytes of a program (R153). -/
def pendingBytes (p : Fin 4) (s : State) : Nat :=
  match (s.live p).cursor with
  | some (_, off) => (s.prog p).streamOffset - off
  | none => 0

/-- Whether a picture is stale (R155). -/
def isStale (s : State) (picture : Nat) : Bool :=
  let row := stationRate s
  decide (s.sched.deadline * row.num < diff32 s.tb.picture picture * 1000 * row.den)

/-- Moves the live cursor and tells the store (R153, R112). -/
def moveCursor (p : Fin 4) (run off : Nat) (s : State) : State :=
  clearPassed p (s.modLive p fun v => { v with cursor := some (run, off) })

/-- Where a skip from an offset goes: the first head or REPEAT at or after it that is not stale, or the end (R155). -/
def skipTarget (p : Fin 4) (run off : Nat) (s : State) : Nat :=
  match (marksOf (runSegs p run s)).find? fun m =>
      (m.kind == .head || m.kind == .repeated) && decide (off ≤ m.offset) && !isStale s m.picture with
  | some m => m.offset
  | none => (s.prog p).streamOffset

/-- The staleness check of one program: with no pending data no unit holds the cursor's byte (R155, R156). -/
def staleCheck (p : Fin 4) (s : State) : State :=
  match (s.live p).cursor with
  | none => s
  | some (run, off) =>
    match unitAt p run off s with
    | none => s
    | some u =>
      if 0 < pendingBytes p s && isStale s u.picture then
        let goal := skipTarget p run off s
        moveCursor p run goal (s.modLive p fun v =>
          { v with skips := incSat16 v.skips, skippedBytes := addWrap48 v.skippedBytes (goal - off) })
      else s

/-- The length of the live packet that can be formed from a program, 0 when none can (R154). -/
def liveLength (p : Fin 4) (s : State) : Nat :=
  let st := (s.prog p).st
  let n := pendingBytes p s
  if st == .running || st == .draining then
    if Config.maxPayload ≤ n then Config.maxPayload
    else if (s.live p).closing || (s.prog p).writingEnded then n
    else 0
  else 0

/-! ### The class order (R157 to R162) -/

/-- What a path may do with a candidate (R157). -/
inductive Judgement where
  | pass
  | wait
  | take
  deriving DecidableEq, Repr

/-- A candidate of some bits against a path's cap and credit (R157). -/
def judge (l : Fin 6) (bits : Nat) (s : State) : Judgement :=
  let p := s.path l
  if creditCap p < bits then .pass else if p.credit < bits then .wait else .take

/-- How far a walk has come: it goes on, or it has ended, with a packet taken or none. -/
inductive Walk where
  | goOn (s : State)
  | ended (s : State)

/-- The next step of a walk that goes on. -/
def Walk.next (w : Walk) (f : State → Walk) : Walk :=
  match w with
  | .goOn s => f s
  | .ended s => .ended s

/-- The state that a walk leaves. -/
def Walk.state : Walk → State
  | .goOn s => s
  | .ended s => s

/-- Acts on a candidate of some bits by its judgement (R157). -/
def offer (l : Fin 6) (bits : Nat) (take : State → State) (s : State) : Walk :=
  match judge l bits s with
  | .pass => .goOn s
  | .wait => .ended s
  | .take => .ended (take s)

/-- Header of a LABEL packet, but for what the hand-over adds (R214). -/
def labelHeader (c : Nat) (k : Clip) (resend : Bool) : Header :=
  { cls := classLabel, program := k.program.1, clip := c, run := k.run, path := 0,
    flags := if resend then flagResend else 0, revision := k.revision, sequence := 0, send := 0, reference := 0,
    picture := 0 }

/-- Takes the label of the label queue's head (R161). -/
def takeLabel (l : Fin 6) (c : Nat) (k : Clip) (s : State) : State :=
  let e : Entry := ⟨s.sched.nextSend, .label c k.revision, l.1, s.tb.pacing, 0, false⟩
  let s1 := handOver l (labelHeader c k false) (labelBody c k) s
  labelSent c k.revision (enterWindow e (s1.modSched fun d => { d with labelQueue := d.labelQueue.tail }))

/-- Step 1 of the class order (R158, R161). -/
def labelStep (l : Fin 6) (s : State) : Walk :=
  if Config.maxReliableEntries ≤ (reliableEntries s).length then .goOn s
  else
    match s.sched.labelQueue with
    | [] => .goOn s
    | c :: _ =>
      match clipAt c s with
      | none => .goOn s
      | some k => offer l (packetBits (labelBody c k).length) (takeLabel l c k) s

/-- The payload of a resend, and its header (R167, R214). -/
def resendPacket (e : Entry) (s : State) : Header × List Byte :=
  match e.place with
  | .label c _ =>
    match clipAt c s with
    | some k => (labelHeader c k true, labelBody c k)
    | none => ({ cls := classLabel, program := 255, clip := c, run := 0, path := 0, flags := flagResend, revision := 0,
                 sequence := 0, send := 0, reference := 0, picture := 0 }, [])
  | .clip c p run _ off len =>
    let last := match clipAt c s with
      | some k => k.outOffset == some (off + len)
      | none => false
    ({ cls := classClip, program := p, clip := c, run := run, path := 0,
       flags := if last then flagResend + flagLastOfClip else flagResend, revision := 0, sequence := 0, send := 0,
       reference := off, picture := pictureAt (idx4 p) run off s }, streamBytes (idx4 p) run off len s)
  | .live p run _ off len =>
    ({ cls := classPicture, program := p, clip := 255, run := run, path := 0, flags := flagResend, revision := 0,
       sequence := 0, send := 0, reference := off, picture := pictureAt (idx4 p) run off s },
      streamBytes (idx4 p) run off len s)

/-- The place that a resent entry holds: a label's is the revision now sent (R167). -/
def resentPlace (e : Entry) (s : State) : Place :=
  match e.place with
  | .label c r => .label c (((clipAt c s).map Clip.revision).getD r)
  | .clip c p run g off len => .clip c p run g off len
  | .live p run g off len => .live p run g off len

/-- Tells the clip log that a label was sent, for a LABEL entry (R161, R167). -/
def reportLabel (e : Entry) (s : State) : State :=
  match e.place with
  | .label c r => labelSent c r s
  | .clip .. => s
  | .live .. => s

/-- Takes a resend (R167). -/
def takeResend (l : Fin 6) (e : Entry) (s : State) : State :=
  let pkt := resendPacket e s
  let new : Entry :=
    { e with send := s.sched.nextSend, place := resentPlace e s, path := l.1, resends := min (e.resends + 1) 255,
             queued := false }
  let s1 := enterWindow new (handOver l pkt.1 pkt.2 s)
  let s2 := removeEntries (fun x => x.send == e.send) s1
  (reportLabel new s2).modSched fun d => { d with resent := incWrap32 d.resent }

/-- Whether a path is the only one in UP or DEGRADED (R159). -/
def isAlone (l : Fin 6) (s : State) : Bool :=
  (List.finRange 6).all fun k => k == l || !carries (s.path k)

/-- The candidates of the resend queue for a path, oldest first, by the strict or the preferring choice (R159). -/
def resendCandidates (l : Fin 6) (strict : Bool) (s : State) : List Entry :=
  let q := resendQueue s
  match q.filter fun e => e.path != l.1 with
  | [] => if strict && !isAlone l s then [] else q
  | es => es

/-- Offers candidates of the resend queue in turn (R157, R159). -/
def offerResends (l : Fin 6) : List Entry → State → Walk
  | [], s => .goOn s
  | e :: es, s =>
    (offer l (packetBits (resendPacket e s).2.length) (takeResend l e) s).next (offerResends l es)

/-- Step 2 (R158). -/
def repairStep (l : Fin 6) (s : State) : Walk :=
  if (s.path l).repair < (s.path l).repairShare then offerResends l (resendCandidates l true s) s else .goOn s

/-- Step 4 (R158). -/
def resendStep (l : Fin 6) (s : State) : Walk := offerResends l (resendCandidates l false s) s

/-- Takes a live packet of `len` bytes from a program: the oldest live entry gives way when the window is full
(R152, R153, R154, R160). -/
def takeLive (l : Fin 6) (p : Fin 4) (len : Nat) (s : State) : State :=
  match (s.live p).cursor with
  | none => s
  | some (run, off) =>
    let h : Header :=
      { cls := classPicture, program := p.1, clip := 255, run := run, path := 0, flags := 0, revision := 0,
        sequence := 0, send := 0, reference := off, picture := pictureAt p run off s }
    let e : Entry := ⟨s.sched.nextSend, .live p.1 run (segmentAt p run off s) off len, l.1, s.tb.pacing, 0, false⟩
    let s1 := handOver l h (streamBytes p run off len s) s
    let s2 := if Config.maxLiveEntries ≤ (liveEntries s1).length then displace s1 else s1
    let s3 := moveCursor p run (off + len) (enterWindow e s2)
    (s3.modLive p fun v => { v with packets := incWrap32 v.packets }).modSched fun d => { d with lastServed := p }

/-- One program's turn at step 3: the staleness check, then its candidate (R160). -/
def liveTurn (l : Fin 6) (p : Fin 4) (s : State) : Walk :=
  let s1 := staleCheck p s
  let len := liveLength p s1
  if len = 0 then .goOn s1 else offer l (packetBits len) (takeLive l p len) s1

/-- Step 3: the programs in turn, from the one after the last served (R160). -/
def liveStep (l : Fin 6) (s : State) : Walk :=
  let k := s.sched.lastServed
  (((liveTurn l (k + 1) s).next (liveTurn l (k + 2))).next (liveTurn l (k + 3))).next (liveTurn l k)

/-- Takes a CLIP packet of `len` bytes from the clip cursor (R162, R163, R189). -/
def takeClip (l : Fin 6) (k : ClipCursor) (len : Nat) (s : State) : State :=
  let p := idx4 k.program
  let next := k.next + len
  let h : Header :=
    { cls := classClip, program := k.program, clip := k.clip, run := k.run, path := 0,
      flags := if next = k.out then flagLastOfClip else 0, revision := 0, sequence := 0, send := 0,
      reference := k.next, picture := pictureAt p k.run k.next s }
  let e : Entry :=
    ⟨s.sched.nextSend, .clip k.clip k.program k.run (segmentAt p k.run k.next s) k.next len, l.1, s.tb.pacing, 0, false⟩
  let s1 := enterWindow e (handOver l h (streamBytes p k.run k.next len s) s)
  modClip k.clip (fun c => { c with shipCursor := some next })
    (s1.modSched fun d => { d with clipCursor := some { k with next := next }, bucket := d.bucket - packetBits len })

/-- Step 5: a candidate that fails the bucket condition ends the walk (R158, R162). -/
def clipStep (l : Fin 6) (s : State) : Walk :=
  if Config.maxReliableEntries ≤ (reliableEntries s).length then .goOn s
  else
    match s.sched.clipCursor with
    | none => .goOn s
    | some k =>
      let len := min Config.maxPayload (k.out - k.next)
      if len = 0 then .goOn s
      else if creditCap (s.path l) < packetBits len then .goOn s
      else if s.sched.bucket < packetBits len then .ended s
      else offer l (packetBits len) (takeClip l k len) s

/-- A path walks the class order (R157, R158). -/
def walk (l : Fin 6) (s : State) : State :=
  (((((labelStep l s).next (repairStep l)).next (liveStep l)).next (resendStep l)).next (clipStep l)).state

/-- A path in UP or DEGRADED with an idle port asks (R157). -/
def askPath (l : Fin 6) (s : State) : State :=
  if carries (s.path l) && (s.path l).port.isNone then walk l s else s

/-! ### The end of an event -/

/-- Serves the paths in ascending index: a PROBING path may send a probe, and a path that an event lets ask walks the
class order (R135, R157). -/
def servePaths (s : State) : State :=
  let ask := s.sched.asking
  eachPath (fun l t => sendProbe l (if ask.get l then askPath l t else t))
    (s.modSched fun c => { c with asking := Vector.replicate 6 false })

/-- Ends of writing, drains and shipping that have come about (R16, R162, R189). -/
def settleQuiet (s : State) : State := settleShip (settlePrograms s)

/-- Serves the paths, settles, and does so again while what was settled lets a path ask. -/
def settleN : Nat → State → State
  | 0, s => s.modSched fun c => { c with asking := Vector.replicate 6 false }
  | n + 1, s =>
    let s1 := settleQuiet (servePaths s)
    if s1.sched.asking = Vector.replicate 6 false then s1 else settleN n s1

/-- What an event brings about before it ends: drains and shipping complete, paths that may ask are served, and the
segments left at a hold of 0 are freed together (R16, R116, R157, R162, R189; log entry 11). -/
def settle (s : State) : State := freeZero (settleN 16 (settleQuiet s))

/-- Ends an event that began at the state `start` and may have freed segments in more than one of its parts: all that it
freed stand together at the free list's tail (R107, R116; log entry 11). -/
def endEvent (start s : State) : State := freedTogether start (settle s)

end Sys2Proof.Machine
end

