-- ==== Sys2Proof/Machine/Intake.lean ====
section
/-! DEFINITION. Picture intake: what the ports measure and decide, the lines a program takes, and the stand-ins for a
missing picture (R22 to R33). -/

namespace Sys2Proof.Machine

/-! ### The ports (R22 to R25) -/

/-- A port's picture has one more line (R22). -/
def measureLine (luma : Nat) (m : Measure) : Measure :=
  if m.lines = 0 then ⟨1, luma, true⟩ else ⟨m.lines + 1, m.samples, m.even && m.samples == luma⟩

/-- The measurement of a picture that has ended (R22). -/
def measured (m : Measure) : Measured :=
  if 1 ≤ m.lines ∧ m.lines ≤ 2047 ∧ m.even = true ∧ m.samples ≤ 4095 then .regular ⟨m.samples, m.lines⟩ else .irregular

/-- A picture just opened. -/
def freshMeasure : Measure := ⟨0, 0, true⟩

/-- State and formats of a port after a start-of-picture marker: the table of R23. -/
def markerState (q : PicturePort) : PicturePort :=
  match q.st, q.opened.map measured with
  | .noSignal, _ => { q with st := .locking, candidate := none, locked := none }
  | .locking, some (.regular f) =>
    if q.candidate = some f then { q with st := .locked, locked := some f, candidate := none }
    else { q with candidate := some f }
  | .locking, _ => { q with candidate := none }
  | .locked, some (.regular f) =>
    if q.locked = some f then q else { q with st := .locking, candidate := some f, locked := none }
  | .locked, _ => { q with st := .locking, candidate := none, locked := none }

/-- The port after a start-of-picture marker taken in picture period `picture` (R22 to R25). -/
def markerPort (picture : Nat) (q : PicturePort) : PicturePort :=
  { markerState q with
    lastMeasurement := match q.opened with
      | some m => some (measured m)
      | none => q.lastMeasurement
    lastStart := some picture
    startSeen := true
    extras := if q.startSeen then incSat16 q.extras else q.extras
    opened := some freshMeasure }

/-- Whether a marker takes the port into LOCKED (R23). -/
def locksNow (q : PicturePort) : Bool := q.st != .locked && (markerState q).st == .locked

/-- The loss expiry (R24). -/
def loseInput (i : Fin 4) (s : State) : State :=
  raise .inputLost (u8 i.1) (s.modPort i fun q =>
    { q with
      st := .noSignal, candidate := none, locked := none, opened := none, quiet := 2, losses := incSat16 q.losses })

/-- Whether a port's quiet count stands at 2 in LOCKING or LOCKED (R24). -/
def inputIsLost (q : PicturePort) : Bool := q.st != .noSignal && q.quiet == 2

/-- A port at a picture tick: the quiet count of the period it ends, the loss expiry, and a clear flag (R24). -/
def portTick (i : Fin 4) (s : State) : State :=
  let s1 := s.modPort i fun q =>
    { q with quiet := if q.startSeen then 0 else min (q.quiet + 1) 2, startSeen := false }
  if inputIsLost (s1.port i) then loseInput i s1 else s1

/-! ### Lines and slices (R28, R29) -/

/-- Program `p` takes its pictures from port `i`. -/
def feeds (i : Fin 4) (p : Fin 4) (s : State) : Bool :=
  match (s.prog p).record with
  | some r => r.port == i.1
  | none => false

/-- The first `n` samples of a line's component, the missing ones of the slate colour (R28). -/
def padLine (n slate : Nat) (l : List Sample10) : List Sample10 :=
  l.take n ++ List.replicate (n - l.length) (BitVec.ofNat 10 slate)

/-- A port's line as a program takes it (R28). Where the last luma sample stands in no pair, the chroma of its place is
missing and of the slate colour (log entry 38). -/
def takenLine (r : ProgramRecord) (y cb cr : List Sample10) : Line :=
  ⟨padLine r.width r.slateY y, padLine (r.width / 2) r.slateCb cb, padLine (r.width / 2) r.slateCr cr⟩

/-- A line of slate colour (R29). -/
def slateLine (r : ProgramRecord) : Line := takenLine r [] [] []

/-- A program takes a line of the picture it accepted; a slice whose eighth line this is goes to the coder (R28). -/
def programLine (p : Fin 4) (r : ProgramRecord) (line : Line) (s : State) : State :=
  match (s.intake p).taking with
  | none => s
  | some k =>
    let lines := k.lines ++ [line]
    let n := k.nextLine + 1
    if n % 8 = 0 then
      let s1 := s.modIntake p fun i => { i with taking := if n < r.height then some ⟨k.picture, n, []⟩ else none }
      advance p (callFor p [.slice k.picture (n / 8 - 1) lines] s1)
    else s.modIntake p fun i => { i with taking := some ⟨k.picture, n, lines⟩ }

/-- A line of the port's open picture reaches the programs that take the picture (R22, R28), in ascending number (log
entry 24). -/
def lineTaken (i : Fin 4) (y cb cr : List Sample10) (s : State) : State :=
  if (s.port i).opened.isNone then s
  else
    let s1 := s.modPort i fun q => { q with opened := q.opened.map (measureLine y.length) }
    eachProgram (fun p t =>
      match (t.prog p).record with
      | some r => if r.port = i.1 then programLine p r (takenLine r y cb cr) t else t
      | none => t) s1

/-- The slices that close a picture short: the one partly filled, then whole slate-coloured ones (R29). -/
def shortSlices (r : ProgramRecord) (k : Taking) : List CoderItem :=
  let first := k.nextLine / 8
  (List.range (r.height / 8 - first)).map fun j =>
    .slice k.picture (first + j)
      (if j = 0 then k.lines ++ List.replicate (8 - k.lines.length) (slateLine r) else List.replicate 8 (slateLine r))

/-- A picture is closed short: the slices are coded and written in this event (R29, R49). -/
def closeShort (p : Fin 4) (s : State) : State :=
  match (s.intake p).taking, (s.prog p).record with
  | some k, some r =>
    flushCoder p (callFor p (shortSlices r k)
      (s.modIntake p fun i => { i with taking := none, shorts := incSat16 i.shorts }))
  | _, _ => s

/-- The close limit of a picture whose next period has ended, or is ending: `last` is the newest period that a picture
still being taken may belong to (R29). -/
def closeLimit (p : Fin 4) (last : Nat) (s : State) : State :=
  match (s.intake p).taking with
  | some k => if k.picture = last then s else closeShort p s
  | none => s

/-! ### Acceptance (R26, R27) -/

/-- Whether a program takes pictures in the current period (R26). -/
def takesPictures (p : Fin 4) (s : State) : Bool :=
  (s.prog p).st == .running || ((s.prog p).st == .draining && (s.prog p).drainPicture == some s.tb.picture)

/-- A program accepts the picture that the marker opens: the coder is called for its head (R26, R28, R46). -/
def accept (p : Fin 4) (s : State) : State :=
  let n := s.tb.picture
  advance p (callFor p [.head n s.tb.label] (s.modIntake p fun i =>
    { i with taking := some ⟨n, 0, []⟩, accepted := true, missing := 0, codedInRun := true, mismatch := none }))

/-- A LOCKED port at another format (R27). -/
def mismatch (p : Fin 4) (i : Fin 4) (f : Format) (r : ProgramRecord) (s : State) : State :=
  if (s.intake p).mismatch = some f then s
  else
    raise .formatMismatch (u8 p.1 ++ u8 i.1 ++ encFormat f ++ u16 r.width ++ u16 r.height)
      (s.modIntake p fun k => { k with mismatch := some f })

/-- The first marker of a period decides the picture of a program (R26, R27). -/
def decidePicture (p : Fin 4) (i : Fin 4) (s : State) : State :=
  match (s.prog p).record with
  | none => s
  | some r =>
    if r.port = i.1 && takesPictures p s then
      match (s.port i).st, (s.port i).locked with
      | .locked, some f => if f = ⟨r.width, r.height⟩ then accept p s else mismatch p i f r s
      | _, _ => s
    else s

/-- A start-of-picture marker: the port's own effect, the pictures it closes short, and what the programs decide
(R23 to R29). The programs of the port close in ascending number, and then decide in ascending number (log
entry 24). -/
def startOfPicture (i : Fin 4) (s : State) : State :=
  let extra := (s.port i).startSeen
  let s1 := s.modPort i (markerPort s.tb.picture)
  let s2 := if locksNow (s.port i) then
      raise .inputBack (u8 i.1 ++ encFormat ((s1.port i).locked.getD ⟨0, 0⟩)) s1
    else s1
  let s3 := eachProgram (fun p t => if feeds i p t then closeShort p t else t) s2
  if extra then s3 else eachProgram (fun p t => decidePicture p i t) s3

/-! ### Missing periods (R30 to R32) -/

/-- The stand-in for a period without a picture: `n` and `label` are of the period that ends (R30, R31). -/
def standIn (p : Fin 4) (n : Nat) (label : Timecode) (s : State) : State :=
  match (s.prog p).record with
  | none => s
  | some r =>
    if (s.intake p).accepted then s
    else
      let missing := incSat16 (s.intake p).missing
      let s1 := s.modIntake p fun i => { i with missing := missing }
      if (s.intake p).codedInRun && decide (missing ≤ r.hold) then
        flushCoder p (callFor p [.repeated n] (s1.modIntake p fun i => { i with repeats := incSat16 i.repeats }))
      else
        flushCoder p (callFor p [.slate n label] (s1.modIntake p fun i => { i with slates := incSat16 i.slates }))

end Sys2Proof.Machine
end

