-- ==== Sys2Proof/Machine/Tick.lean ====
section
/-! DEFINITION. The station timebase: the timecode, the picture tick and what it drives, the reference, and the pacing
tick (R2 to R7, and the tick's part in every chapter). -/

namespace Sys2Proof.Machine

/-! ### Timecode (R5) -/

/-- The picture count that a drop-frame advance lands on: 2 at 30000/1001, 4 at 60000/1001 (R5). -/
def dropLanding (row : RateRow) : Nat := row.pictures / 15

/-- Whether the drop-frame advance skips a label (R5, R6). -/
def isDropped (row : RateRow) (t : Timecode) : Bool :=
  t.seconds == 0 && t.minutes % 10 != 0 && decide (t.pictures < dropLanding row)

/-- The label one picture on, before any drop (R5). -/
def plainAdvance (row : RateRow) (t : Timecode) : Timecode :=
  if t.pictures + 1 < row.pictures then { t with pictures := t.pictures + 1 }
  else if t.seconds + 1 < 60 then { t with seconds := t.seconds + 1, pictures := 0 }
  else if t.minutes + 1 < 60 then { t with minutes := t.minutes + 1, seconds := 0, pictures := 0 }
  else if t.hours + 1 < 24 then ⟨t.hours + 1, 0, 0, 0⟩
  else ⟨0, 0, 0, 0⟩

/-- The label one picture on (R5). -/
def advanceLabel (row : RateRow) (drop : Bool) (t : Timecode) : Timecode :=
  let u := plainAdvance row t
  if drop && u.seconds == 0 && u.pictures == 0 && u.minutes % 10 != 0 then { u with pictures := dropLanding row } else u

/-! ### The picture tick -/

/-- The timebase at a picture tick made at a time: number and label (R4, R5). -/
def timebaseTick (time : Nat) (t : Timebase) : Timebase :=
  { t with
    now := max t.now time
    lastTick := time
    picture := incWrap32 t.picture
    endedLabel := t.label
    label := t.load.getD (advanceLabel (rateRow t.rate) t.drop t.label)
    load := none }

/-- Whether period `n`, which a tick ends, is a period of the program's run (R16, R20, R30). -/
def periodOfRun (p : Fin 4) (n : Nat) (s : State) : Bool :=
  (s.prog p).st == .running || ((s.prog p).st == .draining && (s.prog p).drainPicture == some n)

/-- What a tick that ends period `n` does for one program, in the order of R29, R30, R99 and R182. -/
def endPeriod (p : Fin 4) (n : Nat) (s : State) : State :=
  let s1 := closeLimit p n s
  let s2 :=
    if periodOfRun p n s then endSound p n (standIn p n s.tb.endedLabel s1)
    else s1
  let s3 :=
    if (s.prog p).st == .draining && (s.prog p).drainPicture == some n then s2.modFramer p framerStop else s2
  (periodEnd p s3).modIntake p fun i => { i with accepted := false }

/-- The timebase at a picture tick, which also finds the retentions of the records (R4, R5, R114). -/
def tickTimebase (time : Nat) (s : State) : State :=
  s.modTb fun t => { timebaseTick time t with retentions := recordRetentions s }

/-- The retention release of a picture tick, with its frees (R114). -/
def retentionTick (s : State) : State := freeZero (retentionRelease s)

/-- A staleness check of the picture tick: of a program whose cursor is present and has pending data (R156). -/
def tickStale (p : Fin 4) (s : State) : State := if 0 < pendingBytes p s then staleCheck p s else s

/-- A picture tick made at a time, with the retention release first or after the units (R4, R107, R114). -/
def pictureTickWith (retentionFirst : Bool) (time : Nat) (s : State) : State :=
  let n := s.tb.picture
  let s1 := eachProgram portTick (tickTimebase time s)
  let s2 := if retentionFirst then retentionTick s1 else s1
  let s3 := eachProgram (fun p t => endPeriod p n t) s2
  let s4 := eachProgram releaseProgram s3
  let s5 := eachProgram (fun i t => t.modSlot i releaseSlot) s4
  let s6 := s5.modMixer fun m => { m with buses := mapAll (fun _ => busAtTick) m.buses }
  let s7 := if retentionFirst then s6 else retentionTick s6
  endEvent s (eachProgram tickStale s7)

/-- A picture tick made at a time (R4). -/
def pictureTick (time : Nat) (s : State) : State :=
  pictureTickWith (Config.retentionFirst (incWrap32 s.tb.picture)) time s

/-! ### The reference (R2, R3) -/

/-- The nominal period in force (R1). -/
def period (s : State) : Nat := nominalPeriod (stationRate s)

/-- A command that carries a time is taken at that time, or at the time of the latest earlier one (log entry 2). -/
def arrive (time : Nat) (s : State) : State := s.modTb fun t => { t with now := max t.now time }

/-- REFERENCE_BACK, for a pulse taken in FREE_RUN (R2). -/
def referenceBack (was : RefState) (s : State) : State := if was == .freeRun then raise .referenceBack [] s else s

/-- A reference pulse at the present time (R2). -/
def takePulse (s : State) : State :=
  let now := s.tb.now
  if period s ≤ 2 * (now - s.tb.lastTick) then
    referenceBack s.tb.ref (pictureTick now (s.modTb fun t => { t with due := none, ref := .locked }))
  else
    referenceBack s.tb.ref (s.modTb fun t =>
      { t with due := some (now + period s), ref := .locked, rephaseCount := incSat16 t.rephaseCount })

/-- A due tick's time arrives (R3). -/
def takeDueTick (s : State) : State :=
  match s.tb.due with
  | none => s
  | some due =>
    let time := max s.tb.now due
    let next := if s.tb.ref == .freeRun then some (time + period s) else none
    pictureTick time (s.modTb fun t => { t with due := next })

/-- The loss expiry of the reference (R3). -/
def takeLossExpiry (s : State) : State :=
  if s.tb.ref == .locked && s.tb.due.isNone then
    let time := max s.tb.now (s.tb.lastTick + 2 * period s)
    pictureTick time (raise .referenceLost [] (s.modTb fun t =>
      { t with ref := .freeRun, lossCount := incSat16 t.lossCount, due := some (time + period s) }))
  else s

/-! ### The pacing tick (R7) -/

/-- The timebase at a pacing tick; the step that returns the divider to 0 makes an allocation tick (R7). -/
def timebasePacing (t : Timebase) : Timebase :=
  { t with
    pacing := incWrap32 t.pacing
    divider := (t.divider + 1) % 100
    allocDue := (t.divider + 1) % 100 == 0 }

/-- The clip bucket at a pacing tick (R163). -/
def refillBucket (rate : Nat) (c : Scheduler) : Scheduler := { c with bucket := min (c.bucket + rate) (100 * rate) }

/-- Age expiries and silence expiries of a pacing tick, in either order (R144, R169; log entry 8); the paths whose
silence timers expire do so in ascending index (log entry 34). -/
def expiries (ageFirst : Bool) (s : State) : State :=
  if ageFirst then eachPath silenceDue (expireEntries (fun _ => true) s)
  else expireEntries (fun _ => true) (eachPath silenceDue s)

/-- The pacing tick, with its expiries in a given order (R7, R133, R144, R145, R163, R169,
R171). An allocation tick that is
still to be taken comes first (log entry 9), and every refill of credit before the first expiry (log entry 34). -/
def pacingTickWith (ageFirst : Bool) (s : State) : State :=
  let s1 := ((takeAllocationTick s).modTb timebasePacing).modUplink bringTimeout
  let s2 := eachPath (fun l t => t.modPath l fun p => countSilence (refill p)) s1
  let s3 := s2.modSched fun c => bringDeadline (refillBucket s2.alloc.clipRate c)
  settle (letAsk (expiries ageFirst s3))

/-- The pacing tick (R7). -/
def pacingTick (s : State) : State := pacingTickWith (Config.ageBeforeSilence (incWrap32 s.tb.pacing)) s

end Sys2Proof.Machine
end

