-- ==== Sys2Proof/Machine/Reports.lean ====
section
/-! DEFINITION. The report receiver: the layout and checks of a report, its acceptance, and its parts: acks and losses,
path entries, clip requests (R137 to R143, R164 to R166, R191, R216). -/

namespace Sys2Proof.Machine

/-! ### Layout (R216) -/

/-- A loss range (R166). -/
structure LossRange where
  first : Nat
  last : Nat
  deriving DecidableEq, Repr

/-- A path entry (R139). -/
structure PathEntry where
  path : Nat
  received : Nat
  missing : Nat
  deriving DecidableEq, Repr

/-- A clip request (R191). -/
structure ClipRequest where
  clip : Nat
  creation : Nat
  deriving DecidableEq, Repr

/-- A well-formed report (R216). -/
structure Report where
  number : Nat
  ack : Nat
  losses : List LossRange
  entries : List PathEntry
  requests : List ClipRequest
  deriving DecidableEq, Repr

/-- The number in the `k` bytes from an offset on. -/
def fieldAt (bytes : List Byte) (off k : Nat) : Nat := fromBe ((bytes.drop off).take k)

/-- The report that the bytes after the type field hold, absent when a check of R216 fails. -/
def parseReport (b : List Byte) : Option Report :=
  let nl := fieldAt b 8 1
  let np := fieldAt b 9 1
  let nc := fieldAt b 10 1
  let entriesAt := 11 + 8 * nl
  let requestsAt := entriesAt + 5 * np
  let checkAt := requestsAt + 5 * nc
  if 11 ≤ b.length ∧ fieldAt b 0 1 = 1 ∧ fieldAt b 1 1 = 4 ∧ nl ≤ 16 ∧ np ≤ 16 ∧ nc ≤ 4 ∧ checkAt + 2 ≤ b.length
      ∧ fieldAt b checkAt 2 = crc16 (b.take checkAt) then
    some
      { number := fieldAt b 2 2
        ack := fieldAt b 4 4
        losses := (List.range nl).map fun i => ⟨fieldAt b (11 + 8 * i) 4, fieldAt b (15 + 8 * i) 4⟩
        entries := (List.range np).map fun i =>
          ⟨fieldAt b (entriesAt + 5 * i) 1, fieldAt b (entriesAt + 5 * i + 1) 2, fieldAt b (entriesAt + 5 * i + 3) 2⟩
        requests := (List.range nc).map fun i =>
          ⟨fieldAt b (requestsAt + 5 * i) 1, fieldAt b (requestsAt + 5 * i + 1) 4⟩ }
  else none

/-- The report in an Ethernet frame, given from its destination address on: the type field must be 0x88B5 (R216). -/
def frameReport (frame : List Byte) : Option Report :=
  if fieldAt frame 12 2 = 0x88B5 ∧ 14 ≤ frame.length then parseReport (frame.drop 14) else none

/-! ### Acks and losses (R164 to R166) -/

/-- Tells the clip log that an entry was acked, for a LABEL entry (R164, R188). -/
def ackLabel (e : Entry) (s : State) : State :=
  match e.place with
  | .label c r => labelAcked c r s
  | .clip .. => s
  | .live .. => s

/-- The cumulative ack (R164, R165). -/
def applyAck (a : Nat) (s : State) : State :=
  let acked := s.sched.window.filter fun e => atOrBelow32 e.send a
  let late := s.sched.abandoned.filter fun n => atOrBelow32 n a
  let s1 := (removeEntries (fun e => atOrBelow32 e.send a) s).modSched fun c =>
    { c with
      acked := (c.acked + acked.length) % 2 ^ 32
      lateAcks := (c.lateAcks + late.length) % 2 ^ 32
      abandoned := c.abandoned.filter fun n => !atOrBelow32 n a }
  acked.foldl (fun t e => ackLabel e t) s1

/-- Whether a range covers a send number; a range whose last is older than its first covers nothing (R166). -/
def covers (r : LossRange) (n : Nat) : Bool :=
  !newer32 r.first r.last && decide (diff32 n r.first ≤ diff32 r.last r.first)

/-- The loss ranges (R166). -/
def applyLosses (rs : List LossRange) (s : State) : State := loseEntries (fun e => rs.any fun r => covers r e.send) s

/-! ### Path entries (R137, R140 to R142) -/

/-- Class of a path entry (R140). -/
inductive EntryClass where
  | empty
  | neutral
  | bad
  | loaded
  | unloaded
  deriving DecidableEq, Repr

/-- The class of an entry for a path: the first row of R140 that fits. -/
def classify (threshold : Nat) (p : Path) (e : PathEntry) : EntryClass :=
  if e.received = 0 ∧ 4 ≤ p.packetsSent then .empty
  else if e.received + e.missing = 0 ∧ p.packetsSent < 4 then .neutral
  else if threshold * (e.received + e.missing) < e.missing * 256 then .bad
  else if 0 < p.bitsGranted ∧ p.bitsGranted * 3 ≤ p.bitsSent * 4 then .loaded
  else .unloaded

/-- The estimate, credit and report counts after an entry (R141). -/
def estimateAfter (c : EntryClass) (p : Path) : Path :=
  let fall := max 64 (p.estimate - p.estimate / 4)
  match c with
  | .empty => capCredit { p with estimate := fall, badReports := incSat16 p.badReports }
  | .bad => capCredit { p with estimate := fall, badReports := incSat16 p.badReports }
  | .loaded =>
    { p with
      estimate := min p.ceiling (p.estimate + max 8 (p.estimate / 32))
      goodReports := incSat16 p.goodReports }
  | .unloaded => { p with goodReports := incSat16 p.goodReports }
  | .neutral => p

/-- The good and bad counts of a path in DEGRADED after an entry (R142). -/
def countsAfter (c : EntryClass) (p : Path) : Path :=
  match c with
  | .empty => { p with good := 0, bad := p.bad + 1 }
  | .bad => { p with good := 0, bad := 0 }
  | .loaded => { p with good := p.good + 1, bad := 0 }
  | .unloaded => { p with good := p.good + 1, bad := 0 }
  | .neutral => p

/-- The state changes of R142, after the estimate has changed. -/
def moveState (l : Fin 6) (c : EntryClass) (s : State) : State :=
  let p := s.path l
  if p.st == .up then
    if c == .empty then enterPath l .degraded .badReport (s.modPath l fun p => { p with good := 0, bad := 1 })
    else if c == .bad then enterPath l .degraded .badReport (s.modPath l fun p => { p with good := 0, bad := 0 })
    else s
  else
    let q := countsAfter c p
    if q.good = 3 then enterPath l .up .goodReports (s.modPath l fun _ => { q with good := 0, bad := 0 })
    else if q.bad = 3 then enterPath l .down .emptyReports (s.modPath l fun _ => q)
    else s.modPath l fun _ => q

/-- A path takes its entry (R137, R139 to R142, R144). -/
def takeEntry (l : Fin 6) (e : PathEntry) (s : State) : State :=
  let p := s.path l
  let s1 := if inService p then s.modPath l fun p => { p with silence := 0 } else s
  match p.st with
  | .off => s
  | .down => s
  | .probing => if 0 < e.received ∧ p.probeSince = true then answerProbe l s1 else s1
  | .up =>
    let c := classify s.uplink.badThreshold p e
    moveState l c (s1.modPath l (estimateAfter c))
  | .degraded =>
    let c := classify s.uplink.badThreshold p e
    moveState l c (s1.modPath l (estimateAfter c))

/-- Entries that are ignored: an index of 6 or above, or one that repeats an earlier entry (R139). -/
def ignoredEntries : List Nat → List PathEntry → Nat
  | _, [] => 0
  | seen, e :: es => (if 6 ≤ e.path ∨ seen.contains e.path then 1 else 0) + ignoredEntries (e.path :: seen) es

/-- The path entries of a report, to the paths in ascending index (R139). -/
def applyEntries (es : List PathEntry) (s : State) : State :=
  let s1 := s.modUplink fun u => { u with ignored := min (u.ignored + ignoredEntries [] es) 65535 }
  eachPath (fun l t =>
    match es.find? fun e => e.path == l.1 with
    | some e => takeEntry l e t
    | none => t) s1

/-! ### Acceptance (R138, R139) -/

/-- Whether a report is accepted (R138). -/
def isNewReport (s : State) (r : Report) : Bool :=
  match s.uplink.lastReport with
  | none => true
  | some n => newer16 r.number n

/-- An accepted report is handed on in the order of R139. -/
def acceptReport (r : Report) (s : State) : State :=
  let s1 := s.modUplink fun u => { u with lastReport := some r.number, accepted := incWrap32 u.accepted }
  let s2 := settleShip (applyLosses r.losses (applyAck r.ack s1))
  let s3 := applyEntries r.entries s2
  let s4 := eachPath (fun l t => t.modPath l restartInterval) s3
  settle (r.requests.foldl (fun t q => homeRequest q.clip q.creation t) s4)

/-- A frame taken by a path port (R126, R138). -/
def takeFrame (l : Fin 6) (frame : List Byte) (s : State) : State :=
  if (s.path l).st == .off then s
  else
    match frameReport frame with
    | none => s.modPath l fun p => { p with malformed := incSat16 p.malformed }
    | some r =>
      if isNewReport s r then acceptReport r s
      else s.modUplink fun u => { u with stale := incSat16 u.stale }

end Sys2Proof.Machine
end

