-- ==== Sys2Proof/Machine/Replies.lean ====
section
/-! DEFINITION. The values that replies carry, in the order the rules list them, encoded as R212 states (R8, R19, R35,
R58, R79, R87, R102, R123, R124, R146, R147, R172, R195, R196, R208, R209, R213). -/

namespace Sys2Proof.Machine

/-- Bytes of an ASCII text. -/
def asciiBytes (t : List Nat) : List Byte := t.map (BitVec.ofNat 8)

/-- "Wezmira" (R209). -/
def vendorName : List Byte := asciiBytes [87, 101, 122, 109, 105, 114, 97]

/-- "AN-460" (R209). -/
def partName : List Byte := asciiBytes [65, 78, 45, 52, 54, 48]

/-- The values of IDENTIFY and of the READY notice (R209, R213). -/
def identity : List Byte :=
  encList (fun b => [b]) vendorName ++ encList (fun b => [b]) partName ++ u8 1 ++ u8 Config.maxRequests
    ++ u8 Config.maxReplies ++ u8 Config.maxNotices ++ u16 1024

/-- READ_TIMEBASE (R8). -/
def timebaseBody (t : Timebase) : List Byte :=
  u8 t.rate.1 ++ flag t.drop ++ u8 t.ref.code ++ u32 t.picture ++ encTimecode t.label ++ flag t.load.isSome
    ++ u32 t.pacing ++ u16 t.lossCount ++ u16 t.rephaseCount

/-- A program's record, in the order of the table of R10. -/
def encRecord (r : ProgramRecord) : List Byte :=
  u8 r.port ++ u16 r.width ++ u16 r.height ++ u8 r.table ++ twos 1 r.chromaOffset ++ u8 r.qmin ++ u8 r.qstart
    ++ u8 r.qmax ++ u16 r.buffer ++ u8 r.ceiling ++ u32 r.minRate ++ u32 r.maxRate ++ u8 r.weight
    ++ encList u8 r.buses ++ u8 r.soundWidth ++ u16 r.retention ++ u8 r.hold ++ u16 r.slateY ++ u16 r.slateCb
    ++ u16 r.slateCr

/-- Values of PROGRAM_STATUS by chapter (R19, R35, R52, R73, R100, R118, R172). -/
def intakeBody (i : Intake) : List Byte :=
  u16 i.missing ++ u16 i.repeats ++ u16 i.slates ++ u16 i.shorts ++ flag i.codedInRun ++ encOpt 4 encFormat i.mismatch
def coderBody (c : Coder) : List Byte :=
  u8 c.qi ++ u32 c.bitCount ++ u32 c.coded ++ u32 c.lastBits ++ u32 c.escaped ++ u32 c.dcSlices
def loopBody (share : Nat) (l : RateLoop) : List Byte :=
  u32 share ++ u32 l.share ++ u32 l.target ++ u32 l.sliceTarget ++ u32 l.bound ++ twos 4 l.fullness ++ u32 l.cmax
    ++ u16 l.ceilings ++ flag l.held
def framerBody (f : Framer) : List Byte :=
  u16 f.holds ++ u16 f.slips ++ encOpt 2 u16 (if f.filling then some (framerDepth f) else none)
def chainBody (c : Chain) : List Byte := u16 c.cuts ++ encOpt 4 u32 c.cut
/-- The scheduler's values; the pending bytes take the 6 bytes of a stream offset (the model's choice: log entry 20). -/
def liveBody (pending : Nat) (v : Live) : List Byte :=
  encOpt 7 (fun c => u8 c.1 ++ u48 c.2) v.cursor ++ u48 pending ++ u32 v.packets ++ u16 v.skips ++ u48 v.skippedBytes

/-- PROGRAM_STATUS (R19). -/
def programBody (p : Fin 4) (s : State) : List Byte :=
  let g := s.prog p
  u8 g.st.code ++ flag g.record.isSome ++ encList encRecord g.record.toList ++ u8 g.run ++ u48 g.streamOffset
    ++ u8 g.accumulator ++ flag g.writingEnded ++ intakeBody (s.intake p) ++ coderBody (s.coder p)
    ++ loopBody (s.alloc.shares.get p) (s.loop p) ++ framerBody (s.framer p) ++ chainBody (s.chain p)
    ++ liveBody (pendingBytes p s) (s.live p)

/-- A last measurement; an irregular one is given as present, with both figures 0 (log entry 10). -/
def encMeasured : Measured → List Byte
  | .regular f => encFormat f
  | .irregular => encFormat ⟨0, 0⟩

/-- READ_PICTURE_PORT (R35). -/
def portBody (q : PicturePort) : List Byte :=
  u8 q.st.code ++ encOpt 4 encFormat q.candidate ++ encOpt 4 encFormat q.locked
    ++ encOpt 4 encMeasured q.lastMeasurement ++ encOpt 4 u32 q.lastStart ++ u8 q.quiet ++ u16 q.extras ++ u16 q.losses

/-- A check's result: its place in the list of R53 and the two entries, 0 where the result names none
(log entry 10). -/
def encResult : CheckResult → List Byte
  | .pass => u8 0 ++ u16 0 ++ u16 0
  | .outOfRange i => u8 1 ++ u16 i ++ u16 0
  | .ambiguous i j => u8 2 ++ u16 i ++ u16 j

/-- Programs whose records name a table (R58). -/
def programsNaming (t : Nat) (s : State) : List (Fin 4) :=
  (List.finRange 4).filter fun p => match (s.prog p).record with
    | some r => r.table == t
    | none => false

/-- READ_TABLE (R58). -/
def tableBody (t : Fin 2) (s : State) : List Byte :=
  let c := s.table t
  u8 c.st.code ++ encOpt 5 encResult c.result
    ++ encList (fun e => u8 e.length ++ u16 e.value) (if c.st == .ready then c.entries else [])
    ++ encList (fun p => u8 p.1 ++ flag ((s.prog p).st == .idle)) (programsNaming t.1 s)

/-- READ_BUDGET (R79). -/
def budgetBody (a : Allocator) : List Byte :=
  u8 a.headroom ++ u16 a.labelReserve ++ u32 a.clipFloor ++ u32 a.usable ++ u32 a.sound ++ u32 a.clipCounted
    ++ u32 a.video ++ u32 a.minSum ++ u32 (a.shares.get 0) ++ u32 (a.shares.get 1) ++ u32 (a.shares.get 2)
    ++ u32 (a.shares.get 3) ++ u32 a.spare ++ u32 a.clipRate ++ flag a.starved ++ u32 a.runs ++ u32 a.starvedCount
    ++ encOpt 1 (fun c => u8 (AllocCause.code c)) a.cause

/-- READ_SLOT_PORT (R87). -/
def slotBody (q : SlotPort) : List Byte :=
  u8 q.st.code ++ u8 q.count ++ u8 q.buffer.length ++ encOpt 1 u8 q.position ++ u8 q.lock ++ u16 q.lockLosses
    ++ u16 q.unaligneds

/-- READ_MIXER (R102). -/
def mixerBody (m : Mixer) (k : Fin 8) : List Byte :=
  let b := m.buses.get k
  ((List.finRange 32).flatMap fun i =>
      u16 (b.cells.get i).current ++ u16 (b.cells.get i).target ++ u16 (b.cells.get i).remaining)
    ++ u16 b.delay ++ encOpt 2 u16 b.pendingDelay ++ u16 b.seed ++ u16 b.saturations ++ u16 b.narrowings
    ++ flag b.saturated
    ++ ((List.finRange 32).flatMap fun i => encOpt 2 (fun x => u8 x.1 ++ u8 x.2) (m.bindings.get i))
    ++ u8 m.left.1 ++ u8 m.right.1

/-- Every segment that is not FREE. -/
def allSegs (s : State) : List Segment := (List.finRange 4).flatMap fun p => (s.chain p).segs

/-- READ_STORE (R123). The head and the tail of the free list are two fields that may each be absent (the model's choice:
log entry 20). -/
def storeBody (s : State) : List Byte :=
  let t := s.store
  u16 (freeCount s) ++ encOpt 2 u16 t.freeList.head? ++ encOpt 2 u16 t.freeList.getLast?
    ++ u16 ((allSegs s).countP fun g => !g.isSealed) ++ u16 ((allSegs s).countP Segment.isSealed) ++ u16 t.reserve
    ++ flag t.pressure
    ++ ((List.finRange 4).flatMap fun p =>
      let c := s.chain p
      u16 c.segs.length ++ u8 c.openClips ++ u32 c.takes ++ u16 (c.segs.countP Segment.retention)
        ++ u16 (c.segs.countP fun g => decide (0 < g.pins)))
    ++ u32 t.takes ++ u32 t.freed ++ u32 t.yields ++ u16 t.refused

/-- State codes of a segment (R105). -/
def segState (g : Segment) : Nat := if g.isSealed then 2 else 1

/-- One mark (R105). -/
def encMark (m : Mark) : List Byte := u8 m.kind.code ++ u32 m.picture ++ u48 m.offset

/-- Entries of READ_SEGMENT and READ_CHAIN (R124). -/
def pageSize : Nat := 32

/-- READ_SEGMENT of a segment that is not FREE, in the chain of program `p` (R124). -/
def heldSegmentBody (p : Fin 4) (g : Segment) (position : Nat) : List Byte :=
  u16 g.number ++ u8 (segState g) ++ encOpt 1 u8 (some p.1) ++ encOpt 1 u8 (some g.run) ++ encOpt 6 u48 (some g.first)
    ++ u32 g.fill ++ encOpt 4 u32 g.firstPicture ++ encOpt 4 u32 g.lastPicture ++ flag g.writer ++ flag g.pendingSend
    ++ u16 g.refs ++ flag g.retention ++ u8 g.pins ++ u16 (hold g) ++ u16 g.marks.length
    ++ encList encMark ((g.marks.drop position).take pageSize)

/-- READ_SEGMENT of a FREE segment: the values of R105. -/
def freeSegmentBody (n : Nat) : List Byte :=
  u16 n ++ u8 0 ++ encOpt 1 u8 none ++ encOpt 1 u8 none ++ encOpt 6 u48 none ++ u32 0 ++ encOpt 4 u32 none
    ++ encOpt 4 u32 none ++ flag false ++ flag false ++ u16 0 ++ flag false ++ u8 0 ++ u16 0 ++ u16 0
    ++ encList encMark []

/-- READ_SEGMENT (R124). -/
def segmentBody (n position : Nat) (s : State) : List Byte :=
  match ((List.finRange 4).flatMap fun p => (s.chain p).segs.map fun g => (p, g)).find? fun x => x.2.number == n with
  | some (p, g) => heldSegmentBody p g position
  | none => freeSegmentBody n

/-- READ_CHAIN (R124). A segment of a chain is never FREE, so its run and its first stream offset, which R105 calls absent
when FREE alone, carry no presence byte here (the model's choice: log entry 20). -/
def chainListBody (c : Chain) (position : Nat) : List Byte :=
  u16 c.segs.length ++ encList (fun g => u16 g.number ++ u8 (segState g) ++ u8 g.run ++ u48 g.first ++ u32 g.fill
    ++ encOpt 4 u32 g.firstPicture ++ encOpt 4 u32 g.lastPicture ++ u16 (hold g)) ((c.segs.drop position).take pageSize)

/-- READ_PATH (R146). -/
def pathBody (p : Path) : List Byte :=
  u8 p.st.code ++ u32 p.estimate ++ u32 p.ceiling ++ u32 p.initial ++ u8 p.burst ++ u8 p.repairShare
    ++ u16 p.probeRate ++ u32 p.credit ++ u16 p.sequence ++ u8 p.repair ++ u32 p.probeNumber ++ flag p.probeSince
    ++ u48 p.bitsSent ++ u48 p.bitsGranted ++ u16 p.packetsSent ++ u8 p.good ++ u8 p.bad ++ u16 p.silence
    ++ u32 (creditCap p) ++ u32 (pathRate p) ++ flag p.carrier ++ flag p.port.isSome ++ u16 p.carrierLosses
    ++ u16 p.stateChanges ++ u16 p.goodReports ++ u16 p.badReports ++ u16 p.silences ++ u16 p.malformed

/-- READ_UPLINK (R147). -/
def uplinkBody (s : State) : List Byte :=
  u8 s.alloc.headroom ++ u16 s.alloc.labelReserve ++ u32 s.alloc.clipFloor ++ u16 s.uplink.silenceTimeout
    ++ u8 s.uplink.badThreshold ++ encOpt 2 u16 s.uplink.lastReport ++ u32 s.uplink.accepted ++ u16 s.uplink.stale
    ++ u16 s.uplink.ignored
    ++ ((List.finRange 6).flatMap fun l =>
      u8 (s.path l).st.code ++ u32 (s.path l).estimate ++ u32 (s.path l).credit)

/-- READ_WINDOW (R172). The send numbers of the oldest and the newest entry are two fields that may each be absent, and the
sum of the three abandoned counts, which can pass 2^32, is given modulo 2^32 in 4 bytes (the model's choices: log entry
20). -/
def windowBody (s : State) : List Byte :=
  let c := s.sched
  u32 c.nextSend ++ u16 c.deadline ++ u16 c.guardMs ++ u16 (liveEntries s).length ++ u16 (reliableEntries s).length
    ++ u16 (resendQueue s).length ++ encOpt 4 u32 (c.window.head?.map Entry.send)
    ++ encOpt 4 u32 (c.window.getLast?.map Entry.send) ++ encList u8 c.labelQueue
    ++ encOpt 13 (fun k => u8 (ClipCursor.clip k) ++ u48 k.next ++ u48 k.out) c.clipCursor ++ u32 c.bucket
    ++ u8 c.lastServed.1 ++ u32 c.acked ++ u32 c.resent ++ u32 c.lateAcks ++ u32 c.displaced ++ u32 c.byAge
    ++ u32 c.byLoss ++ u32 c.byDisplacement ++ u32 (c.byAge + c.byLoss + c.byDisplacement)
    ++ u16 c.abandoned.length

/-- What READ_CLIP gives of a clip that is not FREE beside its id and its state (R195). The fields that R175 calls absent
when FREE alone carry no presence byte here (the model's choice: log entry 20). -/
def clipFields (k : Clip) : List Byte :=
  u8 k.program.1 ++ u8 k.run ++ u32 k.creation ++ u8 k.source.code ++ u32 k.inPicture
    ++ encTimecode k.inTimecode ++ u48 k.inOffset ++ encOpt 4 u32 k.outPicture ++ encOpt 4 encTimecode k.outTimecode
    ++ encOpt 6 u48 k.outOffset ++ encOpt 4 u32 k.requestedOut ++ flag k.shipAtClose ++ encList (fun b => [b]) k.text
    ++ encList (fun b => [b]) k.tags ++ u8 k.rating ++ flag k.yieldable ++ flag k.trimmed ++ u8 k.revision
    ++ u8 k.label.code ++ encOpt 6 u48 k.shipCursor
    ++ encList u16 (if k.st == .opened || k.st == .closing then [k.pinned.length] else [])

/-- READ_CLIP (R195): the clip id and the state, FREE being 0, and the other fields, which are given only of a record that
is not FREE, as a list of one entry or of none (R213). -/
def clipReadBody (c : Nat) (s : State) : List Byte :=
  u8 c ++ u8 (((clipAt c s).map fun k => k.st.code).getD 0) ++ encList clipFields (clipAt c s).toList

/-- One record of LIST_CLIPS, 21 bytes (R196, R213). -/
def clipRow (c : Nat) (k : Clip) : List Byte :=
  u8 c ++ u32 k.creation ++ u8 k.st.code ++ u8 k.program.1 ++ u8 k.run ++ u8 k.source.code ++ u32 k.inPicture
    ++ encOpt 4 u32 k.outPicture ++ u8 k.revision ++ u8 k.label.code ++ flag k.yieldable

/-- Inserts a clip by creation number, oldest first (R175, R196), before the first clip of the list than which it is not
newer. Where the creation numbers span half the 32-bit range or more, the serial comparison names no oldest, and the order
in which `clipsByAge` inserts the clips decides (the model's choice: log entry 40). -/
def insertByAge (x : Nat × Clip) : List (Nat × Clip) → List (Nat × Clip)
  | [] => [x]
  | y :: ys => if newer32 x.2.creation y.2.creation then y :: insertByAge x ys else x :: y :: ys

/-- The records that are not FREE, oldest first (R196), inserted one by one from the highest clip id down (log entry 40). -/
def clipsByAge (s : State) : List (Nat × Clip) :=
  ((List.finRange 64).filterMap fun c => (s.clips.recs.get c).map fun k => (c.1, k)).foldr insertByAge []

/-- What LIST_CLIPS gives before its records (R196, R213). -/
def clipListHead (s : State) : List Byte :=
  let l := s.clips
  encList u8 l.shipQueue
    ++ encOpt 7 (fun c => u8 c ++ u48 (((clipAt c s).bind Clip.shipCursor).getD 0)) (shippingClip s)
    ++ u32 l.nextCreation
    ++ ((List.finRange 4).flatMap fun p => encOpt 1 u8 (openClipOf p s) ++ encOpt 4 u32 (l.lastWritten.get p))
    ++ ((List.finRange 2).flatMap fun m =>
      let k := s.line m
      encOpt 1 u8 k.binding ++ u16 k.preRoll ++ flag k.yieldable ++ encOpt 4 u32 k.lastPress ++ u16 k.bounces
        ++ u16 k.refused ++ u16 k.presses)
    ++ u32 l.created ++ u16 l.trims ++ u32 l.confirmed ++ u32 l.shippedCount ++ u32 l.shipQueued
    ++ u32 l.homeAccepted ++ u16 l.homeRefused ++ u32 l.released ++ u32 l.yielded

/-- LIST_CLIPS: as many records as fit while the body, with its 5-byte header and the two counts, stays within 1,024
bytes (R196, R213). -/
def clipListBody (s : State) : List Byte :=
  let head := clipListHead s
  let rows := clipsByAge s
  let given := min rows.length ((1024 - (5 + head.length + 2)) / 21)
  head ++ u8 given ++ u8 (rows.length - given) ++ (rows.take given).flatMap fun x => clipRow x.1 x.2

/-- The kinds that an event mask names (R212). -/
def maskNames (mask : Nat) (k : Fin 18) : Bool := mask.testBit k.1

/-- A subscription mask as a number (R212). -/
def maskOf (v : Vector Bool 18) : Nat :=
  ((List.finRange 18).map fun k => if v.get k then 2 ^ k.1 else 0).sum

/-- Whether a reply slot holds a made reply. -/
def ReplySlot.isMade : ReplySlot → Bool
  | .made _ => true
  | .reserved .. => false

/-- The kinds that an event mask names, in the order of the table of R206. -/
def namedKinds (mask : Nat) : List (Fin 18) := (List.finRange 18).filter fun k => maskNames mask k

/-- STATUS (R208). What is given for the kinds that the mask names alone is a list (R212, R213; log entry 20). -/
def statusBody (mask : Nat) (l : Link) : List Byte :=
  encList (fun k => flag (l.latches.get k) ++ u32 (l.raises.get k)) (namedKinds mask)
    ++ u32 l.linkErrors ++ u32 l.accepted ++ u32 l.queueFull ++ u32 l.droppedReplies ++ u32 l.lostNotices
    ++ u32 (maskOf l.subscribed) ++ u8 (l.replies.countP ReplySlot.isMade) ++ u8 l.notices.length

end Sys2Proof.Machine
end

