-- ==== Sys2Proof/Machine/Requests.lean ====
section
/-! DEFINITION. What each request does and answers, by the rule of its chapter; a refused request changes nothing
(R203, R204). One definition for each kind of request; `perform` names them all. -/

namespace Sys2Proof.Machine

/-! ### Answers (R204, R213) -/

/-- Status, details and body of a reply. -/
structure Answer where
  status : Status
  detail : Nat
  detail2 : Nat
  body : List Byte
  deriving DecidableEq, Repr

/-- DONE, with the values that follow the header. -/
def doneWith (body : List Byte) : Answer := ⟨.done, 0, 0, body⟩

/-- DONE. -/
def done : Answer := doneWith []

/-- ACCEPTED. -/
def accepted : Answer := ⟨.accepted, 0, 0, []⟩

/-- A refusal with its detail value. -/
def refuse (status : Status) (detail : Nat) : Answer := ⟨status, detail, 0, []⟩

/-- OUT_OF_RANGE naming a field by its number in the body (R204, R212). -/
def outOfRange (field : Nat) : Answer := refuse .outOfRange field

/-- The number, from 1, of the first field whose check fails (R212). -/
def offending (checks : List Bool) : Option Nat := (checks.findIdx? fun ok => !ok).map (· + 1)

/-- The range checks come first, and the first field that fails gives the answer; then `act` (R204, R212). -/
def checked (checks : List Bool) (s : State) (act : Answer × State) : Answer × State :=
  match offending checks with
  | some k => (outOfRange k, s)
  | none => act

/-- `n` lies in a range, both ends included. -/
def inRange (lo hi n : Nat) : Bool := decide (lo ≤ n) && decide (n ≤ hi)

/-- A flag field (R212). -/
def isFlag (n : Nat) : Bool := decide (n ≤ 1)

/-- A program number (R10). -/
def isProgram (n : Nat) : Bool := decide (n ≤ 3)

/-- A clip id (R187, R190). -/
def isClipId (n : Nat) : Bool := decide (n ≤ 63)

/-- A flag's value. -/
def flagOf (n : Nat) : Bool := n == 1

/-! ### Station timebase (R1, R6, R8) -/

/-- The lowest-numbered program that is not IDLE (R1). -/
def lowestBusy (s : State) : Option (Fin 4) := (List.finRange 4).find? fun p => (s.prog p).st != .idle

/-- The timebase a taken SET_STATION leaves: rate and flag at once, the due tick moved in FREE_RUN and cancelled in
LOCKED, and a load of 00:00:00:00 (R1). -/
def stationTimebase (rate : Fin 8) (drop : Bool) (t : Timebase) : Timebase :=
  { t with
    rate := rate
    drop := drop
    due := match t.ref with
      | .freeRun => some (t.lastTick + nominalPeriod (rateRow rate))
      | .locked => none
    load := some timecodeZero }

/-- A due tick whose time has already passed when SET_STATION is taken is made at once (R1). -/
def overdueTick (s : State) : State :=
  match s.tb.due with
  | none => s
  | some due => if due ≤ s.tb.now then takeDueTick s else s

/-- SET_STATION (R1). The cadence accumulators of the programs, all IDLE, stand as they are, also where the new rate's D is
not above them (the model's choice: log entry 41). -/
def reqSetStation (rate drop : Nat) (s : State) : Answer × State :=
  checked [decide (rate ≤ 7), isFlag drop && (!flagOf drop || (rateRow (Fin.ofNat 8 rate)).dropAllowed)] s <|
    match lowestBusy s with
    | some p => (refuse .wrongState p.1, s)
    | none => (done, overdueTick (s.modTb (stationTimebase (Fin.ofNat 8 rate) (flagOf drop))))

/-- Whether a label may be loaded (R6). -/
def labelAllowed (t : Timebase) (c : Timecode) : Bool :=
  let row := rateRow t.rate
  decide (c.hours ≤ 23) && decide (c.minutes ≤ 59) && decide (c.seconds ≤ 59) && decide (c.pictures < row.pictures)
    && !(t.drop && isDropped row c)

/-- SET_TIMECODE (R6). -/
def reqSetTimecode (c : Timecode) (s : State) : Answer × State :=
  checked [labelAllowed s.tb c] s (done, s.modTb fun t => { t with load := some c })

/-- READ_TIMEBASE (R8). -/
def reqReadTimebase (s : State) : Answer × State := (doneWith (timebaseBody s.tb), s)

/-! ### Programs (R10 to R19, R34) -/

/-- A bus list of 0, 2 or 4 distinct buses (R10). -/
def busesOk (l : List Nat) : Bool :=
  (l.length == 0 || l.length == 2 || l.length == 4) && l.all (fun k => decide (k ≤ 7)) && decide l.Nodup

/-- The checks of R10, field by field from the program number on; a broken ordering is the later field's. -/
def recordChecks (program : Nat) (r : ProgramRecord) : List Bool :=
  [ isProgram program,
    decide (r.port ≤ 3),
    inRange 720 1920 r.width && r.width % 8 == 0,
    inRange 480 1080 r.height && r.height % 8 == 0,
    decide (r.table ≤ 1),
    decide (-4 ≤ r.chromaOffset) && decide (r.chromaOffset ≤ 4),
    decide (r.qmin ≤ 47),
    decide (r.qstart ≤ 47) && decide (r.qmin ≤ r.qstart),
    decide (r.qmax ≤ 47) && decide (r.qstart ≤ r.qmax),
    inRange 5 200 r.buffer,
    inRange 2 8 r.ceiling,
    inRange 500 400000 r.minRate,
    inRange 500 400000 r.maxRate && decide (r.minRate ≤ r.maxRate),
    inRange 1 15 r.weight,
    busesOk r.buses,
    r.soundWidth == 16 || r.soundWidth == 24,
    decide (r.retention ≤ 65535),
    decide (r.hold ≤ 255),
    decide (r.slateY ≤ 1023),
    decide (r.slateCb ≤ 1023),
    decide (r.slateCr ≤ 1023) ]

/-- CONFIGURE_PROGRAM (R10). -/
def reqConfigureProgram (program : Nat) (r : ProgramRecord) (s : State) : Answer × State :=
  checked (recordChecks program r) s <|
    let p := idx4 program
    if (s.prog p).st == .idle then (done, s.modProg p fun g => { g with record := some r })
    else (refuse .wrongState program, s)

/-- Changes a program's record, if it has one. -/
def modRecord (p : Fin 4) (f : ProgramRecord → ProgramRecord) (s : State) : State :=
  s.modProg p fun g => { g with record := g.record.map f }

/-- The configuration check that follows the range checks of a request over a record (R11, R34, R121). -/
def configured (program : Nat) (s : State) (act : Answer × State) : Answer × State :=
  if (s.prog (idx4 program)).record.isSome then act else (refuse .notReady program, s)

/-- SET_RATE_LIMITS (R11). -/
def reqSetRateLimits (program minRate maxRate weight : Nat) (s : State) : Answer × State :=
  checked [isProgram program, inRange 500 400000 minRate, inRange 500 400000 maxRate && decide (minRate ≤ maxRate),
      inRange 1 15 weight] s <|
    configured program s
      (done, runAllocator .rateLimits
        (modRecord (idx4 program) (fun r => { r with minRate := minRate, maxRate := maxRate, weight := weight }) s))

/-- What makes a program of a START an offender (R13). -/
def startOffence (p : Fin 4) (s : State) : Option Status :=
  if (s.prog p).st != .idle then some .wrongState
  else
    match (s.prog p).record with
    | none => some .notReady
    | some r => if (s.table (Fin.ofNat 2 r.table)).st == .ready then none else some .notReady

/-- The programs a START mask names, in ascending number (R13). -/
def namedPrograms (mask : Nat) : List (Fin 4) := (List.finRange 4).filter fun p => mask.testBit p.1

/-- The lowest-numbered offender of a START (R13). -/
def firstOffender (ps : List (Fin 4)) (s : State) : Option (Status × Fin 4) :=
  ps.findSome? fun p => (startOffence p s).map fun k => (k, p)

/-- The named programs become ARMED together (R13). -/
def armAll (ps : List (Fin 4)) (s : State) : State :=
  ps.foldl (fun t p => t.modProg p fun g => { g with st := .armed }) s

/-- START (R13). -/
def reqStart (mask : Nat) (s : State) : Answer × State :=
  checked [inRange 1 15 mask] s <|
    match firstOffender (namedPrograms mask) s with
    | some (k, p) => (refuse k p.1, s)
    | none => (accepted, armAll (namedPrograms mask) s)

/-- STOP (R15). -/
def reqStop (program : Nat) (s : State) : Answer × State :=
  checked [isProgram program] s <|
    let p := idx4 program
    (if (s.prog p).st == .running || (s.prog p).st == .draining then accepted else done, stopProgram p s)

/-- ABORT (R17). -/
def reqAbort (program : Nat) (s : State) : Answer × State :=
  checked [isProgram program] s <|
    let p := idx4 program
    (done, if (s.prog p).st == .idle then s else settle (abortProgram p s))

/-- PROGRAM_STATUS (R19). -/
def reqProgramStatus (program : Nat) (s : State) : Answer × State :=
  checked [isProgram program] s (doneWith (programBody (idx4 program) s), s)

/-- SET_SLATE (R34). -/
def reqSetSlate (program y cb cr hold : Nat) (s : State) : Answer × State :=
  checked [isProgram program, decide (y ≤ 1023), decide (cb ≤ 1023), decide (cr ≤ 1023), decide (hold ≤ 255)] s <|
    configured program s
      (done, modRecord (idx4 program)
        (fun r => { r with slateY := y, slateCb := cb, slateCr := cr, hold := hold }) s)

/-- READ_PICTURE_PORT (R35). -/
def reqReadPicturePort (port : Nat) (s : State) : Answer × State :=
  checked [decide (port ≤ 3)] s (doneWith (portBody (s.port (idx4 port))), s)

/-! ### Code tables (R54, R57, R58) -/

/-- What becomes of a LOAD_TABLE: an answer at once, or a check whose end will answer (R54). -/
inductive Verdict where
  | answer (a : Answer)
  | later (table : Nat)
  deriving DecidableEq, Repr

/-- The lowest-numbered program that is not IDLE and names a table (R54). -/
def tableUser (table : Nat) (s : State) : Option (Fin 4) :=
  (programsNaming table s).find? fun p => (s.prog p).st != .idle

/-- LOAD_TABLE (R54). -/
def reqLoadTable (table : Nat) (entries : List CodeEntry) (s : State) : Verdict × State :=
  if table ≤ 1 then
    let t := Fin.ofNat 2 table
    if (s.table t).st == .checking then (.answer ⟨.inUse, table, 1, []⟩, s)
    else
      match tableUser table s with
      | some p => (.answer ⟨.inUse, p.1, 0, []⟩, s)
      | none => (.later table, s.modTable t fun c => { c with st := .checking, entries := entries })
  else (.answer (outOfRange 1), s)

/-- The answer that the result of a check gives (R55). -/
def checkAnswer : CheckResult → Answer
  | .pass => done
  | .outOfRange i => outOfRange i
  | .ambiguous i j => ⟨.tableAmbiguous, i, j, []⟩

/-- A table when its check ends (R55). -/
def endCheck (c : CodeTable) : CodeTable :=
  match checkTable c.entries with
  | .pass => { c with st := .ready, result := some .pass }
  | r => { st := .empty, entries := [], result := some r }

/-- SELECT_TABLE (R57). -/
def reqSelectTable (program table : Nat) (s : State) : Answer × State :=
  checked [isProgram program, decide (table ≤ 1)] s <|
    configured program s <|
      if (s.prog (idx4 program)).st != .idle then (refuse .wrongState program, s)
      else if (s.table (Fin.ofNat 2 table)).st == .ready then
        (done, modRecord (idx4 program) (fun r => { r with table := table }) s)
      else (refuse .notReady program, s)

/-- READ_TABLE (R58). -/
def reqReadTable (table : Nat) (s : State) : Answer × State :=
  checked [decide (table ≤ 1)] s (doneWith (tableBody (Fin.ofNat 2 table) s), s)

/-- READ_BUDGET (R79). -/
def reqReadBudget (s : State) : Answer × State := (doneWith (budgetBody s.alloc), s)

/-! ### Sound (R86, R87, R89, R90, R96, R101, R102) -/

/-- CONFIGURE_SLOT_PORT (R86). -/
def reqConfigureSlotPort (port count : Nat) (s : State) : Answer × State :=
  checked [decide (port ≤ 3), inRange 1 16 count] s <|
    let i := idx4 port
    if (s.slot i).st == .off then (done, s.modSlot i fun q => { q with count := count })
    else (refuse .wrongState port, s)

/-- A slot port that is enabled (R86). -/
def enabledSlot (q : SlotPort) : SlotPort :=
  if q.st == .off then { q with st := .seeking, position := none, lock := 0 } else q

/-- ENABLE_SLOT_PORT (R86). -/
def reqEnableSlotPort (port : Nat) (s : State) : Answer × State :=
  checked [decide (port ≤ 3)] s (done, s.modSlot (idx4 port) enabledSlot)

/-- A slot port that is disabled (R86). -/
def disabledSlot (q : SlotPort) : SlotPort :=
  if q.st == .off then q else { q with st := .off, position := none, lock := 0, partFrame := [], buffer := [] }

/-- DISABLE_SLOT_PORT (R86). -/
def reqDisableSlotPort (port : Nat) (s : State) : Answer × State :=
  checked [decide (port ≤ 3)] s (done, s.modSlot (idx4 port) disabledSlot)

/-- READ_SLOT_PORT (R87). -/
def reqReadSlotPort (port : Nat) (s : State) : Answer × State :=
  checked [decide (port ≤ 3)] s (doneWith (slotBody (s.slot (idx4 port))), s)

/-- Whether a binding may be made: its slot is below the named port's slot count (R89). -/
def bindingOk (b : Option (Nat × Nat)) (s : State) : Bool :=
  match b with
  | none => true
  | some (port, slot) => decide (port ≤ 3) && decide (slot ≤ 15) && decide (slot < (s.slot (idx4 port)).count)

/-- BIND_INPUT (R89). -/
def reqBindInput (input : Nat) (binding : Option (Nat × Nat)) (s : State) : Answer × State :=
  checked [decide (input ≤ 31), bindingOk binding s] s
    (done, s.modMixer fun m => { m with bindings := Vec.put m.bindings (Fin.ofNat 32 input) binding })

/-- Changes one bus. -/
def modBus (k : Fin 8) (f : Bus → Bus) (s : State) : State :=
  s.modMixer fun m => { m with buses := Vec.put m.buses k (f (m.buses.get k)) }

/-- A gain cell given a target and a ramp length (R90). -/
def setCell (gain ramp : Nat) (g : GainCell) : GainCell :=
  if ramp = 0 then { current := gain, target := gain, remaining := 0 } else { g with target := gain, remaining := ramp }

/-- SET_GAIN (R90). -/
def reqSetGain (input bus gain ramp : Nat) (s : State) : Answer × State :=
  checked [decide (input ≤ 31), decide (bus ≤ 7), decide (gain ≤ 65535), decide (ramp ≤ 2048)] s
    (done, modBus (Fin.ofNat 8 bus) (fun b =>
      { b with cells := Vec.put b.cells (Fin.ofNat 32 input) (setCell gain ramp (b.cells.get (Fin.ofNat 32 input))) }) s)

/-- SET_BUS (R96). -/
def reqSetBus (bus delay seed : Nat) (s : State) : Answer × State :=
  checked [decide (bus ≤ 7), decide (delay ≤ 8191), decide (seed ≤ 65535)] s
    (done, modBus (Fin.ofNat 8 bus) (fun b =>
      reloadDither (Fin.ofNat 8 bus) { b with pendingDelay := some delay, seed := seed }) s)

/-- SET_MONITOR (R101). -/
def reqSetMonitor (left right : Nat) (s : State) : Answer × State :=
  checked [decide (left ≤ 7), decide (right ≤ 7)] s
    (done, s.modMixer fun m => { m with left := Fin.ofNat 8 left, right := Fin.ofNat 8 right })

/-- READ_MIXER (R102). -/
def reqReadMixer (bus clear : Nat) (s : State) : Answer × State :=
  checked [decide (bus ≤ 7), isFlag clear] s
    (doneWith (mixerBody s.mixer (Fin.ofNat 8 bus)),
      if flagOf clear then modBus (Fin.ofNat 8 bus) (fun b => { b with saturations := 0, narrowings := 0 }) s else s)

/-! ### Segment store (R121 to R124) -/

/-- SET_RETENTION (R121). -/
def reqSetRetention (program retention : Nat) (s : State) : Answer × State :=
  checked [isProgram program, decide (retention ≤ 65535)] s <|
    configured program s (done, modRecord (idx4 program) (fun r => { r with retention := retention }) s)

/-- What a new reserve brings about (R122). -/
def applyReserve (s : State) : State :=
  if freeCount s < s.store.reserve then yieldRequest (setPressure none s) else clearPressure s

/-- SET_RESERVE (R122). -/
def reqSetReserve (reserve : Nat) (s : State) : Answer × State :=
  checked [decide (reserve ≤ 1024)] s (done, applyReserve (s.modStore fun t => { t with reserve := reserve }))

/-- READ_STORE (R123). -/
def reqReadStore (s : State) : Answer × State := (doneWith (storeBody s), s)

/-- READ_SEGMENT (R124). -/
def reqReadSegment (segment position : Nat) (s : State) : Answer × State :=
  checked [decide (segment ≤ 4095)] s (doneWith (segmentBody segment position s), s)

/-- READ_CHAIN (R124). -/
def reqReadChain (program position : Nat) (s : State) : Answer × State :=
  checked [isProgram program] s (doneWith (chainListBody (s.chain (idx4 program)) position), s)

/-! ### Uplink (R128, R130, R145 to R147) -/

/-- The checks of R128; the two further conditions are made after the ranges and name the burst, field 4. -/
def pathOffence (path ceiling initial burst repairShare probeRate : Nat) : Option Nat :=
  match offending [decide (path ≤ 5), inRange 1000 1000000 ceiling, inRange 64 1000000 initial, inRange 1 50 burst,
      decide (repairShare ≤ 255), inRange 64 2048 probeRate] with
  | some k => some k
  | none =>
    if probeRate * burst < Config.probeBits ∨ min initial ceiling * burst < Config.fullPacketBits then some 4 else none

/-- The record a taken CONFIGURE_PATH leaves (R128). -/
def configuredPath (ceiling initial burst repairShare probeRate : Nat) (p : Path) : Path :=
  capCredit
    { p with
      ceiling := ceiling
      initial := initial
      burst := burst
      repairShare := repairShare
      probeRate := probeRate
      estimate := if carries p then min p.estimate ceiling else p.estimate }

/-- The path a number in range names. -/
def idx6 (n : Nat) : Fin 6 := Fin.ofNat 6 n

/-- CONFIGURE_PATH (R128). -/
def reqConfigurePath (path ceiling initial burst repairShare probeRate : Nat) (s : State) : Answer × State :=
  match pathOffence path ceiling initial burst repairShare probeRate with
  | some k => (outOfRange k, s)
  | none => (done, s.modPath (idx6 path) (configuredPath ceiling initial burst repairShare probeRate))

/-- ENABLE_PATH (R130). -/
def reqEnablePath (path : Nat) (s : State) : Answer × State :=
  checked [decide (path ≤ 5)] s (done, enablePath (idx6 path) s)

/-- DISABLE_PATH (R130). -/
def reqDisablePath (path : Nat) (s : State) : Answer × State :=
  checked [decide (path ≤ 5)] s
    (done, if (s.path (idx6 path)).st == .off then s else settle (disablePath (idx6 path) s))

/-- SET_UPLINK (R60, R145). -/
def reqSetUplink (headroom labelReserve clipFloor silence threshold forget : Nat) (s : State) : Answer × State :=
  checked [inRange 8 16 headroom, decide (labelReserve ≤ 2000), decide (clipFloor ≤ 50000), inRange 200 5000 silence,
      inRange 1 255 threshold, isFlag forget] s
    (done, runAllocator .uplinkSettings
      ((s.modAlloc fun a => { a with headroom := headroom, labelReserve := labelReserve, clipFloor := clipFloor }).modUplink
        fun u =>
          { u with
            silenceTimeout := silence
            badThreshold := threshold
            lastReport := if flagOf forget then none else u.lastReport }))

/-- READ_PATH (R146). -/
def reqReadPath (path : Nat) (s : State) : Answer × State :=
  checked [decide (path ≤ 5)] s (doneWith (pathBody (s.path (idx6 path))), s)

/-- READ_UPLINK (R147). -/
def reqReadUplink (s : State) : Answer × State := (doneWith (uplinkBody s), s)

/-! ### Scheduler (R171, R172) -/

/-- SET_DELIVERY (R171). -/
def reqSetDelivery (deadline guardMs : Nat) (s : State) : Answer × State :=
  checked [inRange 50 2000 deadline, decide (guardMs ≤ 500) && decide (guardMs < deadline)] s
    (done, s.modSched fun c => { c with deadline := deadline, guardMs := guardMs })

/-- READ_WINDOW (R172). -/
def reqReadWindow (s : State) : Answer × State := (doneWith (windowBody s), s)

/-! ### Clip log (R177, R180, R185, R187, R190 to R196) -/

/-- The picture that an in selector names (R178, R212). -/
def selectedIn (selector value : Nat) (s : State) : Nat :=
  if selector = 1 then diff32 s.tb.picture value else value

/-- The values of a MARK_IN reply (R177). -/
def markInBody (c : Nat) (s : State) : List Byte :=
  match clipAt c s with
  | some k => u8 c ++ u32 k.creation ++ u32 k.inPicture ++ u48 k.inOffset ++ flag k.trimmed
  | none => []

/-- MARK_IN (R177 to R179). -/
def reqMarkIn (program selector value yieldable : Nat) (s : State) : Answer × State :=
  checked [isProgram program, isFlag selector && (selector == 0 || decide (value ≤ 65535)), isFlag yieldable] s <|
    let p := idx4 program
    match markInRefusal p s with
    | some k => (refuse k.status k.detail, s)
    | none =>
      let s1 := markIn p (selectedIn selector value s) (flagOf yieldable) .host s
      (doneWith (markInBody (lowestFree s) s1), s1)

/-- The values of a MARK_OUT reply: the clip, q and the new state (R180). -/
def markOutBody (c q : Nat) (s : State) : List Byte :=
  u8 c ++ u32 q ++ u8 (((clipAt c s).map fun k => k.st.code).getD 0)

/-- The out picture that an out selector names, absent for now (R180, R212). -/
def selectedOut (selector value : Nat) : Option Nat := if selector = 1 then none else some value

/-- MARK_OUT (R180 to R183). -/
def reqMarkOut (program selector value : Nat) (s : State) : Answer × State :=
  checked [isProgram program, isFlag selector] s <|
    let p := idx4 program
    match openClipOf p s with
    | none => (refuse .noSuchClip program, s)
    | some c =>
      let q := clampOut p (((clipAt c s).map Clip.inPicture).getD 0) (selectedOut selector value) s
      let s1 := markOut p c (selectedOut selector value) s
      (doneWith (markOutBody c q s1), settle s1)

/-- SET_MARK_LINE (R185). -/
def reqSetMarkLine (line : Nat) (binding : Option Nat) (preRoll yieldable : Nat) (s : State) : Answer × State :=
  checked [decide (line ≤ 1), (binding.map isProgram).getD true, decide (preRoll ≤ 1000), isFlag yieldable] s
    (done, s.modLine (Fin.ofNat 2 line) fun m =>
      { m with binding := binding, preRoll := preRoll, yieldable := flagOf yieldable })

/-- A printable character (R187). -/
def isPrintable (b : Byte) : Bool := inRange 0x20 0x7E b.toNat

/-- The record a taken SET_LABEL leaves (R187). -/
def relabelled (text tags : List Byte) (rating : Nat) (yieldable : Bool) (k : Clip) : Clip :=
  { k with
    text := text, tags := tags, rating := rating, yieldable := yieldable, revision := incWrap8 k.revision,
    label := .pending }

/-- SET_LABEL (R187). -/
def reqSetLabel (clip : Nat) (text tags : List Byte) (rating yieldable : Nat) (s : State) : Answer × State :=
  checked [isClipId clip, decide (text.length ≤ 40) && text.all isPrintable, decide (tags.length ≤ 8),
      decide (rating ≤ 5), isFlag yieldable] s <|
    match clipAt clip s with
    | none => (refuse .noSuchClip clip, s)
    | some k =>
      let s1 := modClip clip (relabelled text tags rating (flagOf yieldable)) s
      (doneWith (u8 (incWrap8 k.revision)),
        if k.st == .opened || k.st == .closing then s1 else settle (addLabel clip s1))

/-- SHIP of a clip that is not FREE (R190). -/
def shipClip (clip : Nat) (k : Clip) (s : State) : Answer × State :=
  let queues := (accepted,
    settle ((queueShip clip s).modClips fun l => { l with shipQueued := incWrap32 l.shipQueued }))
  match k.st with
  | .opened => (refuse .wrongState clip, s)
  | .closing => (accepted, modClip clip (fun k => { k with shipAtClose := true }) s)
  | .closed => queues
  | .queued => (accepted, s)
  | .shipping => (accepted, s)
  | .shipped => queues

/-- SHIP (R190). -/
def reqShip (clip : Nat) (s : State) : Answer × State :=
  checked [isClipId clip] s <|
    match clipAt clip s with
    | none => (refuse .noSuchClip clip, s)
    | some k => shipClip clip k s

/-- CANCEL_SHIP of a clip that is not FREE (R192). -/
def cancelClip (clip : Nat) (k : Clip) (s : State) : Answer × State :=
  let closes := modClip clip fun k => { k with st := .closed, shipCursor := none }
  match k.st with
  | .opened => (refuse .wrongState clip, s)
  | .closing => (done, modClip clip (fun k => { k with shipAtClose := false }) s)
  | .closed => (refuse .wrongState clip, s)
  | .queued =>
    (done, (closes s).modClips fun l => { l with shipQueue := l.shipQueue.filter fun i => i != clip })
  | .shipping => (done, settle (closes (dropClip clip false (withdrawCursor clip s))))
  | .shipped => (refuse .wrongState clip, s)

/-- CANCEL_SHIP (R192). -/
def reqCancelShip (clip : Nat) (s : State) : Answer × State :=
  checked [isClipId clip] s <|
    match clipAt clip s with
    | none => (refuse .noSuchClip clip, s)
    | some k => cancelClip clip k s

/-- RELEASE (R193). -/
def reqRelease (clip : Nat) (s : State) : Answer × State :=
  checked [isClipId clip] s <|
    match clipAt clip s with
    | none => (refuse .noSuchClip clip, s)
    | some _ => (done, settle (releaseClip clip s))

/-- READ_CLIP (R195). -/
def reqReadClip (clip : Nat) (s : State) : Answer × State :=
  checked [isClipId clip] s (doneWith (clipReadBody clip s), s)

/-- LIST_CLIPS (R196). -/
def reqListClips (s : State) : Answer × State := (doneWith (clipListBody s), s)

/-! ### Control link (R207 to R210) -/

/-- An event mask (R212). -/
def isMask (mask : Nat) : Bool := decide (mask < 2 ^ 18)

/-- STATUS: every named latch is cleared (R208). -/
def reqStatus (mask : Nat) (s : State) : Answer × State :=
  checked [isMask mask] s
    (doneWith (statusBody mask s.link),
      s.modLink fun l => { l with latches := Vec.tab fun k => l.latches.get k && !maskNames mask k })

/-- SUBSCRIBE (R205, R207). -/
def reqSubscribe (mask : Nat) (s : State) : Answer × State :=
  checked [isMask mask] s
    (done, noticeLostTest (s.modLink fun l => { l with subscribed := Vec.tab (maskNames mask) }))

/-- IDENTIFY (R209). -/
def reqIdentify (s : State) : Answer × State := (doneWith identity, s)

/-! ### RESTART (R210) -/

/-- Ends a ramp at its target (R104). -/
def settleCell (g : GainCell) : GainCell := if g.remaining = 0 then g else { g with current := g.target, remaining := 0 }

/-- Step 1 of R210: programs to IDLE, coders, intake, ramps, framers, clips (R21, R33, R36, R51, R104, R184). The
programs are taken to IDLE in ascending number, which orders their PROGRAM_IDLE notices and the clips that join the
ship queue (log entry 24). -/
def restartPrograms (s : State) : State :=
  let s1 := eachProgram (fun p t =>
    let busy := (t.prog p).st != .idle
    (takeToIdle p .restarted t).modProg p fun g => { g with writingEnded := busy || g.writingEnded }) s
  let s2 := eachProgram (fun p t =>
    (((t.modProg p fun g => { g with streamOffset := 0, accumulator := 0 }).modCoder p coderStop).modIntake p
      fun i => { i with missing := 0 })) s1
  s2.modMixer fun m =>
    { m with buses := mapAll (fun _ b => { b with cells := mapAll (fun _ => settleCell) b.cells }) m.buses }

/-- Step 2: the scheduler (R174). -/
def restartScheduler (s : State) : State :=
  eachProgram (fun p t => t.modLive p fun v => { v with cursor := none })
    (s.modSched fun c =>
      { c with
        window := [], labelQueue := [], abandoned := [], clipCursor := none, bucket := 0,
        asking := Vector.replicate 6 false })

/-- Step 3: the store (R125). -/
def restartStore (s : State) : State :=
  let s1 := eachProgram (fun p t => t.modChain p fun c =>
    { c with
      cut := none
      segs := c.segs.map fun g =>
        { g with isSealed := true, writer := false, pendingSend := false, retention := false, refs := 0 } }) s
  clearPressure (freeZero s1)

/-- Step 4: the clip log (R197). -/
def restartClips (s : State) : State :=
  let s1 :=
    match shippingClip s with
    | some c =>
      (modClip c (fun k => { k with st := .queued, shipCursor := none }) s).modClips fun l =>
        { l with shipQueue := c :: l.shipQueue }
    | none => s
  let waiting := (clipsByAge s1).filter fun x => x.2.label != .confirmed
  settleShip (waiting.foldl (fun t x =>
    addLabel x.1 (modClip x.1 (fun k => { k with label := .pending }) t)) s1)

/-- Step 5: the paths (R148). -/
def restartPaths (s : State) : State :=
  eachPath (fun l t => t.modPath l fun p => { restartInterval p with credit := 0, good := 0, bad := 0 }) s

/-- Step 6: the allocator (R80). -/
def restartAllocator (s : State) : State :=
  runAllocator .restart (s.modAlloc fun a =>
    { a with shares := Vector.replicate 4 0, spare := 0, video := 0, clipRate := 0, starved := false })

/-- RESTART, in the order of R210. -/
def restartAll (s : State) : State :=
  endEvent s (restartAllocator (restartPaths (restartClips (restartStore (restartScheduler (restartPrograms s))))))

/-- RESTART (R210). -/
def reqRestart (s : State) : Answer × State := (done, restartAll s)

/-! ### All kinds -/

/-- An answer made at once. -/
def atOnce (r : Answer × State) : Verdict × State := (.answer r.1, r.2)

/-- Carries out a request, in the order of examination of R203. -/
def perform (r : Request) (s : State) : Verdict × State :=
  match r with
  | .unknownKind kind => atOnce (refuse .unknownKind kind.toNat, s)
  | .badLength _ length => atOnce (refuse .badLength length, s)
  | .setStation rate drop => atOnce (reqSetStation rate drop s)
  | .setTimecode label => atOnce (reqSetTimecode label s)
  | .readTimebase => atOnce (reqReadTimebase s)
  | .configureProgram program record => atOnce (reqConfigureProgram program record s)
  | .setRateLimits program minRate maxRate weight => atOnce (reqSetRateLimits program minRate maxRate weight s)
  | .start mask => atOnce (reqStart mask s)
  | .stop program => atOnce (reqStop program s)
  | .abort program => atOnce (reqAbort program s)
  | .programStatus program => atOnce (reqProgramStatus program s)
  | .setSlate program y cb cr hold => atOnce (reqSetSlate program y cb cr hold s)
  | .readPicturePort port => atOnce (reqReadPicturePort port s)
  | .loadTable table entries => reqLoadTable table entries s
  | .selectTable program table => atOnce (reqSelectTable program table s)
  | .readTable table => atOnce (reqReadTable table s)
  | .readBudget => atOnce (reqReadBudget s)
  | .configureSlotPort port count => atOnce (reqConfigureSlotPort port count s)
  | .enableSlotPort port => atOnce (reqEnableSlotPort port s)
  | .disableSlotPort port => atOnce (reqDisableSlotPort port s)
  | .readSlotPort port => atOnce (reqReadSlotPort port s)
  | .bindInput input binding => atOnce (reqBindInput input binding s)
  | .setGain input bus gain ramp => atOnce (reqSetGain input bus gain ramp s)
  | .setBus bus delay seed => atOnce (reqSetBus bus delay seed s)
  | .setMonitor left right => atOnce (reqSetMonitor left right s)
  | .readMixer bus clear => atOnce (reqReadMixer bus clear s)
  | .setRetention program retention => atOnce (reqSetRetention program retention s)
  | .setReserve reserve => atOnce (reqSetReserve reserve s)
  | .readStore => atOnce (reqReadStore s)
  | .readSegment segment position => atOnce (reqReadSegment segment position s)
  | .readChain program position => atOnce (reqReadChain program position s)
  | .configurePath path ceiling initial burst repairShare probeRate =>
    atOnce (reqConfigurePath path ceiling initial burst repairShare probeRate s)
  | .enablePath path => atOnce (reqEnablePath path s)
  | .disablePath path => atOnce (reqDisablePath path s)
  | .setUplink headroom labelReserve clipFloor silence threshold forget =>
    atOnce (reqSetUplink headroom labelReserve clipFloor silence threshold forget s)
  | .readPath path => atOnce (reqReadPath path s)
  | .readUplink => atOnce (reqReadUplink s)
  | .setDelivery deadline guardMs => atOnce (reqSetDelivery deadline guardMs s)
  | .readWindow => atOnce (reqReadWindow s)
  | .markIn program selector value yieldable => atOnce (reqMarkIn program selector value yieldable s)
  | .markOut program selector value => atOnce (reqMarkOut program selector value s)
  | .setMarkLine line binding preRoll yieldable => atOnce (reqSetMarkLine line binding preRoll yieldable s)
  | .setLabel clip text tags rating yieldable => atOnce (reqSetLabel clip text tags rating yieldable s)
  | .ship clip => atOnce (reqShip clip s)
  | .cancelShip clip => atOnce (reqCancelShip clip s)
  | .release clip => atOnce (reqRelease clip s)
  | .readClip clip => atOnce (reqReadClip clip s)
  | .listClips => atOnce (reqListClips s)
  | .status mask => atOnce (reqStatus mask s)
  | .subscribe mask => atOnce (reqSubscribe mask s)
  | .identify => atOnce (reqIdentify s)
  | .restart => atOnce (reqRestart s)

end Sys2Proof.Machine
end

