-- ==== Sys2Proof/Machine/Link.lean ====
section
/-! DEFINITION. The control link: the request queue and processor, the outbound queues and port, the frame receiver,
the attention line, and the end of a table check (R198 to R205, R211). -/

namespace Sys2Proof.Machine

/-! ### Replies (R203, R205) -/

/-- The reply that an answer makes to a request. -/
def replyOf (tag kind : Byte) (a : Answer) : Reply := ⟨tag, kind, a.status, a.detail, a.detail2, a.body⟩

/-- Puts a slot at the reply queue's tail. -/
def pushReply (r : ReplySlot) (s : State) : State := s.modLink fun l => { l with replies := l.replies ++ [r] }

/-- Whether the reply queue has a free slot, reservations counted as used (R205). -/
def replyRoom (s : State) : Bool := decide (s.link.replies.length < Config.maxReplies)

/-- The slot that the processor's request leaves in the reply queue: its reply, or the reservation of a LOAD_TABLE
(R203). -/
def slotOf (w : Waiting) : Verdict → ReplySlot
  | .answer a => .made (replyOf w.tag w.req.kind a)
  | .later table => .reserved w.tag table

/-- A request taken from the request queue is counted (R203). -/
def countRequest (l : Link) : Link := { l with accepted := incWrap32 l.accepted }

/-- The processor counts one request, carries it out and leaves its slot in the reply queue (R203). -/
def process (w : Waiting) (s : State) : State :=
  let r := perform w.req (s.modLink countRequest)
  pushReply (slotOf w r.1) r.2

/-- The processor takes requests while one waits and the reply queue has a free slot (R203). -/
def pumpN : Nat → State → State
  | 0, s => s
  | n + 1, s =>
    match s.link.requests with
    | [] => s
    | w :: rest =>
      if replyRoom s then pumpN n (process w (s.modLink fun l => { l with requests := rest })) else s

def pump (s : State) : State := pumpN s.link.requests.length s

/-- An accepted frame: it joins the request queue, or is answered with QUEUE_FULL (R202). -/
def acceptFrame (w : Waiting) (s : State) : State :=
  if s.link.requests.length < Config.maxRequests then
    pump (s.modLink fun l => { l with requests := l.requests ++ [w] })
  else
    let s1 := s.modLink fun l => { l with queueFull := incWrap32 l.queueFull }
    if replyRoom s1 then pushReply (.made (replyOf w.tag w.req.kind (refuse .queueFull 16))) s1
    else s1.modLink fun l => { l with droppedReplies := incWrap32 l.droppedReplies }

/-- A request command: a whole correct frame that carries the request has arrived. A link that is not ready discards
it (R211; log entry 1). -/
def submit (tag : Byte) (req : Request) (s : State) : State := if s.link.ready then acceptFrame ⟨tag, req⟩ s else s

/-- The end of a table's check fills the reservation of its LOAD_TABLE (R55, R203). The reply stands where the reservation
stood (R205), and not after the replies of requests taken while the check ran, as R203 has it: the model's choice (log
entry 42). -/
def fillReserved (table : Nat) (a : Answer) (l : Link) : Link :=
  { l with
    replies := l.replies.map fun r => match r with
      | .made m => .made m
      | .reserved tag t => if t = table then .made (replyOf tag 12 a) else .reserved tag t }

/-- The check of a table ends (R55). -/
def endTableCheck (t : Fin 2) (s : State) : State :=
  if (s.table t).st == .checking then
    (s.modTable t endCheck).modLink (fillReserved t.1 (checkAnswer (checkTable (s.table t).entries)))
  else s

/-! ### The outbound port (R198, R199, R205) -/

/-- The place of the first made reply. -/
def firstMade (l : Link) : Option Nat := l.replies.findIdx? ReplySlot.isMade

/-- The frame that the port begins next: the first made reply, otherwise the head of the notice queue (R205). -/
def nextFrame (l : Link) : Option Sending :=
  match firstMade l with
  | some i => some ⟨false, i, 0⟩
  | none => if l.notices.isEmpty then none else some ⟨true, 0, 0⟩

/-- The bytes of the frame in progress. -/
def sendingBytes (l : Link) (x : Sending) : List Byte :=
  if x.isNotice then ((l.notices[x.index]?).map Notice.frame).getD []
  else
    match l.replies[x.index]? with
    | some (.made r) => r.frame
    | some (.reserved ..) => []
    | none => []

/-- The last byte of a frame has been clocked out: its slot is freed, the NOTICE_LOST test is made when a notice has
left, and the processor may take a waiting request (R203, R205). -/
def frameDone (x : Sending) (s : State) : State :=
  if x.isNotice then
    pump (noticeLostTest (s.modLink fun l => { l with notices := l.notices.eraseIdx x.index, sending := none }))
  else pump (s.modLink fun l => { l with replies := l.replies.eraseIdx x.index, sending := none })

/-- The frame in progress, or the one that begins now. -/
def inProgress (l : Link) : Option Sending :=
  match l.sending with
  | some x => some x
  | none => nextFrame l

/-- The outbound byte that the host clocks out next: a frame's, or the idle byte (R198). -/
def outboundByte (l : Link) : Byte :=
  if l.ready then
    match inProgress l with
    | some x => (sendingBytes l x).getD x.sent 0
    | none => 0
  else 0

/-- One outbound byte is clocked out (R198, R205). -/
def clockOut (s : State) : State :=
  if s.link.ready then
    match inProgress s.link with
    | none => s
    | some x =>
      if (sendingBytes s.link x).length ≤ x.sent + 1 then frameDone x s
      else s.modLink fun l => { l with sending := some { x with sent := x.sent + 1 } }
  else s

/-- The frame in progress, or the next one, is clocked out to its last byte (R205). -/
def outboundFrameSent (s : State) : State :=
  if s.link.ready then
    match inProgress s.link with
    | none => s
    | some x => frameDone x s
  else s

/-- Whether the attention line is asserted: while either outbound queue holds a frame (R199). -/
def attention (l : Link) : Bool := l.ready && (l.replies.any ReplySlot.isMade || !l.notices.isEmpty)

/-! ### The frame receiver (R201) -/

/-- A frame's smallest and largest length field (R200). -/
def minLength : Nat := 2
def maxLength : Nat := 1026

/-- A discarded frame, or a stray run, counts once (R201). -/
def linkError (l : Link) : Link := { l with linkErrors := incWrap32 l.linkErrors }

/-- The receiver in HUNT takes a byte (R201). -/
def huntByte (inRun fresh : Bool) (b : Byte) (l : Link) : Link :=
  if b = 0xC3#8 then { l with rx := .length none }
  else if b = 0 then { l with rx := .hunt inRun false }
  else if inRun then { l with rx := .hunt true false }
  else if fresh then { l with rx := .hunt true false }
  else linkError { l with rx := .hunt true false }

/-- A whole frame has been taken: length, tag, kind and body in `content`, and the check (R200, R201). -/
def frameTaken (content : List Byte) (check : Nat) (s : State) : State :=
  if check = crc16 (u16 content.length ++ content) then
    match content with
    | tag :: kind :: body =>
      acceptFrame ⟨tag, readRequest kind body⟩ (s.modLink fun l => { l with rx := .hunt false false })
    | _ => s.modLink fun l => { l with rx := .hunt false false }
  else s.modLink fun l => linkError { l with rx := .hunt false true }

/-- The receiver takes a byte (R201). -/
def takeByte (b : Byte) (s : State) : State :=
  match s.link.rx with
  | .hunt inRun fresh => s.modLink (huntByte inRun fresh b)
  | .length none => s.modLink fun l => { l with rx := .length (some b) }
  | .length (some a) =>
    let n := fromBe [a, b]
    if minLength ≤ n ∧ n ≤ maxLength then s.modLink fun l => { l with rx := .content n [] }
    else s.modLink fun l => linkError { l with rx := .hunt false true }
  | .content n got =>
    if got.length + 1 < n then s.modLink fun l => { l with rx := .content n (got ++ [b]) }
    else s.modLink fun l => { l with rx := .check (got ++ [b]) none }
  | .check got none => s.modLink fun l => { l with rx := .check got (some b) }
  | .check got (some a) => frameTaken got (fromBe [a, b]) s

/-- One byte is clocked in while one is clocked out: the outbound byte first (R198; log entry 13). -/
def exchangeByte (s : State) (b : Byte) : State := if s.link.ready then takeByte b (clockOut s) else s

/-- Bytes of the inbound stream are clocked in (R198, R201). -/
def exchange (bytes : List Byte) (s : State) : State := bytes.foldl exchangeByte s

/-! ### Start-up (R211) -/

/-- The link becomes ready and queues the READY notice (R209, R211). -/
def becomeReady (s : State) : State :=
  if s.link.ready then s else makeNotice 255 identity (s.modLink fun l => { l with ready := true })

/-- The state right after a hard reset: every block at its value, the carrier inputs as they are driven, and the
commands still waiting (R211; log entry 3). -/
def afterHardReset (s : State) : State :=
  { State.reset with
    paths := mapAll (fun l p => { p with carrier := (s.path l).carrier }) State.reset.paths
    pending := s.pending }

end Sys2Proof.Machine
end

