-- ==== Sys2Proof/Machine/ClipCommands.lean ====
section
/-! DEFINITION. The commands of the clip log and the mark lines (R175 to R197). -/

namespace Sys2Proof.Machine

/-- An accepted press acts as MARK_IN, or with a clip OPEN as MARK_OUT with now (R186). -/
def actOnPress (m : Fin 2) (p : Fin 4) (s : State) : State :=
  match openClipOf p s with
  | some c => settle (markOut p c none s)
  | none =>
    match markInRefusal p s with
    | some _ => s.modLine m fun k => { k with refused := incSat16 k.refused }
    | none =>
      markIn p (diff32 s.tb.picture (s.line m).preRoll) (s.line m).yieldable (if m = 0 then .m0 else .m1) s

/-- Whether an edge on a bound line is accepted: more than 200 pacing ticks after the last accepted one (R186). -/
def pressAccepted (k : MarkLine) (pacing : Nat) : Bool :=
  match k.lastPress with
  | none => true
  | some at' => decide (200 < diff32 pacing at')

/-- A falling edge on a mark line (R186). -/
def takePress (m : Fin 2) (s : State) : State :=
  match (s.line m).binding with
  | none => s.modLine m fun k => { k with refused := incSat16 k.refused }
  | some program =>
    if pressAccepted (s.line m) s.tb.pacing then
      actOnPress m (idx4 program)
        (s.modLine m fun k => { k with lastPress := some s.tb.pacing, presses := incSat16 k.presses })
    else s.modLine m fun k => { k with bounces := incSat16 k.bounces }

/-- MARK_IN (R177). -/
def execMarkIn (tag : Byte) (program : Nat) (selector : Nat) (value : Nat) (yieldable : Nat) (s : State) :
    Host.Outcome State Fault Refusal :=
  .next (submit tag (.markIn program selector value yieldable) s)

/-- MARK_OUT (R180). -/
def execMarkOut (tag : Byte) (program : Nat) (selector : Nat) (value : Nat) (s : State) :
    Host.Outcome State Fault Refusal :=
  .next (submit tag (.markOut program selector value) s)

/-- SET_MARK_LINE (R185). -/
def execSetMarkLine (tag : Byte) (line : Nat) (binding : Option Nat) (preRoll : Nat) (yieldable : Nat) (s : State) :
    Host.Outcome State Fault Refusal :=
  .next (submit tag (.setMarkLine line binding preRoll yieldable) s)

/-- SET_LABEL (R187). -/
def execSetLabel (tag : Byte) (clip : Nat) (text : List Byte) (tags : List Byte) (rating : Nat) (yieldable : Nat) (s : State) :
    Host.Outcome State Fault Refusal :=
  .next (submit tag (.setLabel clip text tags rating yieldable) s)

/-- SHIP (R190). -/
def execShip (tag : Byte) (clip : Nat) (s : State) : Host.Outcome State Fault Refusal :=
  .next (submit tag (.ship clip) s)

/-- CANCEL_SHIP (R192). -/
def execCancelShip (tag : Byte) (clip : Nat) (s : State) : Host.Outcome State Fault Refusal :=
  .next (submit tag (.cancelShip clip) s)

/-- RELEASE (R193). -/
def execRelease (tag : Byte) (clip : Nat) (s : State) : Host.Outcome State Fault Refusal :=
  .next (submit tag (.release clip) s)

/-- READ_CLIP (R195). -/
def execReadClip (tag : Byte) (clip : Nat) (s : State) : Host.Outcome State Fault Refusal :=
  .next (submit tag (.readClip clip) s)

/-- LIST_CLIPS (R196). -/
def execListClips (tag : Byte) (s : State) : Host.Outcome State Fault Refusal :=
  .next (submit tag .listClips s)

/-- CLIP_START_SHIPPING (R189): what the event that fills the ship queue or ends a shipping also takes within itself (log entry 6). -/
def execClipStartShipping (s : State) : Host.Outcome State Fault Refusal :=
  .next (if shipCanStart s then settle (startShip s) else s)

/-- SHIPPING_COMPLETE (R162, R189): what the event that removes the last CLIP entry also takes within itself (log entry 6). -/
def execShippingComplete (s : State) : Host.Outcome State Fault Refusal :=
  .next (if shipDone s then settle (completeShip s) else s)

/-- PERIOD_END (R182): the picture tick's part for one program's CLOSING clip (log entry 6). -/
def execPeriodEnd (program : Fin 4) (s : State) : Host.Outcome State Fault Refusal :=
  .next (settle (periodEnd program s))

/-- MARK_LINE_PRESS (R186): a falling edge on a mark line. -/
def execMarkLinePress (line : Fin 2) (s : State) : Host.Outcome State Fault Refusal :=
  .next (takePress line s)

end Sys2Proof.Machine
end

