-- ==== Sys2Proof/Machine/CodingCommands.lean ====
section
/-! DEFINITION. The commands of the tile coders and the code table store (R46 to R59). -/

namespace Sys2Proof.Machine

/-- LOAD_TABLE (R54). -/
def execLoadTable (tag : Byte) (table : Nat) (entries : List CodeEntry) (s : State) :
    Host.Outcome State Fault Refusal :=
  .next (submit tag (.loadTable table entries) s)

/-- SELECT_TABLE (R57). -/
def execSelectTable (tag : Byte) (program : Nat) (table : Nat) (s : State) : Host.Outcome State Fault Refusal :=
  .next (submit tag (.selectTable program table) s)

/-- READ_TABLE (R58). -/
def execReadTable (tag : Byte) (table : Nat) (s : State) : Host.Outcome State Fault Refusal :=
  .next (submit tag (.readTable table) s)

/-- SLICE_CODED (R47, R49): the slice that is coding completes. -/
def execSliceCoded (program : Fin 4) (s : State) : Host.Outcome State Fault Refusal :=
  .next (endEvent s (sliceCoded program s))

/-- TABLE_CHECK_END (R55, R56). -/
def execTableCheckEnd (table : Fin 2) (s : State) : Host.Outcome State Fault Refusal :=
  .next (endTableCheck table s)

end Sys2Proof.Machine
end

