-- ==== Sys2Proof/Machine/IntakeCommands.lean ====
section
/-! DEFINITION. The commands of picture intake (R22 to R36). -/

namespace Sys2Proof.Machine

/-- Whether the picture tick that ends the current period would bring the port's loss expiry (R24). -/
def inputLossDue (q : PicturePort) : Bool := q.st != .noSignal && !q.startSeen && decide (1 ≤ q.quiet)

/-- SET_SLATE (R34). -/
def execSetSlate (tag : Byte) (program : Nat) (y : Nat) (cb : Nat) (cr : Nat) (hold : Nat) (s : State) :
    Host.Outcome State Fault Refusal :=
  .next (submit tag (.setSlate program y cb cr hold) s)

/-- READ_PICTURE_PORT (R35). -/
def execReadPicturePort (tag : Byte) (port : Nat) (s : State) : Host.Outcome State Fault Refusal :=
  .next (submit tag (.readPicturePort port) s)

/-- START_OF_PICTURE_MARKER (R23 to R29). -/
def execStartOfPictureMarker (port : Fin 4) (s : State) : Host.Outcome State Fault Refusal :=
  .next (endEvent s (startOfPicture port s))

/-- PORT_LOSS_EXPIRY (R24): the picture tick's part for one port, taken ahead of the rest of the tick (log entry 6). -/
def execPortLossExpiry (port : Fin 4) (s : State) : Host.Outcome State Fault Refusal :=
  .next (if inputLossDue (s.port port) then loseInput port s else s)

/-- LINE_TAKEN (R22, R28): one line of the open picture. -/
def execLineTaken (port : Fin 4) (y cb cr : List Sample10) (s : State) : Host.Outcome State Fault Refusal :=
  .next (endEvent s (lineTaken port y cb cr s))

/-- CLOSE_LIMIT (R29): the picture tick's part for one program, taken ahead of the rest of the tick (log entry 6). -/
def execCloseLimit (program : Fin 4) (s : State) : Host.Outcome State Fault Refusal :=
  .next (endEvent s (closeLimit program s.tb.picture s))

end Sys2Proof.Machine
end

