-- ==== Sys2Proof/Machine/LinkCommands.lean ====
section
/-! DEFINITION. The commands of the control link (R198 to R211). -/

namespace Sys2Proof.Machine

/-- HARD_RESET (R211): every block takes its hard-reset state while the link is not ready. -/
def execHardReset (s : State) : Host.Outcome State Fault Refusal :=
  .next (afterHardReset s)

/-- LINK_READY (R211): the link becomes ready and queues the READY notice. -/
def execLinkReady (s : State) : Host.Outcome State Fault Refusal :=
  .next (becomeReady s)

/-- INBOUND_FRAME (R198, R201, R202): the host clocks bytes in, and as many out. -/
def execInboundFrame (t : Nat) (bytes : List Byte) (s : State) : Host.Outcome State Fault Refusal :=
  .next (exchange bytes (arrive t s))

/-- UNKNOWN_KIND (R203): a request whose kind names no request. -/
def execUnknownKind (tag kind : Byte) (s : State) : Host.Outcome State Fault Refusal :=
  .next (submit tag (.unknownKind kind) s)

/-- OUTBOUND_FRAME_SENT (R205): the last byte of a reply or notice is clocked out. -/
def execOutboundFrameSent (t : Nat) (s : State) : Host.Outcome State Fault Refusal :=
  .next (outboundFrameSent (arrive t s))

/-- STATUS (R208). -/
def execStatus (tag : Byte) (mask : Nat) (s : State) : Host.Outcome State Fault Refusal :=
  .next (submit tag (.status mask) s)

/-- SUBSCRIBE (R207). -/
def execSubscribe (tag : Byte) (mask : Nat) (s : State) : Host.Outcome State Fault Refusal :=
  .next (submit tag (.subscribe mask) s)

/-- IDENTIFY (R209). -/
def execIdentify (tag : Byte) (s : State) : Host.Outcome State Fault Refusal :=
  .next (submit tag .identify s)

/-- RESTART (R210). -/
def execRestart (tag : Byte) (s : State) : Host.Outcome State Fault Refusal :=
  .next (submit tag .restart s)

end Sys2Proof.Machine
end

