-- ==== Sys2Proof/Machine/ProgramCommands.lean ====
section
/-! DEFINITION. The commands of the program controller and the budget allocator (R10 to R21, R79). -/

namespace Sys2Proof.Machine

/-- CONFIGURE_PROGRAM (R10). -/
def execConfigureProgram (tag : Byte) (program : Nat) (record : ProgramRecord) (s : State) :
    Host.Outcome State Fault Refusal :=
  .next (submit tag (.configureProgram program record) s)

/-- SET_RATE_LIMITS (R11). -/
def execSetRateLimits (tag : Byte) (program : Nat) (minRate : Nat) (maxRate : Nat) (weight : Nat) (s : State) :
    Host.Outcome State Fault Refusal :=
  .next (submit tag (.setRateLimits program minRate maxRate weight) s)

/-- START (R13). -/
def execStart (tag : Byte) (mask : Nat) (s : State) : Host.Outcome State Fault Refusal :=
  .next (submit tag (.start mask) s)

/-- STOP (R15). -/
def execStop (tag : Byte) (program : Nat) (s : State) : Host.Outcome State Fault Refusal :=
  .next (submit tag (.stop program) s)

/-- ABORT (R17). -/
def execAbort (tag : Byte) (program : Nat) (s : State) : Host.Outcome State Fault Refusal :=
  .next (submit tag (.abort program) s)

/-- PROGRAM_STATUS (R19). -/
def execProgramStatus (tag : Byte) (program : Nat) (s : State) : Host.Outcome State Fault Refusal :=
  .next (submit tag (.programStatus program) s)

/-- READ_BUDGET (R79). -/
def execReadBudget (tag : Byte) (s : State) : Host.Outcome State Fault Refusal :=
  .next (submit tag .readBudget s)

/-- END_OF_WRITING (R16, R119): what the event that writes the last unit also takes within itself (log entry 6). -/
def execEndOfWriting (program : Fin 4) (s : State) : Host.Outcome State Fault Refusal :=
  .next (settle (endWriting program s))

/-- DRAIN_COMPLETE (R16, R18): what the event that moves the cursor to the end also takes within itself (log entry 6). -/
def execDrainComplete (program : Fin 4) (s : State) : Host.Outcome State Fault Refusal :=
  .next (settle (completeDrain program s))

end Sys2Proof.Machine
end

