-- ==== Sys2Proof/Machine/SchedulerCommands.lean ====
section
/-! DEFINITION. The commands of the scheduler and the resend window (R149 to R174). -/

namespace Sys2Proof.Machine

/-- SET_DELIVERY (R171). -/
def execSetDelivery (tag : Byte) (deadline : Nat) (guard : Nat) (s : State) : Host.Outcome State Fault Refusal :=
  .next (submit tag (.setDelivery deadline guard) s)

/-- READ_WINDOW (R172). -/
def execReadWindow (tag : Byte) (s : State) : Host.Outcome State Fault Refusal :=
  .next (submit tag .readWindow s)

/-- ENTRY_AGE_EXPIRY (R169): the expiry of one entry whose age has reached the deadline that stood at the last pacing
tick, so that a lowered deadline acts at the next tick and not before (R171; log entry 6). -/
def execEntryAgeExpiry (send : Nat) (s : State) : Host.Outcome State Fault Refusal :=
  .next (freeZero (expireEntries (fun e => e.send == send) s))

end Sys2Proof.Machine
end

