-- ==== Sys2Proof/Machine/SoundCommands.lean ====
section
/-! DEFINITION. The commands of sound intake and mixing (R81 to R104). -/

namespace Sys2Proof.Machine

/-- CONFIGURE_SLOT_PORT (R86). -/
def execConfigureSlotPort (tag : Byte) (port : Nat) (count : Nat) (s : State) : Host.Outcome State Fault Refusal :=
  .next (submit tag (.configureSlotPort port count) s)

/-- ENABLE_SLOT_PORT (R86). -/
def execEnableSlotPort (tag : Byte) (port : Nat) (s : State) : Host.Outcome State Fault Refusal :=
  .next (submit tag (.enableSlotPort port) s)

/-- DISABLE_SLOT_PORT (R86). -/
def execDisableSlotPort (tag : Byte) (port : Nat) (s : State) : Host.Outcome State Fault Refusal :=
  .next (submit tag (.disableSlotPort port) s)

/-- READ_SLOT_PORT (R87). -/
def execReadSlotPort (tag : Byte) (port : Nat) (s : State) : Host.Outcome State Fault Refusal :=
  .next (submit tag (.readSlotPort port) s)

/-- BIND_INPUT (R89). -/
def execBindInput (tag : Byte) (input : Nat) (binding : Option (Nat × Nat)) (s : State) :
    Host.Outcome State Fault Refusal :=
  .next (submit tag (.bindInput input binding) s)

/-- SET_GAIN (R90). -/
def execSetGain (tag : Byte) (input : Nat) (bus : Nat) (gain : Nat) (ramp : Nat) (s : State) :
    Host.Outcome State Fault Refusal :=
  .next (submit tag (.setGain input bus gain ramp) s)

/-- SET_BUS (R96). -/
def execSetBus (tag : Byte) (bus : Nat) (delay : Nat) (seed : Nat) (s : State) : Host.Outcome State Fault Refusal :=
  .next (submit tag (.setBus bus delay seed) s)

/-- SET_MONITOR (R101). -/
def execSetMonitor (tag : Byte) (left : Nat) (right : Nat) (s : State) : Host.Outcome State Fault Refusal :=
  .next (submit tag (.setMonitor left right) s)

/-- READ_MIXER (R102). -/
def execReadMixer (tag : Byte) (bus : Nat) (clear : Nat) (s : State) : Host.Outcome State Fault Refusal :=
  .next (submit tag (.readMixer bus clear) s)

/-- SLOT (R81, R83): one slot of a slot port. -/
def execSlot (port : Fin 4) (marker : Bool) (sample : Sample24) (s : State) : Host.Outcome State Fault Refusal :=
  .next (takeSlot port marker sample s)

/-- SLOT_SILENCE_EXPIRY (R81): 1 ms without a slot. -/
def execSlotSilenceExpiry (port : Fin 4) (s : State) : Host.Outcome State Fault Refusal :=
  .next (s.modSlot port silentSlot)

/-- SAMPLE_TICK (R88). -/
def execSampleTick (s : State) : Host.Outcome State Fault Refusal :=
  .next (sampleTick s)

end Sys2Proof.Machine
end

