-- ==== Sys2Proof/Machine/StationCommands.lean ====
section
/-! DEFINITION. The commands of the station timebase (R1 to R9). -/

namespace Sys2Proof.Machine

/-- SET_STATION (R1). -/
def execSetStation (t : Nat) (tag : Byte) (rate : Nat) (drop : Nat) (s : State) : Host.Outcome State Fault Refusal :=
  .next (submit tag (.setStation rate drop) (arrive t s))

/-- SET_TIMECODE (R6). -/
def execSetTimecode (tag : Byte) (label : Timecode) (s : State) : Host.Outcome State Fault Refusal :=
  .next (submit tag (.setTimecode label) s)

/-- READ_TIMEBASE (R8). -/
def execReadTimebase (tag : Byte) (s : State) : Host.Outcome State Fault Refusal :=
  .next (submit tag .readTimebase s)

/-- REFERENCE_PULSE (R2): a pulse taken at time `t`. -/
def execReferencePulse (t : Nat) (s : State) : Host.Outcome State Fault Refusal :=
  .next (takePulse (arrive t s))

/-- DUE_TICK (R3): the due tick's time arrives. -/
def execDueTick (s : State) : Host.Outcome State Fault Refusal :=
  .next (takeDueTick s)

/-- REFERENCE_LOSS_EXPIRY (R3): two nominal periods have passed in LOCKED without a tick. -/
def execReferenceLossExpiry (s : State) : Host.Outcome State Fault Refusal :=
  .next (takeLossExpiry s)

/-- PACING_TICK (R7). -/
def execPacingTick (s : State) : Host.Outcome State Fault Refusal :=
  .next (pacingTick s)

/-- ALLOCATION_TICK (R7, R61): the allocation tick that the divider has made is taken. -/
def execAllocationTick (s : State) : Host.Outcome State Fault Refusal :=
  .next (takeAllocationTick s)

end Sys2Proof.Machine
end

