-- ==== Sys2Proof/Machine/StoreCommands.lean ====
section
/-! DEFINITION. The commands of the segment store (R105 to R125). -/

namespace Sys2Proof.Machine

/-- SET_RETENTION (R121). -/
def execSetRetention (tag : Byte) (program : Nat) (retention : Nat) (s : State) : Host.Outcome State Fault Refusal :=
  .next (submit tag (.setRetention program retention) s)

/-- SET_RESERVE (R122). -/
def execSetReserve (tag : Byte) (reserve : Nat) (s : State) : Host.Outcome State Fault Refusal :=
  .next (submit tag (.setReserve reserve) s)

/-- READ_STORE (R123). -/
def execReadStore (tag : Byte) (s : State) : Host.Outcome State Fault Refusal :=
  .next (submit tag .readStore s)

/-- READ_SEGMENT (R124). -/
def execReadSegment (tag : Byte) (segment : Nat) (position : Nat) (s : State) : Host.Outcome State Fault Refusal :=
  .next (submit tag (.readSegment segment position) s)

/-- READ_CHAIN (R124). -/
def execReadChain (tag : Byte) (program : Nat) (position : Nat) (s : State) : Host.Outcome State Fault Refusal :=
  .next (submit tag (.readChain program position) s)

/-- RETENTION_RELEASE (R114): the picture tick's release at the current picture, by the retentions that the last picture
tick found, so that a SET_RETENTION is in force from the next tick on (log entry 6). -/
def execRetentionRelease (s : State) : Host.Outcome State Fault Refusal :=
  .next (retentionTick s)

end Sys2Proof.Machine
end

