-- ==== Sys2Proof/Machine/UplinkCommands.lean ====
section
/-! DEFINITION. The commands of the uplink paths and the report receiver (R126 to R148). -/

namespace Sys2Proof.Machine

/-- The last byte of a frame leaves the port, which becomes idle; its path asks (R126, R157). -/
def frameSent (l : Fin 6) (s : State) : State :=
  if (s.path l).port.isNone then s
  else settle (letAskPath l (s.modPath l fun p => { p with port := none }))

/-- CONFIGURE_PATH (R128). -/
def execConfigurePath (tag : Byte) (path : Nat) (ceiling : Nat) (initial : Nat) (burst : Nat) (repairShare : Nat) (probeRate : Nat) (s : State) :
    Host.Outcome State Fault Refusal :=
  .next (submit tag (.configurePath path ceiling initial burst repairShare probeRate) s)

/-- ENABLE_PATH (R130). -/
def execEnablePath (tag : Byte) (path : Nat) (s : State) : Host.Outcome State Fault Refusal :=
  .next (submit tag (.enablePath path) s)

/-- DISABLE_PATH (R130). -/
def execDisablePath (tag : Byte) (path : Nat) (s : State) : Host.Outcome State Fault Refusal :=
  .next (submit tag (.disablePath path) s)

/-- SET_UPLINK (R145). -/
def execSetUplink (tag : Byte) (headroom : Nat) (labelReserve : Nat) (clipFloor : Nat) (silence : Nat) (threshold : Nat) (forget : Nat) (s : State) :
    Host.Outcome State Fault Refusal :=
  .next (submit tag (.setUplink headroom labelReserve clipFloor silence threshold forget) s)

/-- READ_PATH (R146). -/
def execReadPath (tag : Byte) (path : Nat) (s : State) : Host.Outcome State Fault Refusal :=
  .next (submit tag (.readPath path) s)

/-- READ_UPLINK (R147). -/
def execReadUplink (tag : Byte) (s : State) : Host.Outcome State Fault Refusal :=
  .next (submit tag .readUplink s)

/-- CARRIER_GAINED (R129). -/
def execCarrierGained (path : Fin 6) (s : State) : Host.Outcome State Fault Refusal :=
  .next (carrierGained path s)

/-- CARRIER_LOST (R129, R131). -/
def execCarrierLost (path : Fin 6) (s : State) : Host.Outcome State Fault Refusal :=
  .next (settle (carrierLost path s))

/-- FRAME_SENT (R126, R157): the port becomes idle and the path asks. -/
def execFrameSent (path : Fin 6) (s : State) : Host.Outcome State Fault Refusal :=
  .next (frameSent path s)

/-- SILENCE_EXPIRY (R144): the expiry of a path whose timer has reached the timeout (log entry 6). -/
def execSilenceExpiry (path : Fin 6) (s : State) : Host.Outcome State Fault Refusal :=
  .next (settle (silenceDue path s))

/-- REPORT (R126, R138): a frame taken by a path port, from its destination address on, without its frame check. -/
def execReport (path : Fin 6) (frame : List Byte) (s : State) : Host.Outcome State Fault Refusal :=
  .next (takeFrame path frame s)

end Sys2Proof.Machine
end

