-- ==== Sys2Proof/Machine/Dispatch.lean ====
section
/-! DEFINITION. The meaning of every command: one arm for each constructor of `Instr`. -/

namespace Sys2Proof.Machine

/-- The effect of a command on everything but the queue. -/
def exec (i : Instr) (s : State) : Host.Outcome State Fault Refusal :=
  match i with
  | .hardReset => Sys2Proof.Machine.execHardReset s
  | .linkReady => Sys2Proof.Machine.execLinkReady s
  | .inboundFrame t bytes => Sys2Proof.Machine.execInboundFrame t bytes s
  | .unknownKind tag kind => Sys2Proof.Machine.execUnknownKind tag kind s
  | .outboundFrameSent t => Sys2Proof.Machine.execOutboundFrameSent t s
  | .setStation t tag rate drop => Sys2Proof.Machine.execSetStation t tag rate drop s
  | .setTimecode tag label => Sys2Proof.Machine.execSetTimecode tag label s
  | .readTimebase tag => Sys2Proof.Machine.execReadTimebase tag s
  | .configureProgram tag program record => Sys2Proof.Machine.execConfigureProgram tag program record s
  | .setRateLimits tag program minRate maxRate weight => Sys2Proof.Machine.execSetRateLimits tag program minRate maxRate weight s
  | .start tag mask => Sys2Proof.Machine.execStart tag mask s
  | .stop tag program => Sys2Proof.Machine.execStop tag program s
  | .abort tag program => Sys2Proof.Machine.execAbort tag program s
  | .programStatus tag program => Sys2Proof.Machine.execProgramStatus tag program s
  | .setSlate tag program y cb cr hold => Sys2Proof.Machine.execSetSlate tag program y cb cr hold s
  | .readPicturePort tag port => Sys2Proof.Machine.execReadPicturePort tag port s
  | .loadTable tag table entries => Sys2Proof.Machine.execLoadTable tag table entries s
  | .selectTable tag program table => Sys2Proof.Machine.execSelectTable tag program table s
  | .readTable tag table => Sys2Proof.Machine.execReadTable tag table s
  | .readBudget tag => Sys2Proof.Machine.execReadBudget tag s
  | .configureSlotPort tag port count => Sys2Proof.Machine.execConfigureSlotPort tag port count s
  | .enableSlotPort tag port => Sys2Proof.Machine.execEnableSlotPort tag port s
  | .disableSlotPort tag port => Sys2Proof.Machine.execDisableSlotPort tag port s
  | .readSlotPort tag port => Sys2Proof.Machine.execReadSlotPort tag port s
  | .bindInput tag input binding => Sys2Proof.Machine.execBindInput tag input binding s
  | .setGain tag input bus gain ramp => Sys2Proof.Machine.execSetGain tag input bus gain ramp s
  | .setBus tag bus delay seed => Sys2Proof.Machine.execSetBus tag bus delay seed s
  | .setMonitor tag left right => Sys2Proof.Machine.execSetMonitor tag left right s
  | .readMixer tag bus clear => Sys2Proof.Machine.execReadMixer tag bus clear s
  | .setRetention tag program retention => Sys2Proof.Machine.execSetRetention tag program retention s
  | .setReserve tag reserve => Sys2Proof.Machine.execSetReserve tag reserve s
  | .readStore tag => Sys2Proof.Machine.execReadStore tag s
  | .readSegment tag segment position => Sys2Proof.Machine.execReadSegment tag segment position s
  | .readChain tag program position => Sys2Proof.Machine.execReadChain tag program position s
  | .configurePath tag path ceiling initial burst repairShare probeRate => Sys2Proof.Machine.execConfigurePath tag path ceiling initial burst repairShare probeRate s
  | .enablePath tag path => Sys2Proof.Machine.execEnablePath tag path s
  | .disablePath tag path => Sys2Proof.Machine.execDisablePath tag path s
  | .setUplink tag headroom labelReserve clipFloor silence threshold forget => Sys2Proof.Machine.execSetUplink tag headroom labelReserve clipFloor silence threshold forget s
  | .readPath tag path => Sys2Proof.Machine.execReadPath tag path s
  | .readUplink tag => Sys2Proof.Machine.execReadUplink tag s
  | .setDelivery tag deadline guard => Sys2Proof.Machine.execSetDelivery tag deadline guard s
  | .readWindow tag => Sys2Proof.Machine.execReadWindow tag s
  | .markIn tag program selector value yieldable => Sys2Proof.Machine.execMarkIn tag program selector value yieldable s
  | .markOut tag program selector value => Sys2Proof.Machine.execMarkOut tag program selector value s
  | .setMarkLine tag line binding preRoll yieldable => Sys2Proof.Machine.execSetMarkLine tag line binding preRoll yieldable s
  | .setLabel tag clip text tags rating yieldable => Sys2Proof.Machine.execSetLabel tag clip text tags rating yieldable s
  | .ship tag clip => Sys2Proof.Machine.execShip tag clip s
  | .cancelShip tag clip => Sys2Proof.Machine.execCancelShip tag clip s
  | .release tag clip => Sys2Proof.Machine.execRelease tag clip s
  | .readClip tag clip => Sys2Proof.Machine.execReadClip tag clip s
  | .listClips tag => Sys2Proof.Machine.execListClips tag s
  | .status tag mask => Sys2Proof.Machine.execStatus tag mask s
  | .subscribe tag mask => Sys2Proof.Machine.execSubscribe tag mask s
  | .identify tag => Sys2Proof.Machine.execIdentify tag s
  | .restart tag => Sys2Proof.Machine.execRestart tag s
  | .referencePulse t => Sys2Proof.Machine.execReferencePulse t s
  | .dueTick => Sys2Proof.Machine.execDueTick s
  | .referenceLossExpiry => Sys2Proof.Machine.execReferenceLossExpiry s
  | .pacingTick => Sys2Proof.Machine.execPacingTick s
  | .allocationTick => Sys2Proof.Machine.execAllocationTick s
  | .startOfPictureMarker port => Sys2Proof.Machine.execStartOfPictureMarker port s
  | .portLossExpiry port => Sys2Proof.Machine.execPortLossExpiry port s
  | .lineTaken port y cb cr => Sys2Proof.Machine.execLineTaken port y cb cr s
  | .closeLimit program => Sys2Proof.Machine.execCloseLimit program s
  | .sliceCoded program => Sys2Proof.Machine.execSliceCoded program s
  | .tableCheckEnd table => Sys2Proof.Machine.execTableCheckEnd table s
  | .slot port marker sample => Sys2Proof.Machine.execSlot port marker sample s
  | .slotSilenceExpiry port => Sys2Proof.Machine.execSlotSilenceExpiry port s
  | .sampleTick => Sys2Proof.Machine.execSampleTick s
  | .retentionRelease => Sys2Proof.Machine.execRetentionRelease s
  | .endOfWriting program => Sys2Proof.Machine.execEndOfWriting program s
  | .drainComplete program => Sys2Proof.Machine.execDrainComplete program s
  | .carrierGained path => Sys2Proof.Machine.execCarrierGained path s
  | .carrierLost path => Sys2Proof.Machine.execCarrierLost path s
  | .frameSent path => Sys2Proof.Machine.execFrameSent path s
  | .silenceExpiry path => Sys2Proof.Machine.execSilenceExpiry path s
  | .report path frame => Sys2Proof.Machine.execReport path frame s
  | .entryAgeExpiry send => Sys2Proof.Machine.execEntryAgeExpiry send s
  | .clipStartShipping => Sys2Proof.Machine.execClipStartShipping s
  | .shippingComplete => Sys2Proof.Machine.execShippingComplete s
  | .periodEnd program => Sys2Proof.Machine.execPeriodEnd program s
  | .markLinePress line => Sys2Proof.Machine.execMarkLinePress line s

end Sys2Proof.Machine
end

