-- ==== Sys2Proof/Safety.lean ====
section
/-! DEFINITION. What a safe part is, in the terms the statements use: the bounds that the spec gives its queues, its
window, its credit and its store, the order of the timebase's times, and when the request processor can take a
request. -/

namespace Sys2Proof.Machine

/-! ### Requests and answers -/

/-- The link is ready, no request waits, and the reply queue has a free slot: a request that arrives is carried out
at once (R203, R205, R211). -/
def Free (s : State) : Prop :=
  s.link.ready = true ∧ s.link.requests = [] ∧ s.link.replies.length < 32

/-- `s` with one more request counted, as the processor does when it takes one from the queue (R203). -/
def counted (s : State) : State := { s with link := { s.link with accepted := (s.link.accepted + 1) % 2 ^ 32 } }

/-- `s` with the reply that an answer makes at its reply queue's tail (R203, R205). -/
def replied (tag kind : Byte) (a : Answer) (s : State) : State :=
  { s with
    link := { s.link with
      replies := s.link.replies ++ [.made ⟨tag, kind, a.status, a.detail, a.detail2, a.body⟩] } }

/-- `s` with a reply at its reply queue's tail, and the request that it answers counted (R203, R205, R208). -/
def answered (tag kind : Byte) (status : Status) (detail detail2 : Nat) (body : List Byte) (s : State) : State :=
  { s with
    link :=
      { s.link with
        replies := s.link.replies ++ [.made ⟨tag, kind, status, detail, detail2, body⟩]
        accepted := (s.link.accepted + 1) % 2 ^ 32 } }

/-- `s` with its control link as it stands in `t`. -/
def withLinkOf (t s : State) : State := { s with link := t.link }

/-- Bytes that a receiver between frames takes as one accepted frame do not meet bytes that the part is sending: no
frame is going out and none waits (R205). -/
def OutboundEmpty (l : Link) : Prop :=
  l.sending = none ∧ l.notices = [] ∧ ∀ r ∈ l.replies, r.isMade = false

/-- The request frame that a request command stands for: its tag, and its kind and operands (log entry 1). -/
def requestOf : Instr → Option (Byte × Request)
  | .unknownKind tag kind => some (tag, .unknownKind kind)
  | .setStation _ tag rate drop => some (tag, .setStation rate drop)
  | .setTimecode tag label => some (tag, .setTimecode label)
  | .readTimebase tag => some (tag, .readTimebase)
  | .configureProgram tag program record => some (tag, .configureProgram program record)
  | .setRateLimits tag program lo hi weight => some (tag, .setRateLimits program lo hi weight)
  | .start tag mask => some (tag, .start mask)
  | .stop tag program => some (tag, .stop program)
  | .abort tag program => some (tag, .abort program)
  | .programStatus tag program => some (tag, .programStatus program)
  | .setSlate tag program y cb cr hold => some (tag, .setSlate program y cb cr hold)
  | .readPicturePort tag port => some (tag, .readPicturePort port)
  | .loadTable tag table entries => some (tag, .loadTable table entries)
  | .selectTable tag program table => some (tag, .selectTable program table)
  | .readTable tag table => some (tag, .readTable table)
  | .readBudget tag => some (tag, .readBudget)
  | .configureSlotPort tag port count => some (tag, .configureSlotPort port count)
  | .enableSlotPort tag port => some (tag, .enableSlotPort port)
  | .disableSlotPort tag port => some (tag, .disableSlotPort port)
  | .readSlotPort tag port => some (tag, .readSlotPort port)
  | .bindInput tag input binding => some (tag, .bindInput input binding)
  | .setGain tag input bus gain ramp => some (tag, .setGain input bus gain ramp)
  | .setBus tag bus delay seed => some (tag, .setBus bus delay seed)
  | .setMonitor tag left right => some (tag, .setMonitor left right)
  | .readMixer tag bus clear => some (tag, .readMixer bus clear)
  | .setRetention tag program retention => some (tag, .setRetention program retention)
  | .setReserve tag reserve => some (tag, .setReserve reserve)
  | .readStore tag => some (tag, .readStore)
  | .readSegment tag segment position => some (tag, .readSegment segment position)
  | .readChain tag program position => some (tag, .readChain program position)
  | .configurePath tag path ceiling initial burst repairShare probeRate =>
    some (tag, .configurePath path ceiling initial burst repairShare probeRate)
  | .enablePath tag path => some (tag, .enablePath path)
  | .disablePath tag path => some (tag, .disablePath path)
  | .setUplink tag headroom labelReserve clipFloor silence threshold forget =>
    some (tag, .setUplink headroom labelReserve clipFloor silence threshold forget)
  | .readPath tag path => some (tag, .readPath path)
  | .readUplink tag => some (tag, .readUplink)
  | .setDelivery tag deadline guardMs => some (tag, .setDelivery deadline guardMs)
  | .readWindow tag => some (tag, .readWindow)
  | .markIn tag program selector value yieldable => some (tag, .markIn program selector value yieldable)
  | .markOut tag program selector value => some (tag, .markOut program selector value)
  | .setMarkLine tag line binding preRoll yieldable => some (tag, .setMarkLine line binding preRoll yieldable)
  | .setLabel tag clip text tags rating yieldable => some (tag, .setLabel clip text tags rating yieldable)
  | .ship tag clip => some (tag, .ship clip)
  | .cancelShip tag clip => some (tag, .cancelShip clip)
  | .release tag clip => some (tag, .release clip)
  | .readClip tag clip => some (tag, .readClip clip)
  | .listClips tag => some (tag, .listClips)
  | .status tag mask => some (tag, .status mask)
  | .subscribe tag mask => some (tag, .subscribe mask)
  | .identify tag => some (tag, .identify)
  | .restart tag => some (tag, .restart)
  | .hardReset => none
  | .linkReady => none
  | .inboundFrame .. => none
  | .outboundFrameSent _ => none
  | .referencePulse _ => none
  | .dueTick => none
  | .referenceLossExpiry => none
  | .pacingTick => none
  | .allocationTick => none
  | .startOfPictureMarker _ => none
  | .portLossExpiry _ => none
  | .lineTaken .. => none
  | .closeLimit _ => none
  | .sliceCoded _ => none
  | .tableCheckEnd _ => none
  | .slot .. => none
  | .slotSilenceExpiry _ => none
  | .sampleTick => none
  | .retentionRelease => none
  | .endOfWriting _ => none
  | .drainComplete _ => none
  | .carrierGained _ => none
  | .carrierLost _ => none
  | .frameSent _ => none
  | .silenceExpiry _ => none
  | .report .. => none
  | .entryAgeExpiry _ => none
  | .clipStartShipping => none
  | .shippingComplete => none
  | .periodEnd _ => none
  | .markLinePress _ => none

/-- Every field of a record lies in the range that the table of R10 gives it, and the orderings hold. -/
structure RecordInRange (r : ProgramRecord) : Prop where
  port : r.port ≤ 3
  width : 720 ≤ r.width ∧ r.width ≤ 1920 ∧ r.width % 8 = 0
  height : 480 ≤ r.height ∧ r.height ≤ 1080 ∧ r.height % 8 = 0
  table : r.table ≤ 1
  chromaOffset : -4 ≤ r.chromaOffset ∧ r.chromaOffset ≤ 4
  indices : r.qmin ≤ r.qstart ∧ r.qstart ≤ r.qmax ∧ r.qmax ≤ 47
  buffer : 5 ≤ r.buffer ∧ r.buffer ≤ 200
  ceiling : 2 ≤ r.ceiling ∧ r.ceiling ≤ 8
  rates : 500 ≤ r.minRate ∧ r.minRate ≤ r.maxRate ∧ r.maxRate ≤ 400000
  weight : 1 ≤ r.weight ∧ r.weight ≤ 15
  buses : r.buses.Nodup ∧ (∀ k ∈ r.buses, k ≤ 7) ∧ (r.buses.length = 0 ∨ r.buses.length = 2 ∨ r.buses.length = 4)
  soundWidth : r.soundWidth = 16 ∨ r.soundWidth = 24
  retention : r.retention ≤ 65535
  hold : r.hold ≤ 255
  slate : r.slateY ≤ 1023 ∧ r.slateCb ≤ 1023 ∧ r.slateCr ≤ 1023

/-! ### Invariants -/

/-- The times of the timebase are in order: the last tick has passed, a due tick stands one nominal period or more
after it, and the drop-frame flag stands with a rate that allows it alone (R1 to R3). -/
def TimebaseOrdered (s : State) : Prop :=
  s.tb.lastTick ≤ s.tb.now
    ∧ (∀ d, s.tb.due = some d → s.tb.lastTick + nominalPeriod (rateRow s.tb.rate) ≤ d)
    ∧ (s.tb.drop = true → s.tb.rate = 3 ∨ s.tb.rate = 6)
    ∧ s.tb.divider < 100

/-- The queues of the control link hold no more than R202 and R205 give them. -/
def LinkBounded (s : State) : Prop :=
  s.link.requests.length ≤ 16 ∧ s.link.replies.length ≤ 32 ∧ s.link.notices.length ≤ 32

/-- The resend window holds no more than R151 gives each class, and the abandoned list no more than R165. -/
def WindowBounded (s : State) : Prop :=
  (liveEntries s).length ≤ 6144 ∧ (reliableEntries s).length ≤ 2048 ∧ s.sched.abandoned.length ≤ 1024

/-- A path's figures keep to their bounds: its credit to its cap, its estimate to its ceiling, and a path that is not
in UP or DEGRADED has an estimate of 0 (R127, R131, R133). -/
def PathBounded (p : Path) : Prop :=
  p.credit ≤ creditCap p ∧ p.estimate ≤ p.ceiling ∧ 64 ≤ p.ceiling ∧ (carries p = false → p.estimate = 0)

/-- Every path keeps to its bounds. -/
def PathsBounded (s : State) : Prop := ∀ l : Fin 6, PathBounded (s.path l)

/-- Numbers of the segments of one chain. -/
def chainNumbers (c : Chain) : List Nat := c.segs.map Segment.number

/-- The numbers of all segments: those on the free list and those of the four chains. -/
def allNumbers (s : State) : List Nat :=
  s.store.freeList ++ (chainNumbers (s.chain 0) ++ chainNumbers (s.chain 1) ++ chainNumbers (s.chain 2)
    ++ chainNumbers (s.chain 3))

/-- Every one of the 4,096 segments stands on the free list or in one chain, and none stands twice (R105, R107,
R108). -/
def SegmentsConserved (s : State) : Prop := (allNumbers s).Perm (List.range 4096)

/-- The segment store's memory is in its canonical form (Machine/Memory.lean). -/
def MemoryCanonical (s : State) : Prop := Memory.wf s.mem = true

end Sys2Proof.Machine
end

