-- ==== Sys2Proof/Certificates/Slice0/Obligations.lean ====
section
/-! DEFINITION. What is to be proved of the model: the statements, in the order of the manual's chapters. A request
command is stated for a processor that is free (`Free`); `answered` says what its reply leaves. -/

open Sys2Proof Sys2Proof.Machine

/-! ### Steps, the queue of commands, and the bounds that every step keeps -/

/-- Log entry 1: a step takes the front command of the queue and runs it with the queue's rest; on an empty queue the
part idles. Every command answers a next state, whatever the state, and leaves the queue as it found it. -/
def Obligations.StepRunsFrontCommand : Prop :=
  (∀ (c : Instr) (rest : List Instr) (s : State), s.pending = c :: rest →
      step s = exec c { s with pending := rest }) ∧
    (∀ s : State, s.pending = [] → step s = .next s) ∧
    ∀ (c : Instr) (s : State), ∃ t, exec c s = .next t ∧ t.pending = s.pending

/-- The segment store's memory stays in its canonical form under every step. -/
def Obligations.MemoryStaysCanonical : Prop :=
  ∀ s t : State, MemoryCanonical s → step s = .next t → MemoryCanonical t

/-- R105, R107, R108: every step leaves each of the 4,096 segments on the free list or in one chain, and none twice. -/
def Obligations.SegmentsStayConserved : Prop :=
  ∀ s t : State, SegmentsConserved s → step s = .next t → SegmentsConserved t

/-- R1 to R3, R127, R131, R133, R151, R165, R202, R205: every step keeps the bounds of the part. The resend window holds
at most 6,144 live and 2,048 reliable entries and the abandoned list 1,024 numbers; each path's credit keeps to its cap
and its estimate to its ceiling; at most 16 requests, 32 replies and 32 notices wait; and the times of the timebase
stand in order. -/
def Obligations.BoundsAreKept : Prop :=
  ∀ s t : State, step s = .next t →
    (WindowBounded s → WindowBounded t) ∧ (PathsBounded s → PathsBounded t) ∧ (LinkBounded s → LinkBounded t) ∧
      (TimebaseOrdered s → TimebaseOrdered t)

/-- The state after hard reset meets every invariant. -/
def Obligations.ResetMeetsInvariants : Prop :=
  MemoryCanonical State.reset ∧ SegmentsConserved State.reset ∧ WindowBounded State.reset ∧
    PathsBounded State.reset ∧ LinkBounded State.reset ∧ TimebaseOrdered State.reset

/-- R12: no step takes a program from IDLE to RUNNING or DRAINING; it must be ARMED in a state between. -/
def Obligations.IdleProgramsAreArmedFirst : Prop :=
  ∀ (s t : State) (p : Fin 4), (s.prog p).st = .idle → step s = .next t →
    (t.prog p).st = .idle ∨ (t.prog p).st = .armed

/-! ### Station timebase (R1 to R9) -/

/-- R1's table: the nominal period in 1/375,000,000 s (the model's unit of time: log entry 2), the pictures per second
of the timecode, the cadence N and D and whether drop-frame is allowed, by rate code. N/D is 48,000 × den / num in
lowest terms. -/
def Obligations.RateTableHolds : Prop :=
  (List.finRange 8).map (fun r => (nominalPeriod (rateRow r), (rateRow r).pictures, (rateRow r).cadenceN,
      (rateRow r).cadenceD, (rateRow r).dropAllowed)) =
    [(15640625, 24, 2002, 1, false), (15625000, 24, 2000, 1, false), (15000000, 25, 1920, 1, false),
      (12512500, 30, 8008, 5, true), (12500000, 30, 1600, 1, false), (7500000, 50, 960, 1, false),
      (6256250, 60, 4004, 5, true), (6250000, 60, 800, 1, false)] ∧
    ∀ r : Fin 8, (rateRow r).cadenceN * (rateRow r).num = 48000 * (rateRow r).den * (rateRow r).cadenceD ∧
      Nat.Coprime (rateRow r).cadenceN (rateRow r).cadenceD

/-- R1: SET_STATION. Refused for a rate above 7 (field 1), for a drop-frame flag that is no flag or that the rate does
not allow (field 2: log entry 17), and with WRONG_STATE naming the lowest program that is not IDLE. Taken, it replaces
rate and flag, loads 00:00:00:00, and moves the due tick: in LOCKED there is none, in FREE_RUN it stands one new P
after the last tick, and where that time has passed the tick is made at once and takes the new load (log entry 15). A
tick finds the retention of every record (R114; log entry 6). The cadence accumulators of the programs stand (log entry
41). -/
def Obligations.SetStationSetsTheRate : Prop :=
  ∀ (time : Nat) (tag : Byte) (rate drop : Nat) (s : State), Free s →
    let now := max s.tb.now time
    let s0 : State := { s with tb := { s.tb with now := now } }
    let row := rateRow (Fin.ofNat 8 rate)
    let tb1 : Timebase :=
      { s0.tb with rate := Fin.ofNat 8 rate, drop := drop == 1, load := some ⟨0, 0, 0, 0⟩, due := none }
    (7 < rate → exec (.setStation time tag rate drop) s = .next (answered tag 1 .outOfRange 1 0 [] s0)) ∧
    (rate ≤ 7 → (1 < drop ∨ (drop = 1 ∧ row.dropAllowed = false)) →
      exec (.setStation time tag rate drop) s = .next (answered tag 1 .outOfRange 2 0 [] s0)) ∧
    (rate ≤ 7 → drop ≤ 1 → (drop = 1 → row.dropAllowed = true) →
      (∀ p : Fin 4, (s.prog p).st ≠ .idle → (∀ q : Fin 4, q < p → (s.prog q).st = .idle) →
        exec (.setStation time tag rate drop) s = .next (answered tag 1 .wrongState p.1 0 [] s0)) ∧
      ((∀ p : Fin 4, (s.prog p).st = .idle) →
        (s.tb.ref = .locked →
          exec (.setStation time tag rate drop) s = .next (answered tag 1 .done 0 0 [] { s0 with tb := tb1 })) ∧
        (s.tb.ref = .freeRun → now < s.tb.lastTick + nominalPeriod row →
          exec (.setStation time tag rate drop) s = .next (answered tag 1 .done 0 0 []
            { s0 with tb := { tb1 with due := some (s.tb.lastTick + nominalPeriod row) } })) ∧
        (s.tb.ref = .freeRun → s.tb.lastTick + nominalPeriod row ≤ now →
          ∃ t, exec (.setStation time tag rate drop) s = .next t ∧
            t.tb = { tb1 with
              lastTick := now, due := some (now + nominalPeriod row), picture := (s.tb.picture + 1) % 2 ^ 32,
              label := ⟨0, 0, 0, 0⟩, load := none, endedLabel := s.tb.label,
              retentions := Vec.tab fun p => (s.prog p).record.map fun r => r.retention })))

/-- R6: SET_TIMECODE. A label that the rate does not have, or that drop-frame skips, is refused, and the refusal names
field 1: that the label is one field is the model's reading (log entry 17). Otherwise the load is pending at once, in
the place of an earlier one, the picture number stands, and the next tick takes the label. -/
def Obligations.SetTimecodePlacesLoad : Prop :=
  ∀ (tag : Byte) (c : Timecode) (s : State), Free s → (s.tb.drop = true → s.tb.rate = 3 ∨ s.tb.rate = 6) →
    let allowed := c.hours ≤ 23 ∧ c.minutes ≤ 59 ∧ c.seconds ≤ 59 ∧ c.pictures < (rateRow s.tb.rate).pictures ∧
      ¬(s.tb.drop = true ∧ c.seconds = 0 ∧ c.minutes % 10 ≠ 0 ∧
        ((s.tb.rate = 3 ∧ c.pictures < 2) ∨ (s.tb.rate = 6 ∧ c.pictures < 4)))
    (allowed → exec (.setTimecode tag c) s = .next
      (answered tag 2 .done 0 0 [] { s with tb := { s.tb with load := some c } })) ∧
    (¬allowed → exec (.setTimecode tag c) s = .next (answered tag 2 .outOfRange 1 0 [] s)) ∧
    ∀ (time : Nat) (tb : Timebase), tb.load = some c →
      (timebaseTick time tb).label = c ∧ (timebaseTick time tb).load = none

/-- R2, R4, R5: REFERENCE_PULSE. At P/2 or more after the last tick the pulse makes a tick, cancels the due tick and
locks; before that it re-phases. REFERENCE_BACK is raised for a pulse taken in FREE_RUN alone. A tick finds the
retention of every record (R114; log entry 6). -/
def Obligations.ReferencePulseTicksOrRephases : Prop :=
  ∀ (time : Nat) (s : State),
    let now := max s.tb.now time
    let P := nominalPeriod (rateRow s.tb.rate)
    ∃ t, exec (.referencePulse time) s = .next t ∧
      (P ≤ 2 * (now - s.tb.lastTick) → t.tb =
        { s.tb with
          now := now, lastTick := now, due := none, ref := .locked, picture := (s.tb.picture + 1) % 2 ^ 32,
          endedLabel := s.tb.label, load := none,
          label := s.tb.load.getD (advanceLabel (rateRow s.tb.rate) s.tb.drop s.tb.label),
          retentions := Vec.tab fun p => (s.prog p).record.map fun r => r.retention }) ∧
      (2 * (now - s.tb.lastTick) < P →
        t = { s with
          tb := { s.tb with
            now := now, due := some (now + P), ref := .locked, rephaseCount := min (s.tb.rephaseCount + 1) 65535 }
          link := t.link }) ∧
      t.link.raises.get 1 = (if s.tb.ref = .freeRun then (s.link.raises.get 1 + 1) % 2 ^ 32
        else s.link.raises.get 1)

/-- R3, R4, R5: DUE_TICK makes the tick; in FREE_RUN the next due tick stands one P after it, in LOCKED none is left.
With no due tick nothing happens. The tick finds the retention of every record (R114; log entry 6). -/
def Obligations.DueTickMakesATick : Prop :=
  ∀ s : State,
    (∀ d, s.tb.due = some d →
      let time := max s.tb.now d
      ∃ t, exec .dueTick s = .next t ∧ t.tb =
        { s.tb with
          now := time, lastTick := time, picture := (s.tb.picture + 1) % 2 ^ 32, endedLabel := s.tb.label,
          load := none, label := s.tb.load.getD (advanceLabel (rateRow s.tb.rate) s.tb.drop s.tb.label),
          due := if s.tb.ref = .freeRun then some (time + nominalPeriod (rateRow s.tb.rate)) else none,
          retentions := Vec.tab fun p => (s.prog p).record.map fun r => r.retention }) ∧
    (s.tb.due = none → exec .dueTick s = .next s)

/-- R3: REFERENCE_LOSS_EXPIRY in LOCKED with no due tick, two periods after the last tick: FREE_RUN, REFERENCE_LOST, the
loss counted, a tick at once, and a free-run tick due one P later. The tick finds the retention of every record (R114;
log entry 6). -/
def Obligations.ReferenceLossTicksAndRunsFree : Prop :=
  ∀ s : State, s.tb.ref = .locked → s.tb.due = none →
    let P := nominalPeriod (rateRow s.tb.rate)
    let time := max s.tb.now (s.tb.lastTick + 2 * P)
    ∃ t, exec .referenceLossExpiry s = .next t ∧ t.tb =
      { s.tb with
        now := time, lastTick := time, due := some (time + P), ref := .freeRun,
        picture := (s.tb.picture + 1) % 2 ^ 32, endedLabel := s.tb.label, load := none,
        label := s.tb.load.getD (advanceLabel (rateRow s.tb.rate) s.tb.drop s.tb.label),
        lossCount := min (s.tb.lossCount + 1) 65535,
        retentions := Vec.tab fun p => (s.prog p).record.map fun r => r.retention } ∧
      t.link.latches.get 0 = true ∧ t.link.raises.get 0 = (s.link.raises.get 0 + 1) % 2 ^ 32

/-- R1, R2: no picture period between two ticks is shorter than half the nominal period in force when the later tick is
made, whatever command makes it; the hard reset makes no tick. The period in force is that of the rate that stands after
the command, except where the command lets the processor take several requests. A SET_STATION among them then makes its
tick a whole period of its own rate after the last one, and a later one may set another rate. Such a SET_STATION waits
in the request queue, or its frame ends in the bytes of an INBOUND_FRAME: its content and check stand in what the
receiver holds and those bytes. -/
def Obligations.NoPeriodShorterThanHalf : Prop :=
  ∀ (s t : State) (c : Instr), TimebaseOrdered s → c ≠ .hardReset → exec c s = .next t →
    t.tb.picture ≠ s.tb.picture →
      let since := t.tb.lastTick - s.tb.lastTick
      let held := match s.link.rx with
        | .hunt .. => []
        | .length _ => []
        | .content _ got => got
        | .check got none => got
        | .check got (some a) => got ++ [a]
      nominalPeriod (rateRow t.tb.rate) ≤ 2 * since ∨
        ∃ (rate : Fin 8) (drop : Nat) (tag : Byte), nominalPeriod (rateRow rate) ≤ since ∧
          ((⟨tag, .setStation rate.1 drop⟩ ∈ s.link.requests ∧
              ((requestOf c).isSome = true ∨ (∃ time, c = .outboundFrameSent time) ∨
                ∃ time bytes, c = .inboundFrame time bytes)) ∨
            ∃ time bytes, c = .inboundFrame time bytes ∧
              let content : List Byte := [tag, 1#8, BitVec.ofNat 8 rate.1, BitVec.ofNat 8 drop]
              content ++ u16 (crc16 (u16 4 ++ content)) <:+: held ++ bytes)

/-- R7, R133, R135, R144, R163: PACING_TICK, where no allocation tick is still to be taken. The pacing count and the
divider step, and the step back to 0 makes an allocation tick. A path in UP or DEGRADED whose silence timer does not
reach its timeout gains its estimate in credit, up to its cap, and one in PROBING its probe rate, where its port is busy
or it finds nothing to send; a path that is OFF or DOWN is unchanged. The clip bucket grows by the clip rate, up to 100
times that rate, where no silence expiry and no clip intervene. -/
def Obligations.PacingTickCountsAndRefills : Prop :=
  ∀ s : State, s.tb.allocDue = false → ∃ t, exec .pacingTick s = .next t ∧
    t.tb = { s.tb with
      pacing := (s.tb.pacing + 1) % 2 ^ 32
      divider := (s.tb.divider + 1) % 100
      allocDue := (s.tb.divider + 1) % 100 == 0 } ∧
    (∀ l : Fin 6,
      let p := s.path l
      let nothing := s.sched.window = [] ∧ s.sched.labelQueue = [] ∧ s.sched.clipCursor = none ∧
        s.clips.shipQueue = [] ∧ ∀ q, (s.live q).cursor = none ∧ (s.prog q).st ≠ .draining
      let probe := min (p.credit + p.probeRate) (p.probeRate * p.burst)
      (p.st = .off ∨ p.st = .down → t.path l = p) ∧
      (p.silence + 1 < s.uplink.silenceTimeout →
        (p.st = .up ∨ p.st = .degraded → p.port ≠ none ∨ nothing → t.path l =
          { p with
            credit := min (p.credit + p.estimate) (p.estimate * p.burst)
            bitsGranted := (p.bitsGranted + p.estimate) % 2 ^ 48
            silence := p.silence + 1 }) ∧
        (p.st = .probing → p.port ≠ none ∨ probe < 8416 → t.path l =
          { p with credit := probe, silence := p.silence + 1 }))) ∧
    ((∀ l, (s.path l).silence + 1 < s.uplink.silenceTimeout) → (∀ q, (s.prog q).st ≠ .draining) →
      s.sched.clipCursor = none → s.clips.shipQueue = [] → t.sched.bucket =
        min (s.sched.bucket + s.alloc.clipRate) (100 * s.alloc.clipRate))

/-! ### Programs (R10 to R21) -/

/-- R10, R34, R57, R121: the requests that write a program's record. CONFIGURE_PROGRAM replaces the whole record of an
IDLE program; the others replace their own fields of a record that stands. The first field out of range is refused by
its number (of a broken ordering the later field), then an unconfigured program, then what SELECT_TABLE asks of the
program and of the table: that the later field is named, and that CONFIGURE_PROGRAM's ranges come before the program's
state, is the model's reading (log entry 17). Nothing else of the part is touched. -/
def Obligations.RecordRequestsWriteOneRecord : Prop :=
  ∀ (tag : Byte) (program : Nat) (s : State), Free s →
    let p := Fin.ofNat 4 program
    let g := s.prog p
    let refuses := fun (c : Instr) (kind : Byte) (k : Status) (detail : Nat) =>
      (exec c s : Host.Outcome State Fault Refusal) = .next (answered tag kind k detail 0 [] s)
    let writes := fun (c : Instr) (kind : Byte) (r : ProgramRecord) =>
      (exec c s : Host.Outcome State Fault Refusal) = .next
        (answered tag kind .done 0 0 [] (s.modProg p fun g => { g with record := some r }))
    (∀ r : ProgramRecord,
      let c := Instr.configureProgram tag program r
      let field :=
        if 3 < program then 1 else if 3 < r.port then 2
        else if r.width < 720 ∨ 1920 < r.width ∨ r.width % 8 ≠ 0 then 3
        else if r.height < 480 ∨ 1080 < r.height ∨ r.height % 8 ≠ 0 then 4
        else if 1 < r.table then 5 else if r.chromaOffset < -4 ∨ 4 < r.chromaOffset then 6
        else if 47 < r.qmin then 7 else if 47 < r.qstart ∨ r.qstart < r.qmin then 8
        else if 47 < r.qmax ∨ r.qmax < r.qstart then 9 else if r.buffer < 5 ∨ 200 < r.buffer then 10
        else if r.ceiling < 2 ∨ 8 < r.ceiling then 11 else if r.minRate < 500 ∨ 400000 < r.minRate then 12
        else if r.maxRate < 500 ∨ 400000 < r.maxRate ∨ r.maxRate < r.minRate then 13
        else if r.weight < 1 ∨ 15 < r.weight then 14
        else if ¬(r.buses.Nodup ∧ (∀ k ∈ r.buses, k ≤ 7) ∧
            (r.buses.length = 0 ∨ r.buses.length = 2 ∨ r.buses.length = 4)) then 15
        else if r.soundWidth ≠ 16 ∧ r.soundWidth ≠ 24 then 16 else if 65535 < r.retention then 17
        else if 255 < r.hold then 18 else if 1023 < r.slateY then 19 else if 1023 < r.slateCb then 20
        else if 1023 < r.slateCr then 21 else 0
      (field = 0 ↔ program ≤ 3 ∧ RecordInRange r) ∧
      (field ≠ 0 → refuses c 4 .outOfRange field) ∧
      (field = 0 → g.st ≠ .idle → refuses c 4 .wrongState program) ∧
      (field = 0 → g.st = .idle → writes c 4 r)) ∧
    (∀ y cb cr hold,
      let c := Instr.setSlate tag program y cb cr hold
      let field := if 3 < program then 1 else if 1023 < y then 2 else if 1023 < cb then 3 else if 1023 < cr then 4
        else if 255 < hold then 5 else 0
      (field ≠ 0 → refuses c 10 .outOfRange field) ∧
      (field = 0 → g.record = none → refuses c 10 .notReady program) ∧
      ∀ r, field = 0 → g.record = some r →
        writes c 10 { r with slateY := y, slateCb := cb, slateCr := cr, hold := hold }) ∧
    (∀ retention,
      let c := Instr.setRetention tag program retention
      let field := if 3 < program then 1 else if 65535 < retention then 2 else 0
      (field ≠ 0 → refuses c 25 .outOfRange field) ∧
      (field = 0 → g.record = none → refuses c 25 .notReady program) ∧
      ∀ r, field = 0 → g.record = some r → writes c 25 { r with retention := retention }) ∧
    ∀ table,
      let c := Instr.selectTable tag program table
      let field := if 3 < program then 1 else if 1 < table then 2 else 0
      (field ≠ 0 → refuses c 13 .outOfRange field) ∧
      (field = 0 → g.record = none → refuses c 13 .notReady program) ∧
      ∀ r, field = 0 → g.record = some r →
        (g.st ≠ .idle → refuses c 13 .wrongState program) ∧
        (g.st = .idle → (s.table (Fin.ofNat 2 table)).st ≠ .ready → refuses c 13 .notReady program) ∧
        (g.st = .idle → (s.table (Fin.ofNat 2 table)).st = .ready → writes c 13 { r with table := table })

/-- R11: SET_RATE_LIMITS. The ranges and the ordering of R10 are checked first, then the configuration; a request that
is taken writes the three fields in any program state and makes one allocator run. The rest of the program, its state,
run number and stream offset among it, stands. -/
def Obligations.SetRateLimitsRunsTheAllocator : Prop :=
  ∀ (tag : Byte) (program lo hi weight : Nat) (s : State), Free s →
    let ok := program ≤ 3 ∧ 500 ≤ lo ∧ lo ≤ hi ∧ hi ≤ 400000 ∧ 1 ≤ weight ∧ weight ≤ 15
    let p := Fin.ofNat 4 program
    (¬ok → ∃ k, 1 ≤ k ∧ k ≤ 4 ∧
      exec (.setRateLimits tag program lo hi weight) s = .next (answered tag 5 .outOfRange k 0 [] s)) ∧
    (ok → (s.prog p).record = none →
      exec (.setRateLimits tag program lo hi weight) s = .next (answered tag 5 .notReady program 0 [] s)) ∧
    (ok → ∀ r, (s.prog p).record = some r → ∃ t,
      exec (.setRateLimits tag program lo hi weight) s = .next (answered tag 5 .done 0 0 [] t) ∧
      t.progs = Vec.put s.progs p
        { s.prog p with record := some { r with minRate := lo, maxRate := hi, weight := weight } } ∧
      t.alloc.cause = some .rateLimits ∧ t.alloc.runs = (s.alloc.runs + 1) % 2 ^ 32 ∧
      t.loops = s.loops ∧ t.coders = s.coders ∧ t.chains = s.chains ∧ t.mem = s.mem)

/-- R13: START. An empty mask, or one that names a program above 3, is refused; otherwise the lowest-numbered offender
among the named programs decides the refusal, and without one all named programs become ARMED together. -/
def Obligations.StartArmsTheGroup : Prop :=
  ∀ (tag : Byte) (mask : Nat) (s : State), Free s →
    let offence : Fin 4 → Option Status := fun p =>
      if (s.prog p).st ≠ .idle then some .wrongState
      else
        match (s.prog p).record with
        | none => some .notReady
        | some r => if (s.table (Fin.ofNat 2 r.table)).st = .ready then none else some .notReady
    ((mask = 0 ∨ 15 < mask) → exec (.start tag mask) s = .next (answered tag 6 .outOfRange 1 0 [] s)) ∧
    (1 ≤ mask → mask ≤ 15 →
      (∀ (p : Fin 4) (k : Status), mask.testBit p.1 = true → offence p = some k →
        (∀ q : Fin 4, q < p → mask.testBit q.1 = true → offence q = none) →
        exec (.start tag mask) s = .next (answered tag 6 k p.1 0 [] s)) ∧
      ((∀ p : Fin 4, mask.testBit p.1 = true → offence p = none) →
        exec (.start tag mask) s = .next (answered tag 6 .accepted 0 0 []
          { s with progs := Vec.tab fun p =>
            if mask.testBit p.1 then { s.prog p with st := .armed } else s.prog p })))

/-- R12, R14, R20, R73, R84, R92, R93, R96, R97, R153: what a picture tick releases. A program it finds ARMED runs: a
new run number, offset 0, accumulator 0, writing-ended clear, the run's first picture, the coder at qstart, the rate
loop at 0, the framing buffers at their lead of 16 samples and the live cursor at the run's start. A slot port in
PENDING or UNALIGNED with 8 frames or more keeps its newest 8 and is ALIGNED. On every bus the pending delay comes into
force and the saturation flag clears, and the dither generators of a bus that a released program lists load from its
seed. -/
def Obligations.TickReleasesArmedPrograms : Prop :=
  ∀ (s : State) (d : Nat), s.tb.due = some d → ∃ t, exec .dueTick s = .next t ∧
    (∀ (p : Fin 4) (r : ProgramRecord), (s.prog p).st = .armed → (s.prog p).record = some r →
      let run := ((s.prog p).run + 1) % 256
      t.prog p =
        { s.prog p with
          st := .running, run := run, streamOffset := 0, accumulator := 0, writingEnded := false,
          firstPicture := some ((s.tb.picture + 1) % 2 ^ 32), drainPicture := none } ∧
      t.coder p = { Coder.reset with qi := r.qstart } ∧ t.loop p = RateLoop.reset ∧
      t.live p = { Live.reset with cursor := some (run, 0) } ∧
      t.framer p =
        { filling := true, buffers := r.buses.map fun _ => List.replicate 16 0, lasts := r.buses.map fun _ => 0,
          holds := 0, slips := 0 }) ∧
    (∀ i : Fin 4,
      let q := s.slot i
      let ready := (q.st = .pending ∨ q.st = .unaligned) ∧ 8 ≤ q.buffer.length
      (ready → t.slot i = { q with st := .aligned, buffer := q.buffer.drop (q.buffer.length - 8) }) ∧
      (¬ready → t.slot i = q)) ∧
    ∀ k : Fin 8,
      let b := s.mixer.buses.get k
      let inForce : Bus := { b with delay := b.pendingDelay.getD b.delay, pendingDelay := none, saturated := false }
      let listed := ∃ p r, (s.prog p).st = .armed ∧ (s.prog p).record = some r ∧ k.1 ∈ r.buses
      (listed → t.mixer.buses.get k =
        { inForce with
          genA := BitVec.ofNat 17 (2 * b.seed + 1), genB := BitVec.ofNat 23 ((k.1 + 1) * 65536 + b.seed) }) ∧
      (¬listed → t.mixer.buses.get k = inForce)

/-- R15, R17, R18, R51, R118, R119: STOP and ABORT. In IDLE both are replied to with DONE and change nothing. STOP
returns an ARMED program to IDLE, takes a RUNNING one to DRAINING in the present period with a share of 0, and leaves a
DRAINING one. ABORT takes an ARMED, RUNNING or DRAINING program to IDLE at once, with its cut picture absent; a run so
left has its coder's list and its intake empty, its live cursor absent, its segments sealed and its pending-send flags
clear. PROGRAM_IDLE is raised at each entry into IDLE. -/
def Obligations.StopAndAbortLeaveTheRun : Prop :=
  ∀ (tag : Byte) (p : Fin 4) (s : State), Free s →
    let g := s.prog p
    let reply := fun (kind : Byte) (k : Status) (t : State) =>
      t.link.replies = s.link.replies ++ [.made ⟨tag, kind, k, 0, 0, []⟩]
    (g.st = .idle → exec (.stop tag p.1) s = .next (answered tag 7 .done 0 0 [] s) ∧
      exec (.abort tag p.1) s = .next (answered tag 8 .done 0 0 [] s)) ∧
    (g.st = .draining → exec (.stop tag p.1) s = .next (answered tag 7 .accepted 0 0 [] s)) ∧
    (g.st = .armed → ∃ t, exec (.stop tag p.1) s = .next t ∧ reply 7 .done t ∧
      t.prog p = { g with st := .idle, drainPicture := none } ∧
      t.link.raises.get 5 = (s.link.raises.get 5 + 1) % 2 ^ 32 ∧ t.link.latches.get 5 = true) ∧
    (g.st = .running → ∃ t, exec (.stop tag p.1) s = .next t ∧ reply 7 .accepted t ∧
      t.prog p = { g with st := .draining, drainPicture := some s.tb.picture } ∧ t.alloc.shares.get p = 0 ∧
      t.alloc.cause = some .programState ∧ t.coders = s.coders ∧ t.intakes = s.intakes ∧ t.chains = s.chains) ∧
    (g.st = .armed → ∃ t, exec (.abort tag p.1) s = .next t ∧ reply 8 .done t ∧
      t.prog p = { g with st := .idle, drainPicture := none } ∧ (t.chain p).cut = none ∧
      t.link.latches.get 5 = true) ∧
    (g.st = .running ∨ g.st = .draining → ∃ t, exec (.abort tag p.1) s = .next t ∧ reply 8 .done t ∧
      t.prog p = { g with st := .idle, drainPicture := none, writingEnded := true } ∧
      t.coder p = { s.coder p with list := [], coding := none, cut := none } ∧ (t.intake p).taking = none ∧
      (t.live p).cursor = none ∧ (t.framer p).filling = false ∧ (t.chain p).cut = none ∧
      (∀ x ∈ (t.chain p).segs, x.isSealed = true ∧ (x.run = g.run → x.pendingSend = false)) ∧
      (g.st = .running → t.alloc.shares.get p = 0) ∧ t.link.latches.get 5 = true)

/-- R16, R18, R119: the end of a drain. The end of writing seals the OPEN segment of a DRAINING program whose last
period has ended and whose coder and intake have no more to write; a drain whose writing has ended and whose live cursor
stands at the end of the stream completes: the program becomes IDLE, its cursor absent, and PROGRAM_IDLE is raised. -/
def Obligations.DrainEndsInIdle : Prop :=
  ∀ (p : Fin 4) (s : State), (s.prog p).st = .draining →
    ((s.prog p).writingEnded = false → (s.prog p).drainPicture ≠ some s.tb.picture → (s.coder p).list = [] →
      (s.intake p).taking = none → ∃ t, exec (.endOfWriting p) s = .next t ∧ (t.prog p).writingEnded = true ∧
        ((t.prog p).st = .draining ∨ (t.prog p).st = .idle) ∧ ∀ x ∈ (t.chain p).segs, x.isSealed = true) ∧
    ((s.prog p).writingEnded = true → (s.live p).cursor = some ((s.prog p).run, (s.prog p).streamOffset) →
      ∃ t, exec (.drainComplete p) s = .next t ∧
        t.prog p = { s.prog p with st := .idle, drainPicture := none } ∧ (t.live p).cursor = none ∧
        t.link.latches.get 5 = true)

/-- R20, R29 to R31, R97 to R99: the tick that ends a period of a RUNNING program's run. The cadence steps its
accumulator; a picture still being taken is closed unless it belongs to the period that ends; a period without a picture
counts as missing and asks for a REPEAT unit while a picture was coded in the run and the count is within the hold, and
otherwise for a slate, and the count steps whether or not the store takes the unit (log entry 23). Where no other
program runs or takes a picture, the coder has nothing left and the OPEN segment has room, the tick writes the REPEAT
unit, or the slate's head and its slices, and then the SOUND unit with the samples that the framer takes, padded with
the last one where they are too few, and the framer keeps what is left, at most twice what it took. -/
def Obligations.TickEndsThePeriod : Prop :=
  ∀ (s : State) (d : Nat) (p : Fin 4) (r : ProgramRecord), s.tb.due = some d → (s.prog p).st = .running →
    (s.prog p).record = some r →
    let row := rateRow s.tb.rate
    let i := s.intake p
    let missing := min (i.missing + 1) 65535
    let repeats := i.codedInRun = true ∧ missing ≤ r.hold
    ∃ t, exec .dueTick s = .next t ∧ (t.prog p).st = .running ∧
      (t.prog p).accumulator = ((s.prog p).accumulator + row.cadenceN) % row.cadenceD ∧
      (t.intake p).accepted = false ∧
      (t.intake p).taking = i.taking.filter (fun k => k.picture = s.tb.picture) ∧
      (i.accepted = true → (t.intake p).missing = i.missing ∧ (t.intake p).repeats = i.repeats ∧
        (t.intake p).slates = i.slates) ∧
      (i.accepted = false → (t.intake p).missing = missing ∧
        (repeats → (t.intake p).repeats = min (i.repeats + 1) 65535 ∧ (t.intake p).slates = i.slates) ∧
        (¬repeats → (t.intake p).repeats = i.repeats ∧ (t.intake p).slates = min (i.slates + 1) 65535)) ∧
      ((∀ q, q ≠ p → (s.prog q).st = .idle ∧ (s.intake q).taking = none) →
        (∀ k, i.taking = some k → k.picture = s.tb.picture) → (s.coder p).list = [] → (s.coder p).coding = none →
        (s.chain p).cut ≠ some s.tb.picture →
        let n := s.tb.picture
        let f := s.framer p
        let c := ((s.prog p).accumulator + row.cadenceN) / row.cadenceD
        let qi := (s.coder p).qi
        let held := fun j : Nat => f.buffers.getD j []
        let last := fun j : Nat => (held j).getLastD (f.lasts.getD j 0)
        let sound : List Byte := if r.buses = [] then [] else
          [4#8] ++ u32 (13 + c * r.buses.length * (r.soundWidth / 8)) ++ u32 n ++ u16 c ++ u8 r.buses.length
            ++ u8 r.soundWidth ++ (List.range c).flatMap fun k =>
              (List.range r.buses.length).flatMap fun j => twos (r.soundWidth / 8) ((held j).getD k (last j))
        let flat := List.replicate 8 (⟨List.replicate r.width (BitVec.ofNat 10 r.slateY),
          List.replicate (r.width / 2) (BitVec.ofNat 10 r.slateCb),
          List.replicate (r.width / 2) (BitVec.ofNat 10 r.slateCr)⟩ : Line)
        let payload := slicePayload (s.table (Fin.ofNat 2 r.table)).entries
          (slicePairs flat qi r.chromaOffset true)
        let slate : List Byte := [1#8] ++ u32 21 ++ u32 n ++ encTimecode s.tb.label ++ u8 r.table ++ u8 qi ++ [1#8]
          ++ u16 r.width ++ u16 r.height ++ twos 1 r.chromaOffset ++ (List.range (r.height / 8)).flatMap fun x =>
            [2#8] ++ u32 (16 + payload.length) ++ u32 n ++ u16 x ++ u8 qi ++ u32 payload.length ++ payload
        ∀ (g : Segment) (stand : List Byte), openSeg p s = some g → g.writer = true →
          (i.accepted = true → stand = []) → (i.accepted = false → repeats → stand = [3#8] ++ u32 9 ++ u32 n) →
          (i.accepted = false → ¬repeats → stand = slate) →
          f.buffers.length = r.buses.length → f.lasts.length = r.buses.length →
          ∀ m, (∀ b ∈ f.buffers, b.length = m) → g.fill + (stand ++ sound).length ≤ 262144 →
            (t.prog p).streamOffset = (s.prog p).streamOffset + (stand ++ sound).length ∧
            (∀ k x, (stand ++ sound)[k]? = some x → memRead t.mem (g.number * 262144 + g.fill + k) = x) ∧
            (∀ a, a < g.number * 262144 + g.fill ∨ g.number * 262144 + g.fill + (stand ++ sound).length ≤ a →
              memRead t.mem a = memRead s.mem a) ∧
            (r.buses ≠ [] → c ≤ m → t.framer p =
              { f with
                buffers := f.buffers.map fun b => b.drop (if 2 * c < m - c then m - 2 * c else c)
                lasts := List.zipWith (fun b l => (b.take c).getLastD l) f.buffers f.lasts
                slips := if 2 * c < m - c then min (f.slips + 1) 65535 else f.slips }) ∧
            (r.buses ≠ [] → m < c → t.framer p =
              { f with
                buffers := (List.range r.buses.length).map fun j => List.replicate 16 (last j)
                lasts := (List.range r.buses.length).map last
                holds := min (f.holds + 1) 65535 }))

/-! ### The budget (R60 to R80) -/

/-- R63, R64, R66, R67, R69: ALLOCATION_TICK, when the divider has made one, runs the allocator on what stands: the
usable capacity, the sound rate, the clip floor counted, the video budget, the shares above and below the minima, the
spare, the clip rate, the starved indication with its event, and the clip bucket's new cap. Nothing else changes. -/
def Obligations.AllocationTickDividesTheBudget : Prop :=
  ∀ s : State,
    (s.tb.allocDue = false → exec .allocationTick s = .next s) ∧
    (s.tb.allocDue = true →
      let sum := fun f : ProgramRecord → Nat =>
        ∑ p : Fin 4, if (s.prog p).st = .running then ((s.prog p).record.map f).getD 0 else 0
      let U := (∑ l : Fin 6, if (s.path l).st = .up ∨ (s.path l).st = .degraded then (s.path l).estimate else 0)
        * s.alloc.headroom / 16
      let S := sum fun r => r.buses.length * r.soundWidth * 48
      let clips : Prop := ∃ c k, s.clips.recs.get c = some k ∧ (k.st = .queued ∨ k.st = .shipping)
      let M := sum ProgramRecord.minRate
      let W := sum ProgramRecord.weight
      ∃ (t : State) (Kc : Nat), exec .allocationTick s = .next t ∧
        (clips → Kc = s.alloc.clipFloor) ∧ (¬clips → Kc = 0) ∧
        let V := U - (S + s.alloc.labelReserve + Kc)
        (∀ p r, (s.prog p).st = .running → (s.prog p).record = some r → t.alloc.shares.get p =
          if M ≤ V then min r.maxRate (r.minRate + (V - M) * r.weight / W) else V * r.minRate / M) ∧
        (∀ p, (s.prog p).st ≠ .running → t.alloc.shares.get p = 0) ∧
        (let spare := V - ∑ p : Fin 4, t.alloc.shares.get p
        t.alloc =
          { s.alloc with
            usable := U, sound := S, clipCounted := Kc, video := V, minSum := M, shares := t.alloc.shares,
            spare := spare, clipRate := Kc + spare, starved := decide (V < M), runs := (s.alloc.runs + 1) % 2 ^ 32,
            starvedCount :=
              if V < M ∧ s.alloc.starved = false then (s.alloc.starvedCount + 1) % 2 ^ 32 else s.alloc.starvedCount,
            cause := some .allocationTick }) ∧
        t.link.raises.get 7 =
          (if V < M ∧ s.alloc.starved = false then (s.link.raises.get 7 + 1) % 2 ^ 32 else s.link.raises.get 7) ∧
        t = { s with
          tb := { s.tb with allocDue := false }
          alloc := t.alloc
          sched := { s.sched with bucket := min s.sched.bucket (100 * t.alloc.clipRate) }
          link := t.link })

/-- R68 to R70: after a run of any cause the shares and the spare make up the video budget exactly, no share exceeds its
program's max rate, and every share reaches its min rate when the budget meets the minima. -/
def Obligations.SharesMakeUpTheVideoBudget : Prop :=
  ∀ (cause : AllocCause) (s : State),
    (∀ p r, (s.prog p).st = .running → (s.prog p).record = some r → r.minRate ≤ r.maxRate) →
    let a := (runAllocator cause s).alloc
    (∑ p : Fin 4, a.shares.get p) + a.spare = a.video ∧ a.video ≤ a.usable ∧
      ∀ p r, (s.prog p).st = .running → (s.prog p).record = some r →
        a.shares.get p ≤ r.maxRate ∧ (a.starved = false → r.minRate ≤ a.shares.get p)

/-! ### Picture intake (R22 to R36) -/

/-- R22, R23, R25: START_OF_PICTURE_MARKER. The marker ends the measurement of the open picture, moves the port by the
table of R23, records the period as the last picture start, counts an extra start, and opens a new picture; INPUT_BACK
is raised when the port enters LOCKED. The other ports stand. -/
def Obligations.MarkersMoveThePort : Prop :=
  ∀ (i : Fin 4) (s : State), ∃ t, exec (.startOfPictureMarker i) s = .next t ∧
    let q := s.port i
    let after := fun (st : PortState) (candidate locked : Option Format) (last : Option Measured) => t.port i =
      { q with
        st := st, candidate := candidate, locked := locked, lastMeasurement := last, lastStart := some s.tb.picture,
        startSeen := true, extras := if q.startSeen then min (q.extras + 1) 65535 else q.extras,
        opened := some ⟨0, 0, true⟩ }
    (∀ j, j ≠ i → t.port j = s.port j) ∧
    (q.opened = none → q.st = .noSignal → after .locking none none q.lastMeasurement) ∧
    (∀ m, q.opened = some m → q.st ≠ .noSignal →
      let f : Format := ⟨m.samples, m.lines⟩
      let isRegular := 1 ≤ m.lines ∧ m.lines ≤ 2047 ∧ m.even = true ∧ m.samples ≤ 4095
      (q.st = .locking → isRegular → q.candidate = some f → after .locked none (some f) (some (.regular f))) ∧
      (q.st = .locking → isRegular → q.candidate ≠ some f → after .locking (some f) q.locked (some (.regular f))) ∧
      (q.st = .locking → ¬isRegular → after .locking none q.locked (some .irregular)) ∧
      (q.st = .locked → isRegular → q.locked = some f →
        after .locked q.candidate q.locked (some (.regular f))) ∧
      (q.st = .locked → isRegular → q.locked ≠ some f → after .locking (some f) none (some (.regular f))) ∧
      (q.st = .locked → ¬isRegular → after .locking none none (some .irregular))) ∧
    t.link.raises.get 3 = (if q.st ≠ .locked ∧ (t.port i).st = .locked then (s.link.raises.get 3 + 1) % 2 ^ 32
      else s.link.raises.get 3)

/-- R26, R28, R46, R74: the first marker of a period, at a port that then is LOCKED at the format of a RUNNING program
which alone takes its pictures. The program accepts picture n; its idle coder writes the head, 21 bytes, and the rate
loop takes its picture start from the present share. -/
def Obligations.AcceptedPictureStartsTheLoop : Prop :=
  ∀ (i p : Fin 4) (r : ProgramRecord) (m : Measure) (s : State), (s.prog p).st = .running →
    (s.prog p).record = some r → r.port = i.1 → (∀ j r', j ≠ p → (s.prog j).record = some r' → r'.port ≠ i.1) →
    (s.port i).startSeen = false → (s.port i).opened = some m → 1 ≤ m.lines → m.lines ≤ 2047 → m.even = true →
    m.samples ≤ 4095 → m.samples = r.width → m.lines = r.height →
    (((s.port i).st = .locked ∧ (s.port i).locked = some ⟨r.width, r.height⟩) ∨
      ((s.port i).st = .locking ∧ (s.port i).candidate = some ⟨r.width, r.height⟩)) →
    (s.intake p).taking = none → (s.coder p).list = [] → (s.coder p).coding = none →
    (s.chain p).cut ≠ some s.tb.picture → 21 ≤ room p s →
    let share := s.alloc.shares.get p
    let T := share * 1000 * (rateRow s.tb.rate).den / (rateRow s.tb.rate).num
    let B := share * r.buffer
    ∃ t, exec (.startOfPictureMarker i) s = .next t ∧
      t.intake p =
        { s.intake p with
          taking := some ⟨s.tb.picture, 0, []⟩, accepted := true, missing := 0, codedInRun := true, mismatch := none } ∧
      t.prog p = { s.prog p with streamOffset := (s.prog p).streamOffset + 21 } ∧
      t.coder p = { s.coder p with bitCount := 0 } ∧
      t.loop p =
        { s.loop p with
          share := share, target := T, sliceTarget := T / (r.height / 8), bound := B, cmax := T * r.ceiling,
          fullness := max (-(B : Int)) (min B (s.loop p).fullness), struck := false }

/-- R22, R28, R48, R50, R77: LINE_TAKEN at a port whose picture a program that alone takes its pictures has accepted.
The port measures the line; the program takes the first `width` luma and `width`/2 chroma samples, missing ones in its
slate colour; the eighth line of a slice hands the slice to the coder, which begins it when idle and otherwise lists it.
A slice begins on the full path at the coder's index while the picture bit count is within the ceiling. Above it the
slice begins on the DC-only path at qmax and counts; the first such slice of a picture counts a ceiling, sets the
ceiling-held flag, and raises CEILING when that flag was clear. A slice of a picture of which a unit was refused is
dropped uncoded. -/
def Obligations.LinesBecomeSlices : Prop :=
  ∀ (i p : Fin 4) (r : ProgramRecord) (m : Measure) (k : Taking) (y cb cr : List Sample10) (s : State),
    (s.prog p).record = some r → r.port = i.1 → (∀ j r', j ≠ p → (s.prog j).record = some r' → r'.port ≠ i.1) →
    (s.port i).opened = some m → (s.intake p).taking = some k →
    let fill := fun (n slate : Nat) (l : List Sample10) =>
      l.take n ++ List.replicate (n - l.length) (BitVec.ofNat 10 slate)
    let lines := k.lines ++
      [⟨fill r.width r.slateY y, fill (r.width / 2) r.slateCb cb, fill (r.width / 2) r.slateCr cr⟩]
    let n := k.nextLine + 1
    let item : CoderItem := .slice k.picture (n / 8 - 1) lines
    ∃ t, exec (.lineTaken i y cb cr) s = .next t ∧
      t.port i = { s.port i with opened := some (if m.lines = 0 then ⟨1, y.length, true⟩
        else ⟨m.lines + 1, m.samples, m.even && m.samples == y.length⟩) } ∧
      (n % 8 ≠ 0 → t.intake p = { s.intake p with taking := some ⟨k.picture, n, lines⟩ } ∧ t.coder p = s.coder p) ∧
      (n % 8 = 0 →
        t.intake p = { s.intake p with taking := if n < r.height then some ⟨k.picture, n, []⟩ else none } ∧
        ((s.coder p).list = [] → (s.coder p).coding = none →
          let d := s.coder p
          let l := s.loop p
          let isCut := d.cut = some k.picture ∨ (s.chain p).cut = some k.picture
          let raised := s.link.raises.get 6
          (isCut → t.coder p = d ∧ t.loop p = l ∧ t.link.raises.get 6 = raised) ∧
          (¬isCut → d.bitCount ≤ l.cmax → t.coder p = { d with list := [item], coding := some ⟨d.qi, false⟩ } ∧
            t.loop p = l ∧ t.link.raises.get 6 = raised) ∧
          (¬isCut → l.cmax < d.bitCount →
            t.coder p =
              { d with list := [item], coding := some ⟨r.qmax, true⟩, dcSlices := (d.dcSlices + 1) % 2 ^ 32 } ∧
            (l.struck = true → t.loop p = l ∧ t.link.raises.get 6 = raised) ∧
            (l.struck = false →
              t.loop p = { l with ceilings := min (l.ceilings + 1) 65535, struck := true, held := true } ∧
              t.link.raises.get 6 = (if l.held then raised else (raised + 1) % 2 ^ 32) ∧
              (l.held = false → t.link.latches.get 6 = true)))) ∧
        (∀ pic ix ls rest c, (s.coder p).list = .slice pic ix ls :: rest → (s.coder p).coding = some c →
          t.coder p = { s.coder p with list := (s.coder p).list ++ [item] }))

/-- R24, R29: the two limits of a picture that stays away. PORT_LOSS_EXPIRY takes a port whose second quiet period ends
to NO_SIGNAL with INPUT_LOST. CLOSE_LIMIT closes a picture of an earlier period short, and the coder then has nothing
left in its list: that the slices so completed, and all that waits before them, are coded and written in that event is
the model's reading (log entry 23). Before the limit neither changes anything of the port or the intake. -/
def Obligations.InputLimits : Prop :=
  (∀ (i : Fin 4) (s : State),
    let q := s.port i
    let due := q.st ≠ .noSignal ∧ q.startSeen = false ∧ 1 ≤ q.quiet
    (due → ∃ t, exec (.portLossExpiry i) s = .next t ∧
      t = { s with
        ports := Vec.put s.ports i
          { q with
            st := .noSignal, candidate := none, locked := none, opened := none, quiet := 2,
            losses := min (q.losses + 1) 65535 }
        link := t.link } ∧
      t.link.raises.get 2 = (s.link.raises.get 2 + 1) % 2 ^ 32 ∧ t.link.latches.get 2 = true) ∧
    (¬due → exec (.portLossExpiry i) s = .next s)) ∧
  ∀ (p : Fin 4) (k : Taking) (r : ProgramRecord) (s : State), (s.prog p).record = some r →
    (s.intake p).taking = some k →
    (k.picture ≠ s.tb.picture → ∃ t, exec (.closeLimit p) s = .next t ∧
      t.intake p = { s.intake p with taking := none, shorts := min ((s.intake p).shorts + 1) 65535 } ∧
      (t.coder p).list = []) ∧
    (k.picture = s.tb.picture → ∃ t, exec (.closeLimit p) s = .next t ∧ t.intake p = s.intake p)

/-! ### Tile coding (R37 to R59) -/

/-- R38, R39: the transform of a flat tile is sixteen times its centred sample at (0, 0) and 0 elsewhere, and every
coefficient of a tile of samples -512 to 511 lies in the ranges the rule gives. The 48 quantiser steps, and the level of
a coefficient: floor((|c| + floor(step/2)) / step) with the sign of c, so that c and -c give opposite levels, and every
coefficient of the ranges gives a level from -1,024 to 1,023. -/
def Obligations.CoefficientsAndLevelsKeepRange : Prop :=
  (∀ x : Int, coefficients ⟨⟨x, x, x, x⟩, ⟨x, x, x, x⟩, ⟨x, x, x, x⟩, ⟨x, x, x, x⟩⟩ =
    ⟨⟨16 * x, 0, 0, 0⟩, ⟨0, 0, 0, 0⟩, ⟨0, 0, 0, 0⟩, ⟨0, 0, 0, 0⟩⟩) ∧
  (∀ tile : Quad (Quad Int),
    (∀ u v, -512 ≤ quadGet (quadGet tile u) v ∧ quadGet (quadGet tile u) v ≤ 511) →
    ∀ u v, (u = 0 ∧ v = 0 →
        -8192 ≤ quadGet (quadGet (coefficients tile) u) v ∧ quadGet (quadGet (coefficients tile) u) v ≤ 8176) ∧
      (¬(u = 0 ∧ v = 0) →
        -8184 ≤ quadGet (quadGet (coefficients tile) u) v ∧ quadGet (quadGet (coefficients tile) u) v ≤ 8184)) ∧
  ((List.range 48).map quantStep =
    [8, 9, 10, 11, 12, 13, 14, 15, 16, 18, 20, 22, 24, 26, 28, 30, 32, 36, 40, 44, 48, 52, 56, 60, 64, 72, 80, 88, 96,
      104, 112, 120, 128, 144, 160, 176, 192, 208, 224, 240, 256, 288, 320, 352, 384, 416, 448, 480]) ∧
  ∀ (qi : Nat) (c : Int), qi ≤ 47 →
    let step := quantStep qi
    (0 ≤ c → quantLevel step c = (c + step / 2) / step) ∧ quantLevel step (-c) = -quantLevel step c ∧
      (2 * c.natAbs < step → quantLevel step c = 0) ∧
      (-8192 ≤ c → c ≤ 8184 → -1024 ≤ quantLevel step c ∧ quantLevel step c ≤ 1023)

/-- R42, R43, R55: with a table that passes the check, the bits of a tile tell its pairs: two lists of pairs of runs 0
to 15 and levels -1,024 to 1,023 other than 0 whose coded tiles agree, whatever bits follow them, are the same list. -/
def Obligations.TileBitsTellTheirPairs : Prop :=
  ∀ (es : List CodeEntry), es.length = 130 → checkTable es = .pass →
    ∀ (xs ys : List (Nat × Int)) (a b : List Bool),
      (∀ x ∈ xs ++ ys, x.1 ≤ 15 ∧ x.2 ≠ 0 ∧ -1024 ≤ x.2 ∧ x.2 ≤ 1023) →
      tileBits es xs ++ a = tileBits es ys ++ b → xs = ys ∧ a = b

/-- R54: LOAD_TABLE. A table letter above 1 is refused; a CHECKING table is in use, then one that a program out of IDLE
names; otherwise the entries are taken, the table becomes CHECKING and the reply's slot stays reserved. A body of a
length other than 391 is refused with BAD_LENGTH, or, where its letter is above 1, with OUT_OF_RANGE, which of the two
being free (R203; log entry 30). -/
def Obligations.LoadTableStartsTheCheck : Prop :=
  ∀ (tag : Byte) (table : Nat) (es : List CodeEntry) (s : State), Free s →
    let c := s.table (Fin.ofNat 2 table)
    let uses := fun p : Fin 4 => (s.prog p).st ≠ .idle ∧ ∃ r, (s.prog p).record = some r ∧ r.table = table
    let answer := fun (k : Status) (d1 d2 : Nat) => (exec (.loadTable tag table es) s : Host.Outcome State Fault Refusal) =
      .next (answered tag 12 k d1 d2 [] s)
    (1 < table → answer .outOfRange 1 0) ∧
    (table ≤ 1 → c.st = .checking → answer .inUse table 1) ∧
    (table ≤ 1 → c.st ≠ .checking → ∀ p, uses p → (∀ q, q < p → ¬uses q) → answer .inUse p.1 0) ∧
    (table ≤ 1 → c.st ≠ .checking → (∀ p, ¬uses p) → exec (.loadTable tag table es) s = .next
      { s with
        tables := Vec.put s.tables (Fin.ofNat 2 table) { c with st := .checking, entries := es }
        link :=
          { s.link with
            replies := s.link.replies ++ [.reserved tag table]
            accepted := (s.link.accepted + 1) % 2 ^ 32 } }) ∧
    ∀ body : List Byte, body.length ≠ 391 → ∃ a, perform (readRequest 12 body) s = (.answer a, s) ∧
      ((a.status = .badLength ∧ a.detail = body.length) ∨
        (a.status = .outOfRange ∧ a.detail = 1 ∧ ∃ letter rest, body = letter :: rest ∧ 1 < letter.toNat))

/-- R55: the end of a check. A table whose every entry has a length of 1 to 16 and a value below 2 to its length, and of
whose codes none is the beginning of another, becomes READY and its LOAD_TABLE is replied to with DONE; any other
becomes EMPTY, its entries discarded, and the reply names the first entry out of range, or else the first conflicting
pair. The reply stands in the place of the reservation, which is the model's choice (log entry 42). A table that is not
CHECKING is not touched. -/
def Obligations.CheckPassesPrefixFreeTables : Prop :=
  ∀ (j : Fin 2) (s : State),
    let es := (s.table j).entries
    let fits := fun e : CodeEntry => 1 ≤ e.length ∧ e.length ≤ 16 ∧ e.value < 2 ^ e.length
    let clash := fun x y : Nat => codeBits es x <+: codeBits es y ∨ codeBits es y <+: codeBits es x
    let ends := fun (c : CodeTable) (k : Status) (d1 d2 : Nat) => exec (.tableCheckEnd j) s = .next
      { s with
        tables := Vec.put s.tables j c
        link := { s.link with
          replies := s.link.replies.map fun x => match x with
            | .made m => .made m
            | .reserved tag n => if n = j.1 then .made ⟨tag, 12, k, d1, d2, []⟩ else .reserved tag n } }
    ((s.table j).st ≠ .checking → exec (.tableCheckEnd j) s = .next s) ∧
    ((s.table j).st = .checking →
      ((∀ e ∈ es, fits e) → (∀ x y, x < y → y < es.length → ¬clash x y) →
        ends ⟨.ready, es, some .pass⟩ .done 0 0) ∧
      (∀ x e, es[x]? = some e → ¬fits e → (∀ y < x, ∀ e', es[y]? = some e' → fits e') →
        ends ⟨.empty, [], some (.outOfRange x)⟩ .outOfRange x 0) ∧
      (∀ x y, (∀ e ∈ es, fits e) → x < y → y < es.length → clash x y →
        (∀ x' y', x' < y' → y' < es.length → clash x' y' → x < x' ∨ (x = x' ∧ y ≤ y')) →
        ends ⟨.empty, [], some (.ambiguous x y)⟩ .tableAmbiguous x y))

/-- R47, R52, R75: SLICE_CODED, where the slice that is coding is the coder's last item and the OPEN segment has room
for its unit: the stream advances by the unit, 16 bytes and the payload; the coder counts its bits; the loop's fullness
takes them less the slice target, within the bound; and the index moves by the fullness, within qmin and qmax. -/
def Obligations.SliceCodedMovesTheLoop : Prop :=
  ∀ (p : Fin 4) (r : ProgramRecord) (c : Coding) (picture index : Nat) (lines : List Line) (s : State),
    (s.prog p).record = some r → (s.coder p).list = [.slice picture index lines] → (s.coder p).coding = some c →
    (s.chain p).cut ≠ some picture →
    let pairs := slicePairs lines c.qi r.chromaOffset c.dcOnly
    let len := 16 + (slicePayload (s.table (Fin.ofNat 2 r.table)).entries pairs).length
    let b := 8 * len
    let l := s.loop p
    let F := max (-(l.bound : Int)) (min l.bound (l.fullness + b - l.sliceTarget))
    let move : Int :=
      if ((l.bound / 2 : Nat) : Int) < F then 2 else if ((l.bound / 8 : Nat) : Int) < F then 1
      else if F < -((l.bound / 2 : Nat) : Int) then -2 else if F < -((l.bound / 8 : Nat) : Int) then -1 else 0
    let last := index + 1 = r.height / 8
    len ≤ room p s → ∃ t, exec (.sliceCoded p) s = .next t ∧
      (t.prog p).streamOffset = (s.prog p).streamOffset + len ∧
      t.coder p =
        { s.coder p with
          list := [], coding := none
          qi := (max (r.qmin : Int) (min r.qmax ((s.coder p).qi + move))).toNat
          bitCount := (s.coder p).bitCount + b
          escaped := ((s.coder p).escaped + escapedPairs pairs) % 2 ^ 32
          coded := if last then ((s.coder p).coded + 1) % 2 ^ 32 else (s.coder p).coded
          lastBits := if last then (s.coder p).bitCount + b else (s.coder p).lastBits } ∧
      t.loop p = { l with fullness := F, held := if last then l.held && l.struck else l.held }

/-! ### Sound (R81 to R104) -/

/-- R82, R86: the requests of a slot port. CONFIGURE_SLOT_PORT writes the slot count of a port in OFF and is refused in
any other state; ENABLE_SLOT_PORT takes OFF to SEEKING; DISABLE_SLOT_PORT takes any other state to OFF with an empty
buffer and counts no loss of lock; each leaves the bindings. -/
def Obligations.SlotPortRequestsMoveThePort : Prop :=
  ∀ (tag : Byte) (i : Fin 4) (s : State), Free s →
    let q := s.slot i
    let becomes := fun (kind : Byte) (x : SlotPort) => answered tag kind .done 0 0 [] (s.modSlot i fun _ => x)
    (∀ count, 1 ≤ count → count ≤ 16 → exec (.configureSlotPort tag i.1 count) s = .next
      (if q.st = .off then becomes 16 { q with count := count } else answered tag 16 .wrongState i.1 0 [] s)) ∧
    (∀ count, count = 0 ∨ 16 < count →
      exec (.configureSlotPort tag i.1 count) s = .next (answered tag 16 .outOfRange 2 0 [] s)) ∧
    exec (.enableSlotPort tag i.1) s = .next
      (becomes 17 (if q.st = .off then { q with st := .seeking, position := none, lock := 0 } else q)) ∧
    exec (.disableSlotPort tag i.1) s = .next
      (becomes 18 (if q.st = .off then q
        else { q with st := .off, position := none, lock := 0, partFrame := [], buffer := [] }))

/-- R81, R83, R85: SLOT and SLOT_SILENCE_EXPIRY at a port whose buffer keeps to 2 to 14 frames when it is ALIGNED. In
OFF no slot is taken; in SEEKING correct markers count up to frame lock and any wrong or missed one starts again; with
frame lock a slot in its place joins the frame being taken, a complete frame joins the buffer, which keeps the newest
16, and a wrong marker, a missed marker or 1 ms of silence is a loss of frame lock. -/
def Obligations.SlotsKeepFrameLock : Prop :=
  ∀ (i : Fin 4) (marker : Bool) (x : Sample24) (s : State),
    let q := s.slot i
    let expected := match q.position with
      | none => 0
      | some n => if q.count ≤ n + 1 then 0 else n + 1
    let lost := fun position : Option Nat =>
      { q with
        st := .seeking, position := position, lock := 0, partFrame := [], buffer := [],
        lockLosses := min (q.lockLosses + 1) 65535 }
    let takes := fun y : SlotPort => (exec (.slot i marker x) s : Host.Outcome State Fault Refusal) =
      .next (s.modSlot i fun _ => y)
    let silent := fun y : SlotPort => (exec (.slotSilenceExpiry i) s : Host.Outcome State Fault Refusal) =
      .next (s.modSlot i fun _ => y)
    let hasLock := q.st = .pending ∨ q.st = .aligned ∨ q.st = .unaligned
    (q.st = .off → takes q ∧ silent q) ∧
    (q.st = .seeking → silent { q with position := none, lock := 0 } ∧
      (marker = true → expected = 0 → q.position ≠ none → q.lock = 0 → takes { q with position := some 0, lock := 1 }) ∧
      (marker = true → expected = 0 → q.position ≠ none → q.lock = 1 → 1 < q.count →
        takes { q with st := .pending, position := some 0, lock := 2, partFrame := [x] }) ∧
      (marker = true → expected ≠ 0 ∨ q.position = none → takes { q with position := some 0, lock := 0 }) ∧
      (marker = false → expected = 0 → takes { q with position := none, lock := 0 }) ∧
      (marker = false → expected ≠ 0 → takes { q with position := some expected })) ∧
    (hasLock → silent (lost none) ∧
      (marker = true → expected ≠ 0 ∨ q.position = none → takes (lost (some 0))) ∧
      (marker = true → expected = 0 → q.position ≠ none → 1 < q.count →
        (q.st = .aligned → 2 ≤ q.buffer.length ∧ q.buffer.length ≤ 14) →
        takes { q with position := some 0, lock := min (q.lock + 1) 2, partFrame := [x] }) ∧
      (marker = false → expected = 0 → takes (lost none)) ∧
      (marker = false → expected ≠ 0 → expected + 1 ≠ q.count →
        (q.st = .aligned → 2 ≤ q.buffer.length ∧ q.buffer.length ≤ 14) →
        takes { q with position := some expected, partFrame := q.partFrame ++ [x] }) ∧
      (marker = false → expected ≠ 0 → expected + 1 = q.count →
        (q.st = .aligned → 1 ≤ q.buffer.length ∧ q.buffer.length ≤ 13) →
        takes
          { q with
            position := some expected, partFrame := []
            buffer := (q.buffer ++ [q.partFrame ++ [x]]).drop (q.buffer.length + 1 - 16) }) ∧
      (marker = false → expected ≠ 0 → expected + 1 = q.count → q.st = .aligned → q.buffer.length = 14 →
        ∃ t, exec (.slot i marker x) s = .next t ∧ (t.slot i).st = .unaligned ∧ (t.slot i).buffer.length = 15 ∧
          (t.slot i).unaligneds = min (q.unaligneds + 1) 65535 ∧
          t.link.raises.get 8 = (s.link.raises.get 8 + 1) % 2 ^ 32))

/-- R89, R90, R96, R101, R102, R212: the mixer's requests. BIND_INPUT replaces a binding whose slot the port has;
SET_GAIN sets a cell at once or gives it a ramp from where it stands; SET_BUS gives a pending delay and loads both
dither generators from the seed; SET_MONITOR names the two buses; READ_MIXER answers with the bus's values, its 32 cells
first and the bindings and monitor buses last, encoded as R212 states, and clears its two counts when the flag asks for
it. Every other value of the mixer, and of the part, stands. -/
def Obligations.MixerRequestsWriteTheirValues : Prop :=
  ∀ (tag : Byte) (s : State), Free s →
    let bus := fun (k : Fin 8) (f : Bus → Bus) =>
      s.modMixer fun m => { m with buses := Vec.put m.buses k (f (m.buses.get k)) }
    (∀ (i : Fin 32) (binding : Option (Nat × Nat)),
      (∀ port slot, binding = some (port, slot) → port ≤ 3 ∧ slot ≤ 15 ∧ slot < (s.slot (Fin.ofNat 4 port)).count) →
      exec (.bindInput tag i.1 binding) s = .next (answered tag 20 .done 0 0 []
        (s.modMixer fun m => { m with bindings := Vec.put m.bindings i binding }))) ∧
    (∀ (i : Fin 32) (port slot : Nat), 3 < port ∨ 15 < slot ∨ (s.slot (Fin.ofNat 4 port)).count ≤ slot →
      exec (.bindInput tag i.1 (some (port, slot))) s = .next (answered tag 20 .outOfRange 2 0 [] s)) ∧
    (∀ (i : Fin 32) (k : Fin 8) (gain ramp : Nat), gain ≤ 65535 → ramp ≤ 2048 →
      let cell := fun g : GainCell => if ramp = 0 then GainCell.mk gain gain 0 else GainCell.mk g.current gain ramp
      exec (.setGain tag i.1 k.1 gain ramp) s = .next (answered tag 21 .done 0 0 [] (bus k fun b =>
        { b with cells := Vec.put b.cells i (cell (b.cells.get i)) }))) ∧
    (∀ (k : Fin 8) (delay seed : Nat), delay ≤ 8191 → seed ≤ 65535 →
      exec (.setBus tag k.1 delay seed) s = .next (answered tag 22 .done 0 0 [] (bus k fun b =>
        { b with
          pendingDelay := some delay, seed := seed, genA := BitVec.ofNat 17 (2 * seed + 1),
          genB := BitVec.ofNat 23 ((k.1 + 1) * 65536 + seed) }))) ∧
    (∀ l r : Fin 8, exec (.setMonitor tag l.1 r.1) s = .next (answered tag 23 .done 0 0 []
      (s.modMixer fun m => { m with left := l, right := r }))) ∧
    ∀ (k : Fin 8),
      let m := s.mixer
      let b := m.buses.get k
      let body : List Byte :=
        ((List.finRange 32).flatMap fun i =>
          let g := b.cells.get i
          u16 g.current ++ u16 g.target ++ u16 g.remaining)
        ++ u16 b.delay ++ (match b.pendingDelay with | none => [0, 0, 0] | some d => [1] ++ u16 d)
        ++ u16 b.seed ++ u16 b.saturations ++ u16 b.narrowings ++ u8 (if b.saturated then 1 else 0)
        ++ ((List.finRange 32).flatMap fun i => match m.bindings.get i with
          | none => [0, 0, 0]
          | some (port, slot) => [1] ++ u8 port ++ u8 slot)
        ++ u8 m.left.1 ++ u8 m.right.1
      exec (.readMixer tag k.1 0) s = .next (answered tag 24 .done 0 0 body s) ∧
      exec (.readMixer tag k.1 1) s = .next (answered tag 24 .done 0 0 body
        (bus k fun b => { b with saturations := 0, narrowings := 0 }))

/-- R85, R88, R89, R91 to R95, R97, R101: SAMPLE_TICK. Every input takes its slot of the frame that its ALIGNED port
hands, or silence; a port whose buffer this leaves below 2 frames or above 14 becomes UNALIGNED, counted and with
PORT_UNALIGNED. Every cell takes its ramp step, its share of what is left to the target rounded toward zero, before the
sum; every bus sample is the rounded sum, saturated to 24 bits, and a sum that needs it counts, sets the bus's
saturation flag and raises BUS_SATURATION when the flag was clear. The sample enters the line, and the sample of the
delay in force is what the monitor sends and a program of width 24 takes; one of width 16 takes its 16-bit form, with
the difference of the two dither bytes, saturated and then counted as narrowed. Both generators take 8 steps, by taps 16
and 13 and by taps 22 and 17. A filling program's buffers take one sample of each bus of its list, and a full one first
drops its oldest, a slip. -/
def Obligations.SampleTickFormsTheBuses : Prop :=
  ∀ s : State, ∃ t, exec .sampleTick s = .next t ∧
    let sample : Fin 32 → Int := fun i =>
      match s.mixer.bindings.get i with
      | none => 0
      | some (port, slot) =>
        let q := s.slot (Fin.ofNat 4 port)
        if q.st = .aligned ∧ slot < q.count then ((q.buffer.headD []).getD slot 0).toInt else 0
    let ramped := fun g : GainCell =>
      if g.remaining = 0 then g
      else
        { g with
          current := ((g.current : Int) + ((g.target : Int) - g.current).tdiv g.remaining).toNat
          remaining := g.remaining - 1 }
    let bitA := fun r : BitVec 17 => r.getLsbD 16 != r.getLsbD 13
    let bitB := fun r : BitVec 23 => r.getLsbD 22 != r.getLsbD 17
    let stepA := fun r : BitVec 17 => (r <<< 1) ||| (if bitA r then 1#17 else 0#17)
    let stepB := fun r : BitVec 23 => (r <<< 1) ||| (if bitB r then 1#23 else 0#23)
    let sum : Fin 8 → Int := fun k =>
      (∑ i : Fin 32, sample i * ((ramped ((s.mixer.buses.get k).cells.get i)).current : Int) + 8192) / 16384
    let y : Fin 8 → Int := fun k => max (-8388608) (min 8388607 (sum k))
    let line := fun k : Fin 8 => y k :: (s.mixer.buses.get k).line.take 8191
    let delayed := fun k : Fin 8 => (line k).getD (s.mixer.buses.get k).delay 0
    let ditherA : Fin 8 → Nat := fun k =>
      ∑ j : Fin 8, if bitA (stepA^[j.1] (s.mixer.buses.get k).genA) then 2 ^ (7 - j.1) else 0
    let ditherB : Fin 8 → Nat := fun k =>
      ∑ j : Fin 8, if bitB (stepB^[j.1] (s.mixer.buses.get k).genB) then 2 ^ (7 - j.1) else 0
    let wide : Fin 8 → Int := fun k => (delayed k + ((ditherA k : Int) - ditherB k) + 128) / 256
    let narrow : Fin 8 → Int := fun k => max (-32768) (min 32767 (wide k))
    (∀ k : Fin 8,
      let b := s.mixer.buses.get k
      let c := t.mixer.buses.get k
      (∀ i, c.cells.get i = ramped (b.cells.get i)) ∧ c.line = line k ∧ c.delay = b.delay ∧
        c.pendingDelay = b.pendingDelay ∧ c.seed = b.seed ∧
        c.genA = stepA^[8] b.genA ∧ c.genB = stepB^[8] b.genB ∧
        c.saturations = (if sum k = y k then b.saturations else min (b.saturations + 1) 65535) ∧
        c.saturated = (b.saturated || sum k != y k) ∧
        c.narrowings = (if wide k = narrow k then b.narrowings else min (b.narrowings + 1) 65535)) ∧
    t.link.raises.get 9 = (fun x => (x + 1) % 2 ^ 32)^[(List.finRange 8).countP fun k =>
      sum k != y k && !(s.mixer.buses.get k).saturated] (s.link.raises.get 9) ∧
    t.mixer.bindings = s.mixer.bindings ∧ t.mixer.left = s.mixer.left ∧ t.mixer.right = s.mixer.right ∧
    t.mixer.monOut = (delayed s.mixer.left, delayed s.mixer.right) ∧
    (let leaves := fun q : SlotPort => q.buffer.tail.length < 2 ∨ 14 < q.buffer.tail.length
    (∀ i : Fin 4, let q := s.slot i
      (q.st = .aligned → t.slot i =
        if leaves q then
          { q with st := .unaligned, buffer := q.buffer.tail, unaligneds := min (q.unaligneds + 1) 65535 }
        else { q with buffer := q.buffer.tail }) ∧
      (q.st ≠ .aligned → t.slot i = q)) ∧
    t.link.raises.get 8 = (fun x => (x + 1) % 2 ^ 32)^[(List.finRange 4).countP fun i =>
      (s.slot i).st == .aligned && decide (leaves (s.slot i))] (s.link.raises.get 8)) ∧
    ∀ p : Fin 4,
      let f := s.framer p
      ((s.prog p).record = none ∨ f.filling = false → t.framer p = f) ∧
      ∀ r, (s.prog p).record = some r → f.filling = true → t.framer p =
        { f with
          buffers := List.zipWith (fun b k => (if 8192 ≤ b.length then b.tail else b) ++
            [if r.soundWidth = 16 then narrow (Fin.ofNat 8 k) else delayed (Fin.ofNat 8 k)]) f.buffers r.buses
          slips := min (f.slips + f.buffers.countP fun b => decide (8192 ≤ b.length)) 65535 }

/-! ### The segment store (R105 to R125) -/

/-- R105, R109, R110, R118: what becomes of a unit that is offered. One that fits the room of the OPEN segment, which
stands at the end of the program's stream, is written whole: the stream bytes at its offset read back as its bytes, the
stream offset moves by its length, and every byte of the memory outside it reads as before. One that does not fit goes
on into a segment taken from the free list's head, whose record and counts are stated, where the take leaves the reserve
free; that the program's own take count wraps at 2^32 is the model's choice (log entry 20). A take that finds the free
list empty is refused: the picture is cut and counted, PICTURE_CUT is raised, the pressure flag set and nothing written,
and later units of the cut picture are refused without a take. -/
def Obligations.WrittenUnitsReadBack : Prop :=
  ∀ (p : Fin 4) (u : StreamUnit) (s : State),
    let off := (s.prog p).streamOffset
    let len := u.bytes.length
    let run := (s.prog p).run
    let t := (offerUnit p u s).2
    ((s.chain p).cut = some u.picture → offerUnit p u s = (false, s)) ∧
    (∀ g : Segment, SegmentsConserved s → openSeg p s = some g → g.run = run → segEnd g = off →
      (∀ x ∈ (s.chain p).segs, x ≠ g → x.run = g.run → segEnd x ≤ g.first) → (s.chain p).cut ≠ some u.picture →
      (g.fill + len ≤ 262144 →
        (offerUnit p u s).1 = true ∧ (t.prog p).streamOffset = off + len ∧ streamBytes p run off len t = u.bytes ∧
        ∀ a, a < segAddress g.number g.fill ∨ segAddress g.number g.fill + len ≤ a →
          memRead t.mem a = memRead s.mem a) ∧
      ∀ (n : Nat) (rest : List Nat), s.store.freeList = n :: rest → s.store.reserve ≤ rest.length →
        let space := 262144 - g.fill
        g.fill < 262144 → space < len → len - space < 262144 →
          (offerUnit p u s).1 = true ∧ (t.prog p).streamOffset = off + len ∧ streamBytes p run off len t = u.bytes ∧
          t.store = { s.store with freeList := rest, takes := (s.store.takes + 1) % 2 ^ 32 } ∧
          (t.chain p).takes = ((s.chain p).takes + 1) % 2 ^ 32 ∧
          (∃ x, (t.chain p).segs.getLast? = some x ∧ x.number = n ∧ x.run = run ∧ x.first = off + space ∧
            x.fill = len - space ∧ x.firstPicture = some u.picture ∧ x.lastPicture = some u.picture ∧
            x.isSealed = false ∧ x.writer = true ∧ x.pendingSend = true ∧ x.refs = 0 ∧ x.retention = false ∧
            ((∀ c k, s.clips.recs.get c = some k → k.program = p → k.st ≠ .closing) →
              x.pins = (s.chain p).openClips)) ∧
          ∀ a, (a < segAddress g.number g.fill ∨ segAddress g.number 262144 ≤ a) →
            (a < segAddress n 0 ∨ segAddress n (len - space) ≤ a) → memRead t.mem a = memRead s.mem a) ∧
    (s.store.freeList = [] → room p s < len → (s.chain p).cut ≠ some u.picture →
      (∀ c k, s.clips.recs.get c = some k → k.yieldable = true → k.st ≠ .closed ∧ k.st ≠ .shipped) →
      (offerUnit p u s).1 = false ∧
      t = { s with
        store :=
          { s.store with
            refused := min (s.store.refused + 1) 65535, pressure := true
            yields := if 0 < s.store.reserve then (s.store.yields + 1) % 2 ^ 32 else s.store.yields }
        chains := Vec.put s.chains p
          { s.chain p with cut := some u.picture, cuts := min ((s.chain p).cuts + 1) 65535 }
        link := t.link } ∧
      t.link.raises.get 11 = (s.link.raises.get 11 + 1) % 2 ^ 32 ∧ t.link.latches.get 11 = true)

/-- R106, R107, R116, R117, R122, R193, R194: SET_RESERVE. A reserve up to 1,024 is taken and stands, whatever the state
of the part, and one above is refused. With the free count at or above the new reserve and above 0 the pressure flag
clears and nothing else changes; with both 0 nothing else changes at all; with the free count below the reserve and no
clip to yield the flag is set, STORE_PRESSURE is raised when it was clear, and a yield request is counted. A yield
releases clips in CLOSED or SHIPPED whose yieldable flag is set, the oldest first, each with CLIP_YIELDED and its count,
until the free count has reached the reserve or no such clip remains; no other clip is touched. Each of them is released
while the free count, with the segments that the older ones among them gave up, is still below the reserve. The segments
that they give up join the free list's tail in ascending number. -/
def Obligations.ReserveSetsThePressure : Prop :=
  ∀ (tag : Byte) (reserve : Nat) (s : State), Free s →
    let free := s.store.freeList.length
    let yields := fun k : Clip => k.yieldable = true ∧ (k.st = .closed ∨ k.st = .shipped)
    (reserve ≤ 1024 → ∃ t, exec (.setReserve tag reserve) s = .next (answered tag 26 .done 0 0 [] t) ∧
      t.store.reserve = reserve) ∧
    (1024 < reserve → exec (.setReserve tag reserve) s = .next (answered tag 26 .outOfRange 1 0 [] s)) ∧
    (reserve ≤ 1024 → reserve ≤ free → exec (.setReserve tag reserve) s = .next (answered tag 26 .done 0 0 []
      (s.modStore fun x => { x with reserve := reserve, pressure := if 0 < free then false else x.pressure }))) ∧
    (reserve ≤ 1024 → free < reserve →
      (∀ c k, s.clips.recs.get c = some k → k.yieldable = true → k.st ≠ .closed ∧ k.st ≠ .shipped) →
      ∃ t, exec (.setReserve tag reserve) s = .next (answered tag 26 .done 0 0 [] t) ∧
        t = { s with
          store := { s.store with reserve := reserve, pressure := true, yields := (s.store.yields + 1) % 2 ^ 32 }
          link := t.link } ∧
        t.link.raises.get 10 = (if s.store.pressure then s.link.raises.get 10
          else (s.link.raises.get 10 + 1) % 2 ^ 32)) ∧
    (reserve ≤ 1024 → free < reserve → (∀ c k, s.clips.recs.get c = some k → k.creation < 2 ^ 31) →
      ∃ t, exec (.setReserve tag reserve) s = .next (answered tag 26 .done 0 0 [] t) ∧
        let gone := (List.finRange 64).filter fun c => (s.clips.recs.get c).isSome && (t.clips.recs.get c).isNone
        let sentFor := fun (cs : List (Fin 64)) (p : Fin 4) (g : Segment) (e : Entry) => match e.place with
          | .clip k q run _ off len => cs.any (fun c => k == c.1) && Fin.ofNat 4 q == p && run == g.run &&
              decide (0 < g.fill ∧ g.first < off + len ∧ off < g.first + g.fill)
          | .label .. => false
          | .live .. => false
        let pinnedBy := fun (p : Fin 4) (g : Segment) (c : Fin 64) =>
          (s.clips.recs.get c).any fun k => k.program == p && k.pinned.contains g.number
        let created := fun c : Fin 64 => ((s.clips.recs.get c).map Clip.creation).getD 0
        let heldWithout := fun (cs : List (Fin 64)) (p : Fin 4) (g : Segment) =>
          (if g.writer then 1 else 0) + (if g.pendingSend then 1 else 0) + (if g.retention then 1 else 0)
            + (g.refs - s.sched.window.countP (sentFor cs p g)) + (g.pins - cs.countP (pinnedBy p g))
        let freeWithout := fun cs : List (Fin 64) =>
          free + if cs = [] then 0 else ∑ p : Fin 4, (s.chain p).segs.countP fun g => heldWithout cs p g == 0
        (∀ c k, s.clips.recs.get c = some k → t.clips.recs.get c = some k ∨
          (t.clips.recs.get c = none ∧ yields k)) ∧
        (∀ c, s.clips.recs.get c = none → t.clips.recs.get c = none) ∧
        (reserve ≤ t.store.freeList.length ∨ ∀ c k, t.clips.recs.get c = some k → ¬yields k) ∧
        (∃ freed, t.store.freeList = s.store.freeList ++ freed ∧ freed.Pairwise (· ≤ ·)) ∧
        t.store.freeList.length = freeWithout gone ∧
        (∀ c ∈ gone, freeWithout (gone.filter fun d => decide (created d < created c)) < reserve) ∧
        (∀ c k d m, s.clips.recs.get c = some k → t.clips.recs.get c = none → t.clips.recs.get d = some m →
          yields m → k.creation ≤ m.creation) ∧
        t.clips.yielded = (fun x => (x + 1) % 2 ^ 32)^[gone.length] s.clips.yielded ∧
        t.clips.released = (fun x => (x + 1) % 2 ^ 32)^[gone.length] s.clips.released ∧
        t.link.raises.get 15 = (fun x => (x + 1) % 2 ^ 32)^[gone.length] (s.link.raises.get 15) ∧
        t.store.yields = (s.store.yields + 1) % 2 ^ 32 ∧ t.mem = s.mem ∧ t.progs = s.progs ∧ t.paths = s.paths)

/-- R106, R107, R114, R116, R121: RETENTION_RELEASE clears the retention flag of every SEALED segment whose program's
record, as the last picture tick found it (log entry 6), asks for less than the pictures since its last one; the
segments this leaves without a hold go to the free list's tail in ascending number, and every other segment keeps its
record and its place. What a picture tick finds is said of the commands that make it, and SET_RETENTION leaves it as it
stands. -/
def Obligations.RetentionReleaseFreesSegments : Prop :=
  ∀ s : State, SegmentsConserved s → ∃ (t : State) (freed : List Nat), exec .retentionRelease s = .next t ∧
    let past := fun (p : Fin 4) (g : Segment) =>
      match s.tb.retentions.get p, g.lastPicture with
      | some r, some n => decide (r < (s.tb.picture % 2 ^ 32 + 2 ^ 32 - n % 2 ^ 32) % 2 ^ 32)
      | _, _ => false
    let cleared := fun p : Fin 4 => (s.chain p).segs.map fun g =>
      if g.isSealed && g.retention && past p g then { g with retention := false } else g
    let heldBy := fun g : Segment =>
      (if g.writer then 1 else 0) + (if g.pendingSend then 1 else 0) + g.refs + (if g.retention then 1 else 0) + g.pins
    (∀ p, t.chain p = { s.chain p with segs := (cleared p).filter fun g => heldBy g != 0 }) ∧
    (∀ n, n ∈ freed ↔ ∃ p, ∃ g ∈ cleared p, heldBy g = 0 ∧ g.number = n) ∧ freed.Pairwise (· < ·) ∧
    t.store.freeList = s.store.freeList ++ freed ∧
    (freed ≠ [] → t.store.freed = (s.store.freed + freed.length) % 2 ^ 32) ∧
    t.mem = s.mem ∧ t.progs = s.progs ∧ t.sched = s.sched ∧ t.clips = s.clips ∧ t.link = s.link

/-! ### Uplink paths (R126 to R148) -/

/-- R128: CONFIGURE_PATH. The first field out of range is refused by its number, then a burst too short for a probe or
for a full live packet as field 4; a request that is taken writes the five fields, brings the estimate of a path in UP
or DEGRADED under the ceiling and the credit under the cap, and makes no allocator run. -/
def Obligations.ConfigurePathWritesFiveFields : Prop :=
  ∀ (tag : Byte) (path ceiling initial burst share rate : Nat) (s : State), Free s →
    let l : Fin 6 := Fin.ofNat 6 path
    let p := s.path l
    let e := if p.st = .up ∨ p.st = .degraded then min p.estimate ceiling else p.estimate
    let cap := (if p.st = .up ∨ p.st = .degraded then e else if p.st = .probing then rate else 0) * burst
    let field :=
      if 5 < path then 1 else if ceiling < 1000 ∨ 1000000 < ceiling then 2
      else if initial < 64 ∨ 1000000 < initial then 3 else if burst < 1 ∨ 50 < burst then 4
      else if 255 < share then 5 else if rate < 64 ∨ 2048 < rate then 6
      else if rate * burst < 8416 ∨ min initial ceiling * burst < 10464 then 4 else 0
    (field ≠ 0 → exec (.configurePath tag path ceiling initial burst share rate) s = .next
      (answered tag 30 .outOfRange field 0 [] s)) ∧
    (field = 0 → exec (.configurePath tag path ceiling initial burst share rate) s = .next
      (answered tag 30 .done 0 0 [] (s.modPath l fun p =>
        { p with
          ceiling := ceiling, initial := initial, burst := burst, repairShare := share, probeRate := rate,
          estimate := e, credit := min p.credit cap })))

/-- R126, R129 to R132, R144: what moves a path's state from outside the reports. ENABLE_PATH and carrier gained lead to
PROBING or, without a carrier, to DOWN; DISABLE_PATH, carrier lost and the silence expiry take the path out of service,
with its estimate, credit, frame and counts gone and every entry it sent last queued or given up. Every change of state
is counted, raises PATH_STATE and runs the allocator. A carrier lost in OFF or DOWN changes the reading alone, and is
counted in DOWN. -/
def Obligations.PathStatesChange : Prop :=
  ∀ (tag : Byte) (l : Fin 6) (s : State), Free s →
    let p := s.path l
    let n := min (p.stateChanges + 1) 65535
    let works := p.st = .probing ∨ p.st = .up ∨ p.st = .degraded
    let expires := s.uplink.timeoutInForce ≤ p.silence
    let out : Path :=
      { p with
        estimate := 0, credit := 0, port := none, good := 0, bad := 0, silence := 0, bitsSent := 0, bitsGranted := 0,
        packetsSent := 0 }
    let runsOnce := fun t : State => t.alloc.cause = some .pathState ∧ t.alloc.runs = (s.alloc.runs + 1) % 2 ^ 32 ∧
      t.link.raises.get 12 = (s.link.raises.get 12 + 1) % 2 ^ 32
    let noneLeft := fun t : State => ∀ e ∈ t.sched.window, e.path = l.1 → e.queued = true
    (works → exec (.enablePath tag l.1) s = .next (answered tag 31 .done 0 0 [] s)) ∧
    (p.st = .off ∨ p.st = .down → p.carrier = true → ∃ t, exec (.enablePath tag l.1) s = .next t ∧ runsOnce t ∧
      t.path l = { p with st := .probing, stateChanges := n, probeSince := false, silence := 0 }) ∧
    (p.st = .off → p.carrier = false → ∃ t, exec (.enablePath tag l.1) s = .next t ∧ runsOnce t ∧
      t.path l = { p with st := .down, stateChanges := n }) ∧
    (p.st = .down → p.carrier = false → exec (.enablePath tag l.1) s = .next (answered tag 31 .done 0 0 [] s)) ∧
    (p.st = .off → exec (.disablePath tag l.1) s = .next (answered tag 32 .done 0 0 [] s)) ∧
    (p.st = .down → ∃ t, exec (.disablePath tag l.1) s = .next t ∧ runsOnce t ∧
      t.path l = { p with st := .off, stateChanges := n }) ∧
    (works → ∃ t, exec (.disablePath tag l.1) s = .next t ∧ runsOnce t ∧ noneLeft t ∧
      t.path l = { out with st := .off, stateChanges := n }) ∧
    (p.carrier = true → exec (.carrierGained l) s = .next s) ∧
    (p.carrier = false → p.st = .down → ∃ t, exec (.carrierGained l) s = .next t ∧ runsOnce t ∧
      t.path l = { p with st := .probing, carrier := true, stateChanges := n, probeSince := false, silence := 0 }) ∧
    (p.carrier = false → p.st ≠ .down →
      exec (.carrierGained l) s = .next (s.modPath l fun p => { p with carrier := true })) ∧
    (p.carrier = true → works → ∃ t, exec (.carrierLost l) s = .next t ∧ runsOnce t ∧ noneLeft t ∧
      t.path l =
        { out with
          st := .down, carrier := false, stateChanges := n, carrierLosses := min (p.carrierLosses + 1) 65535 }) ∧
    (p.carrier = true → p.st = .off ∨ p.st = .down → ∃ t, exec (.carrierLost l) s = .next t ∧ t.alloc = s.alloc ∧
      t.link.raises.get 12 = s.link.raises.get 12 ∧
      t.path l =
        { p with
          carrier := false
          carrierLosses := if p.st = .off then p.carrierLosses else min (p.carrierLosses + 1) 65535 }) ∧
    (p.carrier = false → p.st = .off ∨ p.st = .down → ∃ t, exec (.carrierLost l) s = .next t ∧ t.path l = p) ∧
    (works → expires → p.carrier = false → ∃ t,
      exec (.silenceExpiry l) s = .next t ∧ runsOnce t ∧ noneLeft t ∧
      t.path l = { out with st := .down, stateChanges := n, silences := min (p.silences + 1) 65535 }) ∧
    (works → expires → p.carrier = true → ∃ t, exec (.silenceExpiry l) s = .next t ∧ noneLeft t ∧
      t.path l =
        { out with
          st := .probing, stateChanges := min (n + 1) 65535, silences := min (p.silences + 1) 65535,
          probeSince := false } ∧
      t.alloc.runs = (s.alloc.runs + 2) % 2 ^ 32 ∧ t.link.raises.get 12 = (s.link.raises.get 12 + 2) % 2 ^ 32)

/-- R126, R133 to R136, R149 to R155, R157 to R163, R167, R214: what the only path with an idle port sends, at the
FRAME_SENT that makes the port idle or at a PACING_TICK, after the tick has given every path its credit and the clip
bucket its bits, where no timer expires. FRAME_SENT at an idle port does nothing. A path in PROBING whose credit allows
it sends a probe, with the payload of its number and path. A path in UP or DEGRADED walks the class order over all that
waits: the label of the label queue's head; while its repair counter is below its repair share, the oldest queued entry
that another path sent last, or the oldest of all when it is the only path that carries packets; the live data, none of
it stale, of the first program after the one last served that has a candidate, RUNNING or DRAINING; the oldest queued
entry, of those that another path sent last first; and the next bytes of the clip cursor where the clip bucket pays for
them. The candidate is taken when the credit pays for it, and is waited for when only the cap does. The port sends the
packet's frame, the credit pays its bits, the path sequence, the repair counter and the send number step, and the entry
joins the window; the label queue, the live cursor, the resent entry or the clip cursor and its bucket follow. That the
resend of a clip's last packet carries the last-of-clip flag is the model's choice (log entry 27). -/
def Obligations.FrameSentSendsLiveData : Prop :=
  ∀ (l : Fin 6) (c : Instr) (s0 s : State),
    ((s0.path l).port = none → exec (.frameSent l) s0 = .next s0) ∧
    (let refilled := fun p : Path =>
      if p.st = .probing then
        { p with credit := min (p.credit + p.probeRate) (p.probeRate * p.burst), silence := p.silence + 1 }
      else if p.st = .up ∨ p.st = .degraded then
        { p with
          credit := min (p.credit + p.estimate) (p.estimate * p.burst)
          bitsGranted := (p.bitsGranted + p.estimate) % 2 ^ 48
          silence := p.silence + 1 }
      else p
    let idles := c = .frameSent l ∧ (s0.path l).port ≠ none ∧ s = s0.modPath l fun p => { p with port := none }
    let ticks := c = .pacingTick ∧ s0.tb.allocDue = false ∧ (s0.path l).port = none ∧
      s = { s0 with
        tb := { s0.tb with
          pacing := (s0.tb.pacing + 1) % 2 ^ 32
          divider := (s0.tb.divider + 1) % 100
          allocDue := (s0.tb.divider + 1) % 100 == 0 }
        paths := Vec.tab fun k => refilled (s0.path k)
        uplink := { s0.uplink with timeoutInForce := s0.uplink.silenceTimeout }
        sched := { s0.sched with
          bucket := min (s0.sched.bucket + s0.alloc.clipRate) (100 * s0.alloc.clipRate)
          deadlineInForce := s0.sched.deadline } } ∧
      (∀ k, (s.path k).silence < s.uplink.silenceTimeout) ∧
      ∀ e ∈ s.sched.window, e.isLive = true → age s e < s.sched.deadline
    idles ∨ ticks → (∀ k, k ≠ l → (s.path k).port ≠ none) →
      let x := s.path l
      let d := s.sched
      let seq := (x.sequence + 1) % 2 ^ 16
      let bits := fun payload : List Byte => (28 + payload.length) * 8
      let cap := x.estimate * x.burst
      let header := fun (cls program clip run flags revision reference picture : Nat) =>
        Header.mk cls program clip run l.1 flags revision seq d.nextSend reference picture
      let sends := fun (t : State) (h : Header) (payload : List Byte) =>
        t.path l =
          { x with
            credit := x.credit - bits payload, sequence := seq, repair := (x.repair + 1) % 2 ^ 8
            bitsSent := (x.bitsSent + bits payload) % 2 ^ 48, packetsSent := min (x.packetsSent + 1) 65535
            port := some (ethernetFrame l.1 (packetBytes h payload)) } ∧
        t.sched.nextSend = (d.nextSend + 1) % 2 ^ 32
      let keeps := ∃ t, exec c s0 = .next t ∧ t.path l = x ∧ t.sched.window = d.window ∧ t.sched.nextSend = d.nextSend
      let offers := fun (h : Header) (payload : List Byte) (follows : State → Prop) =>
        (bits payload ≤ cap → bits payload ≤ x.credit → ∃ t, exec c s0 = .next t ∧ sends t h payload ∧ follows t) ∧
        (bits payload ≤ cap → x.credit < bits payload → keeps)
      let entry := fun place : Place => Entry.mk d.nextSend place l.1 s.tb.pacing 0 false
      let drainsWait := ∀ q, (s.prog q).st = .draining →
        if (s.prog q).writingEnded then (s.live q).cursor ≠ some ((s.prog q).run, (s.prog q).streamOffset)
        else (s.prog q).drainPicture = some s.tb.picture
      let clipsWait := (s.clips.shipQueue = [] ∨ ∃ i k, s.clips.recs.get i = some k ∧ k.st = .shipping) ∧
        ∀ k, d.clipCursor = some k → k.next ≠ k.out
      let live := fun q => match (s.live q).cursor with
        | none => 0
        | some (_, off) =>
          let n := (s.prog q).streamOffset - off
          if (s.prog q).st ≠ .running ∧ (s.prog q).st ≠ .draining then 0
          else if 1280 ≤ n then 1280
          else if (s.live q).closing ∨ (s.prog q).writingEnded then n
          else 0
      let fresh := ∀ q run off u, (s.live q).cursor = some (run, off) → unitAt q run off s = some u →
        isStale s u.picture = false
      let turn := fun q : Fin 4 => (q - (d.lastServed + 1)).1
      let reliable := (d.window.filter fun e => !e.isLive).length
      let queued := d.window.filter fun e => e.queued
      let foreign := queued.filter fun e => e.path != l.1
      let alone := ∀ k, k ≠ l → (s.path k).st ≠ .up ∧ (s.path k).st ≠ .degraded
      let noLabel := d.labelQueue = [] ∨ 2048 ≤ reliable
      let noRepair := x.repairShare ≤ x.repair ∨ (foreign = [] ∧ (queued = [] ∨ ¬alone))
      let noLive := fresh ∧ ∀ q, live q = 0
      let oldest := fun e => foreign.head? = some e ∨ (foreign = [] ∧ queued.head? = some e)
      let repairs := fun e => x.repair < x.repairShare ∧ oldest e ∧ (foreign = [] → alone)
      let labelled := fun (i : Fin 64) (k : Clip) =>
        u8 i.1 ++ u32 k.creation ++ u8 k.revision ++ u8 k.program.1 ++ u8 k.run ++ u8 k.source.code
          ++ u32 k.inPicture ++ encTimecode k.inTimecode ++ u48 k.inOffset ++ u32 (k.outPicture.getD 0)
          ++ (match k.outTimecode with | some y => [1] ++ encTimecode y | none => [0, 0, 0, 0, 0])
          ++ u48 (k.outOffset.getD 0) ++ u8 (if k.trimmed then 1 else 0) ++ u8 k.rating ++ u8 k.text.length ++ k.text
          ++ u8 k.tags.length ++ k.tags
      (x.st = .probing → 8416 ≤ x.credit → ∃ t, exec c s0 = .next t ∧
        let number := (x.probeNumber + 1) % 2 ^ 32
        let seed := if number % 2 ^ 20 * 8 + l.1 = 0 then 1 else number % 2 ^ 20 * 8 + l.1
        let bit := fun r : BitVec 23 => r.getLsbD 22 != r.getLsbD 17
        let step := fun r : BitVec 23 => (r <<< 1) ||| (if bit r then 1#23 else 0#23)
        let payload : List Byte := (List.range 1024).map fun k => BitVec.ofNat 8
          (∑ j : Fin 8, if bit (step^[8 * k + j.1] (BitVec.ofNat 23 seed)) then 2 ^ (7 - j.1) else 0)
        t.path l =
          { x with
            credit := x.credit - 8416, probeNumber := number, probeSince := true
            bitsSent := (x.bitsSent + 8416) % 2 ^ 48, packetsSent := min (x.packetsSent + 1) 65535
            port := some (ethernetFrame l.1 (packetBytes ⟨3, 255, 255, 0, l.1, 0, 0, 0, d.nextSend, number, 0⟩ payload)) } ∧
        t.sched.nextSend = (d.nextSend + 1) % 2 ^ 32) ∧
      (x.st = .up ∨ x.st = .degraded → drainsWait →
        (∀ (i : Fin 64) (rest : List Nat) (k : Clip), d.labelQueue = i.1 :: rest → s.clips.recs.get i = some k →
          reliable < 2048 → offers (header 0 k.program.1 i.1 k.run 0 k.revision 0 0) (labelled i k) fun t =>
            t.sched.labelQueue = rest ∧ t.sched.window = d.window ++ [entry (.label i.1 k.revision)] ∧
            ∃ m, t.clips.recs.get i = some m ∧ m.revision = k.revision ∧
              m.label = if k.label = .pending then LabelState.sent else k.label) ∧
        (∀ e : Entry, noLabel → clipsWait → repairs e ∨ (noRepair ∧ noLive ∧ oldest e) → e.send ≠ d.nextSend →
          let resends := fun (h : Header) (payload : List Byte) (place : Place) => offers h payload fun t =>
            t.sched.window = (d.window.filter fun y => y.send != e.send) ++
              [{ e with
                send := d.nextSend, place := place, path := l.1, resends := min (e.resends + 1) 255, queued := false }] ∧
            t.sched.resent = (d.resent + 1) % 2 ^ 32
          (∀ (p : Fin 4) run segment off len u, e.place = .live p.1 run segment off len → unitAt p run off s = some u →
            resends (header 2 p.1 255 run 1 0 off u.picture) (streamBytes p run off len s) e.place) ∧
          (∀ (i : Fin 64) (p : Fin 4) run segment off len u k, e.place = .clip i.1 p.1 run segment off len →
            unitAt p run off s = some u → s.clips.recs.get i = some k →
            resends (header 1 p.1 i.1 run (if k.outOffset = some (off + len) then 3 else 1) 0 off u.picture)
              (streamBytes p run off len s) e.place) ∧
          (∀ (i : Fin 64) revision k, e.place = .label i.1 revision → s.clips.recs.get i = some k →
            resends (header 0 k.program.1 i.1 k.run 1 k.revision 0 0) (labelled i k) (.label i.1 k.revision))) ∧
        (∀ (p : Fin 4) (run off : Nat) (u : UnitRef), noLabel → clipsWait → noRepair → fresh →
          (∀ q, turn q < turn p → live q = 0) → live p ≠ 0 → (s.live p).cursor = some (run, off) →
          unitAt p run off s = some u →
          ((s.prog p).st = .draining → (s.prog p).writingEnded = true → off + live p ≠ (s.prog p).streamOffset) →
          (d.window.filter fun e => e.isLive).length < 6144 →
          offers (header 2 p.1 255 run 0 0 off u.picture) (streamBytes p run off (live p) s) fun t =>
            t.sched.lastServed = p ∧
            t.sched.window = d.window ++ [entry (.live p.1 run (segmentAt p run off s) off (live p))] ∧
            t.live p =
              { s.live p with cursor := some (run, off + live p), packets := ((s.live p).packets + 1) % 2 ^ 32 }) ∧
        (∀ (k : ClipCursor) (p : Fin 4) (u : UnitRef), d.clipCursor = some k → k.next < k.out → k.program = p.1 →
          unitAt p k.run k.next s = some u → d.labelQueue = [] → queued = [] → noLive → clipsWait → reliable < 2048 →
          let len := min 1280 (k.out - k.next)
          let payload := streamBytes p k.run k.next len s
          (bits payload ≤ cap → d.bucket < bits payload → keeps) ∧
          (bits payload ≤ d.bucket →
            offers (header 1 p.1 k.clip k.run (if k.next + len = k.out then 2 else 0) 0 k.next u.picture) payload
              fun t =>
                t.sched.clipCursor = some { k with next := k.next + len } ∧ t.sched.bucket = d.bucket - bits payload ∧
                t.sched.window =
                  d.window ++ [entry (.clip k.clip p.1 k.run (segmentAt p k.run k.next s) k.next len)])) ∧
        (noLabel → queued = [] → noLive → clipsWait → d.clipCursor = none → keeps)))

/-- R60, R145: SET_UPLINK. The first field out of range is refused by its number and changes nothing; a request that is
taken writes every setting at once, forgets the last report number when the flag asks for it, and makes one allocator
run. -/
def Obligations.SetUplinkWritesEverySetting : Prop :=
  ∀ (tag : Byte) (headroom reserve floor silence threshold forget : Nat) (s : State), Free s →
    let field := if headroom < 8 ∨ 16 < headroom then 1 else if 2000 < reserve then 2 else if 50000 < floor then 3
      else if silence < 200 ∨ 5000 < silence then 4 else if threshold < 1 ∨ 255 < threshold then 5
      else if 1 < forget then 6 else 0
    (field ≠ 0 → exec (.setUplink tag headroom reserve floor silence threshold forget) s = .next
      (answered tag 33 .outOfRange field 0 [] s)) ∧
    (field = 0 → ∃ t, exec (.setUplink tag headroom reserve floor silence threshold forget) s = .next
        (answered tag 33 .done 0 0 [] t) ∧
      t = { s with
        uplink :=
          { s.uplink with
            silenceTimeout := silence, badThreshold := threshold,
            lastReport := if forget = 1 then none else s.uplink.lastReport }
        alloc := t.alloc
        sched := { s.sched with bucket := min s.sched.bucket (100 * t.alloc.clipRate) }
        link := t.link } ∧
      t.alloc.headroom = headroom ∧ t.alloc.labelReserve = reserve ∧ t.alloc.clipFloor = floor ∧
      t.alloc.cause = some .uplinkSettings ∧ t.alloc.runs = (s.alloc.runs + 1) % 2 ^ 32)

/-- R138, R139, R143, R164 to R166, R191, R216: REPORT. In OFF a frame is discarded; a frame that is no report counts as
malformed at its port; a report that is not newer than the last is stale and discarded whole. Any other report, bytes of
padding after it, is taken: every entry that its cumulative ack covers leaves the window and every abandoned number it
covers counts as a late ack; an entry that a loss range covers is queued, or given up when it is live and past its
limit; each path takes the first entry that names it (what a path makes of it is said of the entry), the others are
ignored and counted; the interval counts restart; and a clip request queues the CLOSED clip it matches, or is refused.
The window is stated for a report without path entries, and the clip for a report of one clip request. -/
def Obligations.ReportsAreTakenInOrder : Prop :=
  ∀ (l : Fin 6) (s : State),
    ((s.path l).st = .off → ∀ frame, exec (.report l frame) s = .next s) ∧
    ((s.path l).st ≠ .off → ∀ frame,
      (frameReport frame = none → exec (.report l frame) s = .next
        (s.modPath l fun p => { p with malformed := min (p.malformed + 1) 65535 })) ∧
      (∀ r n, frameReport frame = some r → s.uplink.lastReport = some n → newer16 r.number n = false →
        exec (.report l frame) s = .next (s.modUplink fun u => { u with stale := min (u.stale + 1) 65535 }))) ∧
    ((s.path l).st ≠ .off → WindowBounded s → ∀ (n a : Nat) (address padding : List Byte) (losses : List LossRange)
      (entries : List PathEntry) (requests : List ClipRequest), n < 2 ^ 16 → a < 2 ^ 32 → address.length = 12 →
      losses.length ≤ 16 → entries.length ≤ 16 → requests.length ≤ 4 →
      (∀ r ∈ losses, r.first < 2 ^ 32 ∧ r.last < 2 ^ 32) →
      (∀ e ∈ entries, e.path < 256 ∧ e.received < 2 ^ 16 ∧ e.missing < 2 ^ 16) →
      (∀ q ∈ requests, q.clip < 256 ∧ q.creation < 2 ^ 32) →
      (∀ m, s.uplink.lastReport = some m → newer16 n m = true) → (∀ k, (s.path k).port ≠ none) →
      let content := [1#8, 4#8] ++ u16 n ++ u32 a ++ u8 losses.length ++ u8 entries.length ++ u8 requests.length
        ++ (losses.flatMap fun r => u32 r.first ++ u32 r.last)
        ++ (entries.flatMap fun e => u8 e.path ++ u16 e.received ++ u16 e.missing)
        ++ requests.flatMap fun q => u8 q.clip ++ u32 q.creation
      let frame := address ++ u16 0x88B5 ++ content ++ u16 (crc16 content) ++ padding
      let covered := fun m => atOrBelow32 m a
      let since := fun x y : Nat => (x % 2 ^ 32 + 2 ^ 32 - y % 2 ^ 32) % 2 ^ 32
      let lost := fun e : Entry => losses.any fun r =>
        !newer32 r.first r.last && decide (since e.send r.first ≤ since r.last r.first)
      let late := fun e : Entry => e.isLive && !e.queued &&
        !(decide (e.resends < 3) && decide (since s.tb.pacing e.firstSent < s.sched.deadline - s.sched.guardMs))
      let left := s.sched.window.filter fun e => !covered e.send
      let ignored := (entries.zipIdx.filter fun x =>
        decide (6 ≤ x.1.path) || (entries.take x.2).any fun e => e.path == x.1.path).length
      ∃ t, exec (.report l frame) s = .next t ∧
        t.uplink =
          { s.uplink with
            lastReport := some n, accepted := (s.uplink.accepted + 1) % 2 ^ 32
            ignored := min (s.uplink.ignored + ignored) 65535 } ∧
        t.sched.acked = (s.sched.acked + s.sched.window.countP fun e => covered e.send) % 2 ^ 32 ∧
        t.sched.lateAcks = (s.sched.lateAcks + s.sched.abandoned.countP covered) % 2 ^ 32 ∧
        (entries = [] →
          let numbers := (s.sched.abandoned.filter fun m => !covered m) ++
            (left.filter fun e => lost e && late e).map Entry.send
          t.sched.window = ((left.filter fun e => !(lost e && late e)).map fun e =>
            if lost e then { e with queued := true } else e) ∧
          t.sched.byLoss = (s.sched.byLoss + left.countP fun e => lost e && late e) % 2 ^ 32 ∧
          t.sched.abandoned = numbers.drop (numbers.length - 1024)) ∧
        (∀ k : Fin 6, t.path k =
          { (match entries.find? fun e => e.path == k.1 with
              | some e => (takeEntry k e s).path k
              | none => s.path k) with bitsSent := 0, bitsGranted := 0, packetsSent := 0 }) ∧
        ∀ q, requests = [q] →
          let closed := fun (c : Fin 64) (k : Clip) => q.clip = c.1 ∧ s.clips.recs.get c = some k ∧
            k.creation = q.creation ∧ k.st = .closed
          (∀ c k x d m, closed c k → s.sched.clipCursor = some x → x.next ≠ x.out →
            s.clips.recs.get d = some m → m.st = .shipping → (∀ p, (s.prog p).st ≠ .draining) →
            t.clips.homeAccepted = (s.clips.homeAccepted + 1) % 2 ^ 32 ∧
            t.clips.shipQueue = s.clips.shipQueue ++ [c.1] ∧
            ∃ h, t.clips.recs.get c = some h ∧ h.st = .queued ∧ h.shipCursor = none) ∧
          ((∀ c k, ¬closed c k) →
            t.clips.homeAccepted = s.clips.homeAccepted ∧
            t.clips.homeRefused = min (s.clips.homeRefused + 1) 65535 ∧
            t.link.raises.get 16 = (s.link.raises.get 16 + 1) % 2 ^ 32 ∧ t.link.latches.get 16 = true))

/-- R137, R140 to R142: the entry that an accepted report hands to a path. It answers the probe of a PROBING path; at a
path in UP or DEGRADED the first class that fits cuts the estimate by a quarter, raises it by a thirty-second or leaves
it. A bad entry moves a path in UP to DEGRADED; in DEGRADED good entries and empty ones are counted, the third good one
in a row leads to UP and the third empty one to DOWN. -/
def Obligations.ReportEntriesMoveTheEstimate : Prop :=
  ∀ (l : Fin 6) (e : PathEntry) (s : State),
    let p := s.path l
    let t := takeEntry l e s
    let sum := e.received + e.missing
    let empty := e.received = 0 ∧ 4 ≤ p.packetsSent
    let bad := empty ∨ (sum ≠ 0 ∧ s.uplink.badThreshold * sum < e.missing * 256)
    let loaded := 0 < p.bitsGranted ∧ p.bitsGranted * 3 ≤ p.bitsSent * 4
    let cut := max 64 (p.estimate - p.estimate / 4)
    let raised := min p.ceiling (p.estimate + max 8 (p.estimate / 32))
    let bads := min (p.badReports + 1) 65535
    let goods := min (p.goodReports + 1) 65535
    let becomes := fun q : Path => t = s.modPath l fun _ => q
    (p.st = .off ∨ p.st = .down → t = s) ∧
    (p.st = .probing → 0 < e.received → p.probeSince = true → (t.path l).st = .up ∧
      (t.path l).estimate = min p.initial p.ceiling ∧
      (t.path l).credit = min p.credit (min p.initial p.ceiling * p.burst)) ∧
    (p.st = .probing → e.received = 0 ∨ p.probeSince = false → becomes { p with silence := 0 }) ∧
    (p.st = .up →
      (bad → t.path l =
        { p with
          st := .degraded, silence := 0, estimate := cut, credit := min p.credit (cut * p.burst), good := 0,
          bad := if empty then 1 else 0, badReports := bads, stateChanges := min (p.stateChanges + 1) 65535 }) ∧
      (¬bad → sum = 0 → becomes { p with silence := 0 }) ∧
      (¬bad → sum ≠ 0 → loaded → becomes { p with silence := 0, estimate := raised, goodReports := goods }) ∧
      (¬bad → sum ≠ 0 → ¬loaded → becomes { p with silence := 0, goodReports := goods })) ∧
    (p.st = .degraded →
      (empty → p.bad ≠ 2 → becomes
        { p with
          silence := 0, estimate := cut, credit := min p.credit (cut * p.burst), good := 0, bad := p.bad + 1,
          badReports := bads }) ∧
      (empty → p.bad = 2 → (t.path l).st = .down ∧ (t.path l).estimate = 0 ∧ (t.path l).credit = 0) ∧
      (bad → ¬empty → becomes
        { p with
          silence := 0, estimate := cut, credit := min p.credit (cut * p.burst), good := 0, bad := 0,
          badReports := bads }) ∧
      (¬bad → sum = 0 → p.good < 3 → p.bad < 3 → becomes { p with silence := 0 }) ∧
      (¬bad → sum ≠ 0 → p.good ≠ 2 → loaded → becomes
        { p with silence := 0, estimate := raised, good := p.good + 1, bad := 0, goodReports := goods }) ∧
      (¬bad → sum ≠ 0 → p.good ≠ 2 → ¬loaded → becomes
        { p with silence := 0, good := p.good + 1, bad := 0, goodReports := goods }) ∧
      (¬bad → sum ≠ 0 → p.good = 2 → (t.path l).st = .up ∧ (t.path l).good = 0 ∧ (t.path l).bad = 0 ∧
        (t.path l).estimate = if loaded then raised else p.estimate))

/-! ### Scheduler and resend window (R149 to R174) -/

/-- R171: SET_DELIVERY. The deadline is checked before the guard; a guard not below the deadline is refused as field 2,
which is the model's reading (log entry 17). A request that is taken writes both values and nothing else; a pacing tick
ages the entries by the deadline that then stands, so that every live entry it leaves in the window is younger than it,
and that deadline is the one that ENTRY_AGE_EXPIRY finds until the next tick, which is the model's reading of that row
(log entry 6); the values after hard reset; and RESTART keeps both. -/
def Obligations.SetDeliveryWritesBothValues : Prop :=
  (∀ (tag : Byte) (deadline resend : Nat) (s : State), Free s →
    let inRange := 50 ≤ deadline ∧ deadline ≤ 2000
    let fits := resend ≤ 500 ∧ resend < deadline
    (inRange → fits → exec (.setDelivery tag deadline resend) s = .next
      (answered tag 36 .done 0 0 [] (s.modSched fun c => { c with deadline := deadline, guardMs := resend }))) ∧
    (¬inRange → exec (.setDelivery tag deadline resend) s = .next (answered tag 36 .outOfRange 1 0 [] s)) ∧
    (inRange → ¬fits → exec (.setDelivery tag deadline resend) s = .next (answered tag 36 .outOfRange 2 0 [] s)) ∧
    ∃ t, exec (.restart tag) s = .next t ∧ t.sched.deadline = s.sched.deadline ∧
      t.sched.guardMs = s.sched.guardMs) ∧
  (∀ s : State, ∃ t, exec .pacingTick s = .next t ∧ t.sched.deadlineInForce = s.sched.deadline ∧
    (0 < s.sched.deadline → ∀ e ∈ t.sched.window, e.isLive = true →
      (t.tb.pacing % 2 ^ 32 + 2 ^ 32 - e.firstSent % 2 ^ 32) % 2 ^ 32 < s.sched.deadline)) ∧
  State.reset.sched.deadline = 400 ∧ State.reset.sched.guardMs = 50

/-- R165, R169, R171: ENTRY_AGE_EXPIRY. A live entry of that send number whose age has reached the deadline that stood
at the last pacing tick (R171; log entry 6) leaves the window with the age cause, and its number joins the abandoned
list, which keeps the newest 1,024; every other entry stays, and the rest of the part but the store stands. -/
def Obligations.AgedEntriesAreAbandoned : Prop :=
  ∀ (n : Nat) (s : State), ∃ t, exec (.entryAgeExpiry n) s = .next t ∧
    let aged := fun e : Entry =>
      match e.place with
      | .live .. =>
        e.send == n && decide (s.sched.deadlineInForce ≤ (s.tb.pacing % 2 ^ 32 + 2 ^ 32 - e.firstSent % 2 ^ 32) % 2 ^ 32)
      | .label .. => false
      | .clip .. => false
    let numbers := s.sched.abandoned ++ List.replicate (s.sched.window.countP aged) n
    t = { s with
      sched :=
        { s.sched with
          window := s.sched.window.filter fun e => !aged e
          abandoned := numbers.drop (numbers.length - 1024)
          byAge := (s.sched.byAge + s.sched.window.countP aged) % 2 ^ 32 }
      store := t.store
      chains := t.chains }

/-! ### The clip log (R175 to R197) -/

/-- R175, R177 to R179: MARK_IN. The checks in their order: that the selector and its value are one field, field 2, so
that the yieldable flag is field 3, and that the range checks come before CLIP_OPEN and WRONG_STATE, is the model's
reading (log entry 17). A request that is taken makes the lowest FREE record an OPEN clip of the program's run. Its in
point is the head of the requested picture where the unbroken tail holds it; else the oldest head of the tail, TRIMMED,
where the picture is older than that; else the last head of the tail that is of an older picture (in stream order, the
model's choice where the heads span over half the picture range: log entry 39); and the end of the stream where the tail
holds no head. A TRIMMED clip is counted and raises CLIP_TRIMMED. Every segment of the run that the
range from the in point on meets is pinned once, an OPEN segment by all that it can still hold (log entry 12). -/
def Obligations.MarkInOpensAClip : Prop :=
  ∀ (tag : Byte) (p : Fin 4) (selector value yieldable : Nat) (s : State), Free s →
    let opens := fun (c : Fin 64) => ∃ k, s.clips.recs.get c = some k ∧ k.program = p ∧ k.st = .opened
    let field := if 1 < selector ∨ (selector = 1 ∧ 65535 < value) then 2 else if 1 < yieldable then 3 else 0
    let ok := field = 0
    let call := Instr.markIn tag p.1 selector value yieldable
    let asked := if selector = 1 then (s.tb.picture % 2 ^ 32 + 2 ^ 32 - value % 2 ^ 32) % 2 ^ 32 else value
    let start := (s.prog p).firstPicture.getD s.tb.picture
    let latest := if newer32 asked s.tb.picture then s.tb.picture else asked
    let q := if newer32 start latest then start else latest
    let heads := tailHeads p (s.prog p).run s
    let begins := fun (k : Clip) (m : Mark) => k.inPicture = m.picture ∧ k.inOffset = m.offset ∧
      k.inTimecode = headLabel p (s.prog p).run m.offset s
    (∀ n, 3 < n → exec (.markIn tag n selector value yieldable) s = .next (answered tag 38 .outOfRange 1 0 [] s)) ∧
    (¬ok → exec call s = .next (answered tag 38 .outOfRange field 0 [] s)) ∧
    (ok → ∀ c, opens c → (∀ d, d < c → ¬opens d) → exec call s = .next (answered tag 38 .clipOpen c.1 0 [] s)) ∧
    (ok → (∀ c, ¬opens c) → (s.prog p).st ≠ .running →
      exec call s = .next (answered tag 38 .wrongState p.1 0 [] s)) ∧
    (ok → (∀ c, ¬opens c) → (s.prog p).st = .running → (∀ c, s.clips.recs.get c ≠ none) →
      exec call s = .next (answered tag 38 .clipLogFull 64 0 [] s)) ∧
    (ok → (∀ c, ¬opens c) → (s.prog p).st = .running → ∀ c : Fin 64, s.clips.recs.get c = none →
      (∀ d, d < c → s.clips.recs.get d ≠ none) → ∃ (t : State) (k : Clip),
        exec call s = .next (answered tag 38 .done 0 0
          (u8 c.1 ++ u32 k.creation ++ u32 k.inPicture ++ u48 k.inOffset ++ flag k.trimmed) t) ∧
        t = { s with chains := t.chains, clips := t.clips, link := t.link } ∧
        t.clips = { s.clips with
          recs := Vec.put s.clips.recs c (some k)
          nextCreation := if s.clips.nextCreation + 1 = 2 ^ 32 then 1 else s.clips.nextCreation + 1
          created := (s.clips.created + 1) % 2 ^ 32
          trims := if k.trimmed then min (s.clips.trims + 1) 65535 else s.clips.trims } ∧
        t.link.raises.get 13 = (if k.trimmed then (s.link.raises.get 13 + 1) % 2 ^ 32 else s.link.raises.get 13) ∧
        k.st = .opened ∧ k.program = p ∧ k.run = (s.prog p).run ∧ k.creation = s.clips.nextCreation ∧
        k.source = .host ∧ k.yieldable = (yieldable == 1) ∧ k.revision = 0 ∧ k.label = .pending ∧ k.text = [] ∧
        k.tags = [] ∧ k.rating = 0 ∧ k.outPicture = none ∧
        (∀ m, heads.find? (fun m => m.picture == q) = some m → begins k m ∧ k.inPicture = q ∧ k.trimmed = false) ∧
        ((∀ m ∈ heads, m.picture ≠ q) → ∀ oldest rest, heads = oldest :: rest →
          (newer32 oldest.picture q = true → begins k oldest ∧ k.trimmed = true) ∧
          (newer32 oldest.picture q = false → ∀ before m after, heads = before ++ m :: after →
            newer32 q m.picture = true → (∀ x ∈ after, newer32 q x.picture = false) →
            begins k m ∧ k.trimmed = false)) ∧
        (heads = [] → k.inPicture = s.tb.picture ∧ k.inOffset = (s.prog p).streamOffset ∧ k.inTimecode = s.tb.label ∧
          k.trimmed = newer32 s.tb.picture q) ∧
        (t.chain p).openClips = 1 ∧
        (t.chain p).segs = (s.chain p).segs.map fun g =>
          if g.run = (s.prog p).run ∧ ((g.isSealed = true ∧ 0 < g.fill ∧ k.inOffset < g.first + g.fill) ∨
              (g.isSealed = false ∧ k.inOffset < g.first + 262144)) then { g with pins := g.pins + 1 }
          else g)

/-- R180 to R183: MARK_OUT and PERIOD_END. Without an OPEN clip MARK_OUT answers NO_SUCH_CLIP. While the program is
RUNNING, an out picture whose period has not ended leaves the clip CLOSING for it, and one that has ended closes it at
that picture. The period end closes a CLOSING clip of the program whose out picture's period has ended, and leaves one
whose period goes on. -/
def Obligations.MarkOutClosesTheClip : Prop :=
  ∀ (p : Fin 4) (s : State), (s.prog p).st = .running →
    let opens := fun (c : Fin 64) => ∃ k, s.clips.recs.get c = some k ∧ k.program = p ∧ k.st = .opened
    let stays := fun (c : Fin 64) =>
      (∀ i ∈ s.clips.shipQueue, i % 64 ≠ c.1) ∧ ∀ k, s.sched.clipCursor = some k → k.clip % 64 ≠ c.1
    let older := fun a b : Nat => newer32 b a = true
    (∀ (tag : Byte) (selector value : Nat), Free s → selector ≤ 1 →
      ((∀ c, ¬opens c) →
        exec (.markOut tag p.1 selector value) s = .next (answered tag 39 .noSuchClip p.1 0 [] s)) ∧
      ∀ (c : Fin 64) (k : Clip), s.clips.recs.get c = some k → k.program = p → k.st = .opened →
        (∀ d, d < c → ¬opens d) → k.shipAtClose = false → stays c →
        let now := s.tb.picture
        let v := if selector = 1 ∨ newer32 value now = true then now else value
        let q := if selector = 0 ∧ older v k.inPicture then k.inPicture else v
        ∃ (t : State) (m : Clip), exec (.markOut tag p.1 selector value) s = .next t ∧
          t.clips.recs.get c = some m ∧
          (¬older q now → m.st = .closing ∧ m.requestedOut = some q ∧ m.pinned = k.pinned ∧
            t.link.replies = s.link.replies ++ [.made ⟨tag, 39, .done, 0, 0, u8 c.1 ++ u32 q ++ u8 2⟩]) ∧
          (older q now → m.st = .closed ∧ m.outPicture = some q ∧ m.requestedOut = none ∧
            (∀ off, soundLookup p k.run q s = some off → m.outOffset = some (max k.inOffset off)) ∧
            t.link.replies = s.link.replies ++ [.made ⟨tag, 39, .done, 0, 0, u8 c.1 ++ u32 q ++ u8 3⟩]) ∧
          (t.chain p).openClips = 0) ∧
    ∀ (c : Fin 64) (k : Clip) (q : Nat), s.clips.recs.get c = some k → k.program = p → k.st = .closing →
      k.requestedOut = some q → k.shipAtClose = false → stays c →
      ∃ (t : State) (m : Clip), exec (.periodEnd p) s = .next t ∧ t.clips.recs.get c = some m ∧
        (older q s.tb.picture → m.st = .closed ∧ m.outPicture = some q ∧ m.outTimecode = some s.tb.endedLabel ∧
          m.requestedOut = none ∧ m.outOffset =
            some (max k.inOffset ((soundLookup p k.run q s).getD (s.prog p).streamOffset))) ∧
        (¬older q s.tb.picture → m.st = .closing ∧ m.requestedOut = some q)

/-- R185, R186: SET_MARK_LINE and MARK_LINE_PRESS. The request writes the line's three values and keeps its press and
counts. A press on an unbound line is refused; within 200 pacing ticks of the last accepted one it is a bounce; an
accepted press marks in with the line's pre-roll when the program is RUNNING without an OPEN clip, marks out when it has
one, and is refused when the program does not run. -/
def Obligations.MarkLinesMarkInAndOut : Prop :=
  ∀ (m : Fin 2) (s : State),
    let l := s.line m
    let becomes := fun x : MarkLine =>
      (exec (.markLinePress m) s : Host.Outcome State Fault Refusal) = .next (s.modLine m fun _ => x)
    (∀ (tag : Byte) (binding : Option Nat) (roll yieldable : Nat), Free s →
      let field := if 3 < binding.getD 0 then 2 else if 1000 < roll then 3 else if 1 < yieldable then 4 else 0
      (field = 0 → exec (.setMarkLine tag m.1 binding roll yieldable) s = .next (answered tag 40 .done 0 0 [] (s.modLine m
        fun l => { l with binding := binding, preRoll := roll, yieldable := yieldable == 1 }))) ∧
      (field ≠ 0 →
        exec (.setMarkLine tag m.1 binding roll yieldable) s = .next (answered tag 40 .outOfRange field 0 [] s))) ∧
    (l.binding = none → becomes { l with refused := min (l.refused + 1) 65535 }) ∧
    ∀ p : Fin 4, l.binding = some p.1 →
      let since := fun a => (s.tb.pacing % 2 ^ 32 + 2 ^ 32 - a % 2 ^ 32) % 2 ^ 32
      let opens := fun (c : Fin 64) => ∃ k, s.clips.recs.get c = some k ∧ k.program = p ∧ k.st = .opened
      let asked := (s.tb.picture % 2 ^ 32 + 2 ^ 32 - l.preRoll % 2 ^ 32) % 2 ^ 32
      let pressed := { l with lastPress := some s.tb.pacing, presses := min (l.presses + 1) 65535 }
      (∀ a, l.lastPress = some a → since a ≤ 200 → becomes { l with bounces := min (l.bounces + 1) 65535 }) ∧
      ((∀ a, l.lastPress = some a → 200 < since a) →
        ((∀ c, ¬opens c) → (s.prog p).st ≠ .running →
          becomes { pressed with refused := min (l.refused + 1) 65535 }) ∧
        ((∀ c, ¬opens c) → (s.prog p).st = .running → ∀ c : Fin 64, s.clips.recs.get c = none →
          (∀ d, d < c → s.clips.recs.get d ≠ none) → ∃ (t : State) (k : Clip),
            exec (.markLinePress m) s = .next t ∧ t.line m = pressed ∧
            t.clips.recs = Vec.put s.clips.recs c (some k) ∧ k.st = .opened ∧ k.program = p ∧
            k.source = (if m = 0 then ClipSource.m0 else ClipSource.m1) ∧ k.yieldable = l.yieldable ∧
            k.inPicture = (placeIn p (clampIn s p asked) s).picture) ∧
        ∀ (c : Fin 64) (k : Clip), s.clips.recs.get c = some k → k.program = p → k.st = .opened →
          (∀ d, d < c → ¬opens d) → (s.prog p).st = .running → (∀ i ∈ s.clips.shipQueue, i % 64 ≠ c.1) →
          (∀ x, s.sched.clipCursor = some x → x.clip % 64 ≠ c.1) → ∃ (t : State) (n : Clip),
            exec (.markLinePress m) s = .next t ∧ t.line m = pressed ∧ t.clips.recs.get c = some n ∧
            n.st = .closing ∧ n.requestedOut = some s.tb.picture)

/-- R187, R190, R192: SET_LABEL, SHIP and CANCEL_SHIP, by the state of the clip they name. A clip id above 63, and of a
label the first field out of range, is refused by its number; then a FREE record is NO_SUCH_CLIP for each. A new label
is PENDING in the label queue, or sent already, once the clip has closed. A clip that SHIP queues waits behind a clip
that ships, or ships at once with the clip cursor set for it. -/
def Obligations.LabelShipAndCancelActByState : Prop :=
  ∀ (tag : Byte) (c : Fin 64) (s : State), Free s →
    let record := fun k : Clip => s.modClips fun l => { l with recs := Vec.put l.recs c (some k) }
    let reply := fun (kind : Byte) (k : Status) (body : List Byte) (t : State) =>
      t.link.replies = s.link.replies ++ [.made ⟨tag, kind, k, 0, 0, body⟩]
    (∀ id, 63 < id → exec (.ship tag id) s = .next (answered tag 42 .outOfRange 1 0 [] s) ∧
      exec (.cancelShip tag id) s = .next (answered tag 43 .outOfRange 1 0 [] s)) ∧
    (∀ (id : Nat) (text tags : List Byte) (rating yieldable : Nat),
      let field := if 63 < id then 1 else if 40 < text.length ∨ (∃ b ∈ text, b.toNat < 32 ∨ 126 < b.toNat) then 2
        else if 8 < tags.length then 3 else if 5 < rating then 4 else if 1 < yieldable then 5 else 0
      (field ≠ 0 →
        exec (.setLabel tag id text tags rating yieldable) s = .next (answered tag 41 .outOfRange field 0 [] s)) ∧
      (field = 0 → id = c.1 → s.clips.recs.get c = none →
        exec (.setLabel tag id text tags rating yieldable) s = .next (answered tag 41 .noSuchClip c.1 0 [] s))) ∧
    (s.clips.recs.get c = none → exec (.ship tag c.1) s = .next (answered tag 42 .noSuchClip c.1 0 [] s) ∧
      exec (.cancelShip tag c.1) s = .next (answered tag 43 .noSuchClip c.1 0 [] s)) ∧
    ∀ k : Clip, s.clips.recs.get c = some k →
      (∀ (text tags : List Byte) (rating yieldable : Nat), text.length ≤ 40 →
        (∀ b ∈ text, 32 ≤ b.toNat ∧ b.toNat ≤ 126) → tags.length ≤ 8 → rating ≤ 5 → yieldable ≤ 1 →
        let n : Clip := { k with
          text := text, tags := tags, rating := rating, yieldable := yieldable == 1, revision := (k.revision + 1) % 256
          label := .pending }
        (k.st = .opened ∨ k.st = .closing → exec (.setLabel tag c.1 text tags rating yieldable) s = .next
          (answered tag 41 .done 0 0 (u8 n.revision) (record n))) ∧
        (k.st ≠ .opened → k.st ≠ .closing → ∃ (t : State) (m : Clip),
          exec (.setLabel tag c.1 text tags rating yieldable) s = .next t ∧ reply 41 .done (u8 n.revision) t ∧
          t.clips.recs.get c = some m ∧ m.text = text ∧ m.tags = tags ∧ m.rating = rating ∧
          m.yieldable = n.yieldable ∧ m.revision = n.revision ∧
          (m.label = .sent ∨ (m.label = .pending ∧ c.1 ∈ t.sched.labelQueue)))) ∧
      (k.st = .opened → exec (.ship tag c.1) s = .next (answered tag 42 .wrongState c.1 0 [] s)) ∧
      (k.st = .opened ∨ k.st = .closed ∨ k.st = .shipped →
        exec (.cancelShip tag c.1) s = .next (answered tag 43 .wrongState c.1 0 [] s)) ∧
      (k.st = .closing →
        exec (.ship tag c.1) s = .next (answered tag 42 .accepted 0 0 [] (record { k with shipAtClose := true })) ∧
        exec (.cancelShip tag c.1) s = .next
          (answered tag 43 .done 0 0 [] (record { k with shipAtClose := false }))) ∧
      (k.st = .queued ∨ k.st = .shipping → exec (.ship tag c.1) s = .next (answered tag 42 .accepted 0 0 [] s)) ∧
      (k.st = .queued → exec (.cancelShip tag c.1) s = .next (answered tag 43 .done 0 0 []
        ((record { k with st := .closed, shipCursor := none }).modClips fun l =>
          { l with shipQueue := l.shipQueue.filter fun i => i != c.1 }))) ∧
      ((∀ p, (s.prog p).st ≠ .draining) →
        (k.st = .shipping → (∀ i ∈ s.clips.shipQueue, i % 64 ≠ c.1) →
          (∀ x, s.sched.clipCursor = some x → x.clip = c.1) → ∃ (t : State) (m : Clip),
          exec (.cancelShip tag c.1) s = .next t ∧ reply 43 .done [] t ∧ t.clips.recs.get c = some m ∧
          m.st = .closed ∧ m.shipCursor = none ∧ m.pinned = k.pinned ∧
          ∀ e ∈ t.sched.window, e.isClipOf c.1 = false) ∧
        (k.st = .closed ∨ k.st = .shipped →
          (∀ d m, s.clips.recs.get d = some m → m.st = .shipping → shipDone s = false →
            (∀ x, s.sched.clipCursor = some x → x.clip = d.1) → ∃ (t : State) (n : Clip),
            exec (.ship tag c.1) s = .next t ∧ reply 42 .accepted [] t ∧ t.clips.recs.get c = some n ∧
            n.st = .queued ∧ n.shipCursor = none ∧ t.clips.shipQueue = s.clips.shipQueue ++ [c.1] ∧
            t.clips.shipQueued = (s.clips.shipQueued + 1) % 2 ^ 32) ∧
          ((∀ d m, s.clips.recs.get d = some m → m.st ≠ .shipping) → s.clips.shipQueue = [] →
            s.sched.clipCursor = none → ∀ out, k.outOffset = some out → k.inOffset < out →
            ∃ (t : State) (n : Clip) (next : Nat), exec (.ship tag c.1) s = .next t ∧ reply 42 .accepted [] t ∧
              t.clips.recs.get c = some n ∧ n.st = .shipping ∧ n.shipCursor = some next ∧ k.inOffset ≤ next ∧
              next ≤ out ∧ t.sched.clipCursor = some ⟨c.1, k.program.1, k.run, out, next⟩)))

/-- R162, R189, R193: RELEASE, CLIP_START_SHIPPING and SHIPPING_COMPLETE. A released record becomes FREE, none of its
entries or queued labels remains and its pins are gone. The ship queue's head starts when no clip is SHIPPING. A clip
whose cursor has reached the out offset with no entry left becomes SHIPPED with CLIP_SHIPPED. -/
def Obligations.ClipsShipAndAreReleased : Prop :=
  ∀ s : State, (∀ p, (s.prog p).st ≠ .draining) →
    (∀ (tag : Byte) (c : Fin 64), Free s →
      (s.clips.recs.get c = none → exec (.release tag c.1) s = .next (answered tag 44 .noSuchClip c.1 0 [] s)) ∧
      ∀ k : Clip, s.clips.recs.get c = some k →
        (∀ x, s.sched.clipCursor = some x → x.clip = c.1 → k.st = .shipping) → ∃ t,
          exec (.release tag c.1) s = .next t ∧
          t.link.replies = s.link.replies ++ [.made ⟨tag, 44, .done, 0, 0, []⟩] ∧ t.clips.recs.get c = none ∧
          t.clips.released = (s.clips.released + 1) % 2 ^ 32 ∧ c.1 ∉ t.sched.labelQueue ∧
          (∀ e ∈ t.sched.window, e.isClipOf c.1 = false ∧ e.isLabelOf c.1 = false) ∧
          ∀ g ∈ (t.chain k.program).segs, ∃ h ∈ (s.chain k.program).segs, h.number = g.number ∧
            g.pins = if g.number ∈ k.pinned then h.pins - 1 else h.pins) ∧
    (∀ (c : Fin 64) (rest : List Nat) (k : Clip) (out : Nat), s.clips.shipQueue = c.1 :: rest →
      (∀ d m, s.clips.recs.get d = some m → m.st ≠ .shipping) → s.clips.recs.get c = some k → k.outOffset = some out →
      k.inOffset < out → ∃ (t : State) (n : Clip) (next : Nat), exec .clipStartShipping s = .next t ∧
        t.clips.recs.get c = some n ∧ n.st = .shipping ∧ n.shipCursor = some next ∧ k.inOffset ≤ next ∧ next ≤ out ∧
        t.sched.clipCursor = some ⟨c.1, k.program.1, k.run, out, next⟩ ∧ t.clips.shipQueue = rest) ∧
    ((∃ d m, s.clips.recs.get d = some m ∧ m.st = .shipping) ∨ s.clips.shipQueue = [] →
      exec .clipStartShipping s = .next s) ∧
    (∀ (x : ClipCursor) (c : Fin 64) (k : Clip), s.sched.clipCursor = some x → x.clip = c.1 →
      s.clips.recs.get c = some k →
      (x.next = x.out → (∀ e ∈ s.sched.window, e.isClipOf c.1 = false) → s.clips.shipQueue = [] →
        ∃ (t : State) (n : Clip), exec .shippingComplete s = .next t ∧ t.clips.recs.get c = some n ∧
          n.st = .shipped ∧ n.shipCursor = some x.out ∧ t.sched.clipCursor = none ∧
          t.clips.shippedCount = (s.clips.shippedCount + 1) % 2 ^ 32 ∧
          t.link.raises.get 14 = (s.link.raises.get 14 + 1) % 2 ^ 32 ∧ t.link.latches.get 14 = true) ∧
      (x.next ≠ x.out ∨ (∃ e ∈ s.sched.window, e.isClipOf c.1 = true) → exec .shippingComplete s = .next s))

/-! ### The control link (R198 to R211) -/

/-- R202, R203, R205, R211: what becomes of a request. A link that is not ready discards it; a free processor counts it,
carries it out at once and its reply joins the reply queue; with the reply queue full it waits; with 16 waiting it is
answered with QUEUE_FULL, and that reply is dropped when the reply queue is full. A kind that names no request has
UNKNOWN_KIND. -/
def Obligations.RequestsAreTakenInOrder : Prop :=
  ∀ (c : Instr) (tag : Byte) (r : Request) (s : State), requestOf c = some (tag, r) →
    let s0 := match c with
      | .setStation time .. => { s with tb := { s.tb with now := max s.tb.now time } }
      | _ => s
    let full := (s.link.queueFull + 1) % 2 ^ 32
    (s.link.ready = false → exec c s = .next s0) ∧
    (Free s → ∀ a t, perform r (counted s0) = (.answer a, t) → exec c s = .next (replied tag r.kind a t)) ∧
    (Free s → ∀ kind, r = .unknownKind kind → exec c s = .next (answered tag kind .unknownKind kind.toNat 0 [] s)) ∧
    (s.link.ready = true → s.link.requests.length < 16 → 32 ≤ s.link.replies.length → exec c s = .next
      { s0 with link := { s.link with requests := s.link.requests ++ [⟨tag, r⟩] } }) ∧
    (s.link.ready = true → 16 ≤ s.link.requests.length → s.link.replies.length < 32 → exec c s = .next
      { s0 with
        link :=
          { s.link with
            replies := s.link.replies ++ [.made ⟨tag, r.kind, .queueFull, 16, 0, []⟩], queueFull := full } }) ∧
    (s.link.ready = true → 16 ≤ s.link.requests.length → 32 ≤ s.link.replies.length → exec c s = .next
      { s0 with
        link := { s.link with queueFull := full, droppedReplies := (s.link.droppedReplies + 1) % 2 ^ 32 } })

/-- R203, R204: a request that is refused changes nothing, and its reply carries no values. -/
def Obligations.RefusedRequestsChangeNothing : Prop :=
  ∀ (r : Request) (s t : State) (a : Answer), perform r s = (.answer a, t) → a.status ≠ .done →
    a.status ≠ .accepted → t = s ∧ a.body = []

/-- R200, R201, R212: the frame of a request. The body that a well-formed request command spells reads back as the
request; and the bytes of its frame, clocked in between frames while nothing is clocked out, do what the command does.
-/
def Obligations.RequestFramesReadBack : Prop :=
  ∀ (c : Instr) (tag : Byte) (r : Request), requestOf c = some (tag, r) → c.wf = true →
    readRequest r.kind r.body = r ∧
      ∀ (time : Nat) (inRun fresh : Bool) (s : State), s.link.ready = true → s.link.rx = .hunt inRun fresh →
        OutboundEmpty s.link → (∀ u tg rate drop, c = .setStation u tg rate drop → u ≤ time) →
        exec (.inboundFrame time (frameBytes tag r.kind r.body)) s =
          exec c { s with
            tb := { s.tb with now := max s.tb.now time }
            link := { s.link with rx := .hunt false false } }

/-- R198, R201, R211: bytes that carry no frame. Before the link is ready every byte is discarded; between frames, while
nothing is clocked out, zero bytes count nothing, a run of other bytes counts one LINK_ERROR, and so does a frame with a
length out of range or with a wrong check. -/
def Obligations.BadBytesCountOneLinkError : Prop :=
  ∀ (time : Nat) (s : State),
    let leaves := fun (bytes : List Byte) (rx : Receiver) (errors : Nat) =>
      (exec (.inboundFrame time bytes) s : Host.Outcome State Fault Refusal) = .next { s with
        tb := { s.tb with now := max s.tb.now time }
        link := { s.link with rx := rx, linkErrors := errors } }
    let counted := (s.link.linkErrors + 1) % 2 ^ 32
    (s.link.ready = false → ∀ bytes, leaves bytes s.link.rx s.link.linkErrors) ∧
    ∀ inRun fresh, s.link.ready = true → s.link.rx = .hunt inRun fresh → OutboundEmpty s.link →
      (∀ n, 0 < n → leaves (List.replicate n 0) (.hunt inRun false) s.link.linkErrors) ∧
      (∀ b rest, b ≠ 0 → b ≠ 0xC3#8 → (∀ x ∈ rest, x ≠ 0xC3#8) → leaves (b :: rest) (.hunt true false)
        (if inRun ∨ fresh then s.link.linkErrors else counted)) ∧
      (∀ a b : Byte, a.toNat * 256 + b.toNat < 2 ∨ 1026 < a.toNat * 256 + b.toNat →
        leaves [0xC3#8, a, b] (.hunt false true) counted) ∧
      ∀ (tag kind a b : Byte) (body : List Byte), body.length ≤ 1024 →
        let covered := u16 (body.length + 2) ++ [tag, kind] ++ body
        a.toNat * 256 + b.toNat ≠ crc16 covered →
          leaves (0xC3#8 :: covered ++ [a, b]) (.hunt false true) counted

/-- R205, R209, R211: HARD_RESET, LINK_READY and OUTBOUND_FRAME_SENT. The reset leaves every block at its value and the
carrier inputs as they are; the link that becomes ready queues the READY notice. Of the outbound queues the first made
reply leaves first, and then the head of the notices; a NOTICE_LOST notice is made for notices dropped, with the picture
number and pacing count of that moment (the model's choice: log entry 37); and the processor
takes a request that waits for a reply slot. -/
def Obligations.LinkServesItsQueues : Prop :=
  ∀ (time : Nat) (s : State),
    let s0 : State := { s with tb := { s.tb with now := max s.tb.now time } }
    let l := s.link
    let number := (l.noticeNumber + 1) % 2 ^ 16
    exec .hardReset s = .next { State.reset with
      paths := Vec.tab fun k => { Path.reset with carrier := (s.path k).carrier }
      pending := s.pending } ∧
    (l.ready = true → exec .linkReady s = .next s) ∧
    (l.ready = false → l.notices.length < 32 → exec .linkReady s = .next { s with
      link := { l with
        ready := true, noticeNumber := number
        notices := l.notices ++ [⟨number, 255, s.tb.picture, s.tb.pacing, identity⟩] } }) ∧
    (l.ready = false ∨ OutboundEmpty l → exec (.outboundFrameSent time) s = .next s0) ∧
    (l.ready = true → l.sending = none →
      (∀ front r back, l.replies = front ++ .made r :: back → (∀ x ∈ front, x.isMade = false) →
        (l.requests = [] → exec (.outboundFrameSent time) s = .next
          { s0 with link := { l with replies := front ++ back } }) ∧
        ∀ w a t, l.requests = [w] → l.replies.length = 32 →
          perform w.req (counted { s0 with link := { l with replies := front ++ back, requests := [] } }) =
            (.answer a, t) → exec (.outboundFrameSent time) s = .next (replied w.tag w.req.kind a t)) ∧
      ∀ n rest, (∀ x ∈ l.replies, x.isMade = false) → l.notices = n :: rest → l.requests = [] →
        (l.lostSince = 0 → exec (.outboundFrameSent time) s = .next { s0 with link := { l with notices := rest } }) ∧
        (0 < l.lostSince → l.subscribed.get 17 = true → rest.length < 32 →
          exec (.outboundFrameSent time) s = .next { s0 with
            link := { l with
              notices := rest ++ [⟨number, 17, s.tb.picture, s.tb.pacing, u32 l.lostSince⟩]
              noticeNumber := number, lostSince := 0 } }))

/-- R203, R205, R207, R208, R212, R213: STATUS gives a list of the latch and raise count of each kind that the mask
names, then the link's counts, of the accepted requests this one among them, and the two queue lengths, of the replies
the made ones (log entry 20), and clears the named latches alone; SUBSCRIBE replaces the mask of subscribed kinds and
makes the NOTICE_LOST notice when notices have been dropped, with the picture number and pacing count of that moment
(the model's choice: log entry 37). A mask with a bit of weight 2^18 or above is out of range (R212); mask 0, which
names no kind, is not. -/
def Obligations.StatusClearsNamedLatches : Prop :=
  ∀ (tag : Byte) (mask : Nat) (s : State), Free s →
    let l := s.link
    let named := (List.finRange 18).filter fun k => mask.testBit k.1
    let number := (l.noticeNumber + 1) % 2 ^ 16
    let made := l.replies.countP ReplySlot.isMade
    let mask' := Vec.tab fun k : Fin 18 => mask.testBit k.1
    (2 ^ 18 ≤ mask → exec (.status tag mask) s = .next (answered tag 47 .outOfRange 1 0 [] s) ∧
      exec (.subscribe tag mask) s = .next (answered tag 48 .outOfRange 1 0 [] s)) ∧
    (mask < 2 ^ 18 → exec (.status tag mask) s = .next (answered tag 47 .done 0 0
      (u8 named.length ++ (named.flatMap fun k => flag (l.latches.get k) ++ u32 (l.raises.get k)) ++ u32 l.linkErrors
        ++ u32 ((l.accepted + 1) % 2 ^ 32) ++ u32 l.queueFull ++ u32 l.droppedReplies ++ u32 l.lostNotices
        ++ u32 (maskOf l.subscribed) ++ u8 made ++ u8 l.notices.length)
      { s with link := { l with latches := Vec.tab fun k => l.latches.get k && !mask.testBit k.1 } })) ∧
    (mask < 2 ^ 18 → (l.lostSince = 0 ∨ mask.testBit 17 = false ∨ 32 ≤ l.notices.length) →
      exec (.subscribe tag mask) s = .next
        (answered tag 48 .done 0 0 [] { s with link := { l with subscribed := mask' } })) ∧
    (mask < 2 ^ 18 → 0 < l.lostSince → mask.testBit 17 = true → l.notices.length < 32 →
      exec (.subscribe tag mask) s = .next (answered tag 48 .done 0 0 [] { s with
        link := { l with
          subscribed := mask', noticeNumber := number, lostSince := 0
          notices := l.notices ++ [⟨number, 17, s.tb.picture, s.tb.pacing, u32 l.lostSince⟩] } }))

/-- R21, R51, R80, R104, R125, R148, R174, R197, R210: RESTART takes every program to IDLE, empties the window, the
queues and the live cursors, frees every segment that no clip pins, makes every label that is not CONFIRMED PENDING in
the label queue, oldest clip first, starts the SHIPPING clip again from its in offset, clears the credit and the
interval counts of every path and runs the allocator; the timebase, the records, the uplink settings and the send number
stand. -/
def Obligations.RestartEmptiesTheQueues : Prop :=
  ∀ (tag : Byte) (s : State), Free s → ∃ t, exec (.restart tag) s = .next t ∧
    t.link.replies = s.link.replies ++ [.made ⟨tag, 50, .done, 0, 0, []⟩] ∧
    (∀ p, let g := s.prog p
      (t.prog p).st = .idle ∧ (t.prog p).record = g.record ∧ (t.prog p).run = g.run ∧
        (t.prog p).streamOffset = 0 ∧ (t.prog p).accumulator = 0 ∧
        (t.prog p).writingEnded = (g.st != .idle || g.writingEnded) ∧ (t.coder p).list = [] ∧
        (t.coder p).coding = none ∧ (t.intake p).missing = 0 ∧ (t.live p).cursor = none ∧
        t.alloc.shares.get p = 0 ∧
        ∀ x ∈ (t.chain p).segs, x.isSealed = true ∧ x.writer = false ∧ x.pendingSend = false ∧ x.refs = 0 ∧
          x.retention = false ∧ 0 < x.pins) ∧
    ((∃ p, (s.prog p).st ≠ .idle) → t.link.latches.get 5 = true) ∧
    t.sched.window = [] ∧ t.sched.abandoned = [] ∧ t.sched.bucket = 0 ∧ t.sched.nextSend = s.sched.nextSend ∧
    (∀ l, t.path l =
      { s.path l with credit := 0, good := 0, bad := 0, bitsSent := 0, bitsGranted := 0, packetsSent := 0 }) ∧
    (∀ k i, let g := (s.mixer.buses.get k).cells.get i
      (t.mixer.buses.get k).cells.get i = if g.remaining = 0 then g else ⟨g.target, g.target, 0⟩) ∧
    ((∀ c k, s.clips.recs.get c = some k → k.creation < 2 ^ 31) →
      (∀ c k m, s.clips.recs.get c = some k → t.clips.recs.get c = some m →
        m.label = if k.label = .confirmed then .confirmed else .pending) ∧
      (∀ i, i ∈ t.sched.labelQueue ↔ ∃ c k, c.1 = i ∧ s.clips.recs.get c = some k ∧ k.label ≠ .confirmed) ∧
      t.sched.labelQueue.Nodup ∧ t.sched.labelQueue.Pairwise fun i j => ∀ (c d : Fin 64) k m, c.1 = i → d.1 = j →
        s.clips.recs.get c = some k → s.clips.recs.get d = some m → k.creation ≤ m.creation) ∧
    (∀ c, s.clips.recs.get c = none ↔ t.clips.recs.get c = none) ∧
    t.clips.nextCreation = s.clips.nextCreation ∧ t.lines = s.lines ∧
    (∀ (c : Fin 64) (k : Clip) (out : Nat), s.clips.recs.get c = some k → k.st = .shipping → k.outOffset = some out →
      k.inOffset < out → (∀ d m, d ≠ c → s.clips.recs.get d = some m → m.st ≠ .shipping) →
      (∀ d m, s.clips.recs.get d = some m → m.st ≠ .opened ∧ m.st ≠ .closing) →
      t.clips.shipQueue = s.clips.shipQueue ∧ t.sched.clipCursor = some ⟨c.1, k.program.1, k.run, out, k.inOffset⟩ ∧
      ∃ m, t.clips.recs.get c = some m ∧ m.st = .shipping ∧ m.shipCursor = some k.inOffset ∧ m.pinned = k.pinned) ∧
    t.alloc.cause = some .restart ∧ t.tb = s.tb ∧ t.uplink = s.uplink ∧ t.tables = s.tables ∧ t.slots = s.slots ∧
    t.mem = s.mem

/-- R8, R19, R35, R58, R79, R87, R123, R124, R146, R147, R172, R195, R196, R209: the requests that read, with the bytes
that each gives: the values in the order of its rule, encoded as R212 and R213 state, by log entries 10 and 20 where
these leave it open, READ_WINDOW's sum of the abandoned counts modulo 2^32 among it (log entry 20); the rate of a path
in OFF or DOWN is 0 by log entry 31, and the framer depth of a filling program with an empty bus list is present with 0
by log entry 25. Each is replied to with DONE in any state of the part and changes nothing but the link; a number out of
range is refused. The counts of READ_UPLINK are 0 after hard reset, and RESTART keeps them. IDENTIFY and the READY
notice give the names, the revision and the limits. -/
def Obligations.ReadsChangeOnlyTheLink : Prop :=
  ∀ (tag : Byte) (s : State), Free s →
    let gives := fun (c : Instr) (kind : Byte) (body : List Byte) =>
      (exec c s : Host.Outcome State Fault Refusal) = .next (answered tag kind .done 0 0 body s)
    let refuses := fun (c : Instr) (kind : Byte) =>
      (exec c s : Host.Outcome State Fault Refusal) = .next (answered tag kind .outOfRange 1 0 [] s)
    let listed := fun entries : List (List Byte) => u8 entries.length ++ entries.flatten
    let maybe := fun (k : Nat) (field : Option (List Byte)) =>
      (field.elim (0#8 :: List.replicate k 0#8) fun b => 1#8 :: b : List Byte)
    let maybe8 := fun x : Option Nat => maybe 1 (x.map u8)
    let maybe16 := fun x : Option Nat => maybe 2 (x.map u16)
    let maybe32 := fun x : Option Nat => maybe 4 (x.map u32)
    let maybe48 := fun x : Option Nat => maybe 6 (x.map u48)
    let format := fun f : Option Format => maybe 4 (f.map fun f => u16 f.samples ++ u16 f.lines)
    let heldBy := fun g : Segment =>
      (if g.writer then 1 else 0) + (if g.pendingSend then 1 else 0) + g.refs + (if g.retention then 1 else 0) + g.pins
    let stored := fun g : Segment => u8 (if g.isSealed then 2 else 1)
    let u := s.uplink
    let names : List Byte := [7, 87, 101, 122, 109, 105, 114, 97, 6, 65, 78, 45, 52, 54, 48, 1, 16, 32, 32, 4, 0]
    gives (.readTimebase tag) 3 (u8 s.tb.rate.1 ++ flag s.tb.drop ++ u8 (if s.tb.ref = .freeRun then 0 else 1)
      ++ u32 s.tb.picture ++ encTimecode s.tb.label ++ flag s.tb.load.isSome ++ u32 s.tb.pacing ++ u16 s.tb.lossCount
      ++ u16 s.tb.rephaseCount) ∧
    (∀ p : Fin 4,
      let g := s.prog p
      let i := s.intake p
      let c := s.coder p
      let l := s.loop p
      let f := s.framer p
      let v := s.live p
      let record := fun r : ProgramRecord =>
        u8 r.port ++ u16 r.width ++ u16 r.height ++ u8 r.table ++ twos 1 r.chromaOffset ++ u8 r.qmin ++ u8 r.qstart
          ++ u8 r.qmax ++ u16 r.buffer ++ u8 r.ceiling ++ u32 r.minRate ++ u32 r.maxRate ++ u8 r.weight
          ++ listed (r.buses.map u8) ++ u8 r.soundWidth ++ u16 r.retention ++ u8 r.hold ++ u16 r.slateY
          ++ u16 r.slateCb ++ u16 r.slateCr
      gives (.programStatus tag p.1) 9
        (u8 g.st.code ++ flag g.record.isSome ++ listed (g.record.toList.map record) ++ u8 g.run ++ u48 g.streamOffset
          ++ u8 g.accumulator ++ flag g.writingEnded
          ++ u16 i.missing ++ u16 i.repeats ++ u16 i.slates ++ u16 i.shorts ++ flag i.codedInRun ++ format i.mismatch
          ++ u8 c.qi ++ u32 c.bitCount ++ u32 c.coded ++ u32 c.lastBits ++ u32 c.escaped ++ u32 c.dcSlices
          ++ u32 (s.alloc.shares.get p) ++ u32 l.share ++ u32 l.target ++ u32 l.sliceTarget ++ u32 l.bound
          ++ twos 4 l.fullness ++ u32 l.cmax ++ u16 l.ceilings ++ flag l.held
          ++ u16 f.holds ++ u16 f.slips ++ maybe16 (if f.filling then some (f.buffers.headD []).length else none)
          ++ u16 (s.chain p).cuts ++ maybe32 (s.chain p).cut
          ++ maybe 7 (v.cursor.map fun x => u8 x.1 ++ u48 x.2)
          ++ u48 (v.cursor.elim 0 fun x => g.streamOffset - x.2) ++ u32 v.packets ++ u16 v.skips
          ++ u48 v.skippedBytes)) ∧
    (∀ i : Fin 4,
      let q := s.port i
      gives (.readPicturePort tag i.1) 11 (u8 q.st.code ++ format q.candidate ++ format q.locked
        ++ (match q.lastMeasurement with
          | none => [0, 0, 0, 0, 0]
          | some .irregular => [1, 0, 0, 0, 0]
          | some (.regular f) => format (some f))
        ++ maybe32 q.lastStart ++ u8 q.quiet ++ u16 q.extras ++ u16 q.losses)) ∧
    (∀ j : Fin 2,
      let c := s.table j
      let namers := (List.finRange 4).filter fun p => (s.prog p).record.any fun r => r.table == j.1
      gives (.readTable tag j.1) 14 (u8 c.st.code
        ++ (match c.result with
          | none => [0, 0, 0, 0, 0, 0]
          | some .pass => [1, 0, 0, 0, 0, 0]
          | some (.outOfRange x) => [1, 1] ++ u16 x ++ [0, 0]
          | some (.ambiguous x y) => [1, 2] ++ u16 x ++ u16 y)
        ++ listed (if c.st = .ready then c.entries.map fun e => u8 e.length ++ u16 e.value else [])
        ++ listed (namers.map fun p => u8 p.1 ++ flag ((s.prog p).st == .idle)))) ∧
    (let a := s.alloc
    gives (.readBudget tag) 15 (u8 a.headroom ++ u16 a.labelReserve ++ u32 a.clipFloor ++ u32 a.usable ++ u32 a.sound
      ++ u32 a.clipCounted ++ u32 a.video ++ u32 a.minSum ++ ((List.finRange 4).flatMap fun p => u32 (a.shares.get p))
      ++ u32 a.spare ++ u32 a.clipRate ++ flag a.starved ++ u32 a.runs ++ u32 a.starvedCount
      ++ maybe 1 (a.cause.map fun c => u8 c.code))) ∧
    (∀ i : Fin 4,
      let q := s.slot i
      gives (.readSlotPort tag i.1) 19 (u8 q.st.code ++ u8 q.count ++ u8 q.buffer.length ++ maybe8 q.position
        ++ u8 q.lock ++ u16 q.lockLosses ++ u16 q.unaligneds)) ∧
    (let x := s.store
    let all := (List.finRange 4).flatMap fun p => (s.chain p).segs
    gives (.readStore tag) 27 (u16 x.freeList.length ++ maybe16 x.freeList.head? ++ maybe16 x.freeList.getLast?
      ++ u16 (all.filter fun g => !g.isSealed).length ++ u16 (all.filter fun g => g.isSealed).length ++ u16 x.reserve
      ++ flag x.pressure
      ++ ((List.finRange 4).flatMap fun p =>
        let c := s.chain p
        u16 c.segs.length ++ u8 c.openClips ++ u32 c.takes ++ u16 (c.segs.filter fun g => g.retention).length
          ++ u16 (c.segs.filter fun g => 0 < g.pins).length)
      ++ u32 x.takes ++ u32 x.freed ++ u32 x.yields ++ u16 x.refused)) ∧
    (∀ p position, SegmentsConserved s → ∀ g ∈ (s.chain p).segs, gives (.readSegment tag g.number position) 28
      (u16 g.number ++ stored g ++ maybe8 (some p.1) ++ maybe8 (some g.run) ++ maybe48 (some g.first) ++ u32 g.fill
        ++ maybe32 g.firstPicture ++ maybe32 g.lastPicture ++ flag g.writer ++ flag g.pendingSend ++ u16 g.refs
        ++ flag g.retention ++ u8 g.pins ++ u16 (heldBy g) ++ u16 g.marks.length
        ++ listed (((g.marks.drop position).take 32).map fun m => u8 m.kind.code ++ u32 m.picture ++ u48 m.offset))) ∧
    (∀ n position, n ≤ 4095 → (∀ p, ∀ g ∈ (s.chain p).segs, g.number ≠ n) →
      gives (.readSegment tag n position) 28 (u16 n ++ List.replicate 37 0)) ∧
    (∀ (p : Fin 4) position, gives (.readChain tag p.1 position) 29 (u16 (s.chain p).segs.length
      ++ listed ((((s.chain p).segs.drop position).take 32).map fun g => u16 g.number ++ stored g ++ u8 g.run
        ++ u48 g.first ++ u32 g.fill ++ maybe32 g.firstPicture ++ maybe32 g.lastPicture ++ u16 (heldBy g)))) ∧
    (∀ l : Fin 6,
      let p := s.path l
      let rate := if p.st = .probing then p.probeRate else if p.st = .up ∨ p.st = .degraded then p.estimate else 0
      gives (.readPath tag l.1) 34 (u8 p.st.code ++ u32 p.estimate ++ u32 p.ceiling ++ u32 p.initial ++ u8 p.burst
        ++ u8 p.repairShare ++ u16 p.probeRate ++ u32 p.credit ++ u16 p.sequence ++ u8 p.repair ++ u32 p.probeNumber
        ++ flag p.probeSince ++ u48 p.bitsSent ++ u48 p.bitsGranted ++ u16 p.packetsSent ++ u8 p.good ++ u8 p.bad
        ++ u16 p.silence ++ u32 (rate * p.burst) ++ u32 rate ++ flag p.carrier ++ flag p.port.isSome
        ++ u16 p.carrierLosses ++ u16 p.stateChanges ++ u16 p.goodReports ++ u16 p.badReports ++ u16 p.silences
        ++ u16 p.malformed)) ∧
    gives (.readUplink tag) 35 (u8 s.alloc.headroom ++ u16 s.alloc.labelReserve ++ u32 s.alloc.clipFloor
      ++ u16 u.silenceTimeout ++ u8 u.badThreshold ++ maybe16 u.lastReport ++ u32 u.accepted ++ u16 u.stale
      ++ u16 u.ignored
      ++ (List.finRange 6).flatMap fun l => u8 (s.path l).st.code ++ u32 (s.path l).estimate ++ u32 (s.path l).credit) ∧
    (State.reset.uplink.accepted = 0 ∧ State.reset.uplink.stale = 0 ∧ State.reset.uplink.ignored = 0) ∧
    (∃ t, exec (.restart tag) s = .next t ∧ t.uplink = u) ∧
    (let c := s.sched
    gives (.readWindow tag) 37 (u32 c.nextSend ++ u16 c.deadline ++ u16 c.guardMs
      ++ u16 (c.window.filter fun e => e.isLive).length ++ u16 (c.window.filter fun e => !e.isLive).length
      ++ u16 (c.window.filter fun e => e.queued).length ++ maybe32 (c.window.head?.map Entry.send)
      ++ maybe32 (c.window.getLast?.map Entry.send) ++ listed (c.labelQueue.map u8)
      ++ maybe 13 (c.clipCursor.map fun k => u8 k.clip ++ u48 k.next ++ u48 k.out) ++ u32 c.bucket
      ++ u8 c.lastServed.1 ++ u32 c.acked ++ u32 c.resent ++ u32 c.lateAcks ++ u32 c.displaced ++ u32 c.byAge
      ++ u32 c.byLoss ++ u32 c.byDisplacement ++ u32 (c.byAge + c.byLoss + c.byDisplacement)
      ++ u16 c.abandoned.length)) ∧
    (∀ c : Fin 64,
      (s.clips.recs.get c = none → gives (.readClip tag c.1) 45 (u8 c.1 ++ [0, 0])) ∧
      ∀ k, s.clips.recs.get c = some k → gives (.readClip tag c.1) 45
        (u8 c.1 ++ u8 k.st.code ++ [1] ++ u8 k.program.1 ++ u8 k.run ++ u32 k.creation ++ u8 k.source.code
          ++ u32 k.inPicture ++ encTimecode k.inTimecode ++ u48 k.inOffset ++ maybe32 k.outPicture
          ++ maybe 4 (k.outTimecode.map encTimecode) ++ maybe48 k.outOffset ++ maybe32 k.requestedOut
          ++ flag k.shipAtClose ++ u8 k.text.length ++ k.text ++ u8 k.tags.length ++ k.tags ++ u8 k.rating
          ++ flag k.yieldable ++ flag k.trimmed ++ u8 k.revision ++ u8 k.label.code ++ maybe48 k.shipCursor
          ++ if k.st = .opened ∨ k.st = .closing then [1] ++ u16 k.pinned.length else [0])) ∧
    (let x := s.clips
    let first := fun ok : Clip → Bool => (List.finRange 64).find? fun c => (x.recs.get c).any ok
    let head := listed (x.shipQueue.map u8)
      ++ maybe 7 ((first fun k => k.st == .shipping).map fun c =>
        u8 c.1 ++ u48 (((x.recs.get c).bind Clip.shipCursor).getD 0))
      ++ u32 x.nextCreation
      ++ ((List.finRange 4).flatMap fun p =>
        maybe8 ((first fun k => k.program == p && k.st == .opened).map Fin.val) ++ maybe32 (x.lastWritten.get p))
      ++ ((List.finRange 2).flatMap fun m =>
        let k := s.line m
        maybe8 k.binding ++ u16 k.preRoll ++ flag k.yieldable ++ maybe32 k.lastPress ++ u16 k.bounces ++ u16 k.refused
          ++ u16 k.presses)
      ++ u32 x.created ++ u16 x.trims ++ u32 x.confirmed ++ u32 x.shippedCount ++ u32 x.shipQueued
      ++ u32 x.homeAccepted ++ u16 x.homeRefused ++ u32 x.released ++ u32 x.yielded
    ∀ rows : List (Fin 64 × Clip), (∀ c k, (c, k) ∈ rows ↔ x.recs.get c = some k) →
      (rows.Pairwise fun a b => newer32 b.2.creation a.2.creation = true) →
      let given := min rows.length ((1024 - (5 + head.length + 2)) / 21)
      gives (.listClips tag) 46 (head ++ u8 given ++ u8 (rows.length - given) ++ (rows.take given).flatMap fun a =>
        u8 a.1.1 ++ u32 a.2.creation ++ u8 a.2.st.code ++ u8 a.2.program.1 ++ u8 a.2.run ++ u8 a.2.source.code
          ++ u32 a.2.inPicture ++ maybe32 a.2.outPicture ++ u8 a.2.revision ++ u8 a.2.label.code
          ++ flag a.2.yieldable)) ∧
    gives (.identify tag) 49 names ∧
    (∀ r : State, r.link.ready = false → r.link.notices.length < 32 → ∃ t, exec .linkReady r = .next t ∧
      t.link.notices = r.link.notices ++
        [⟨(r.link.noticeNumber + 1) % 2 ^ 16, 255, r.tb.picture, r.tb.pacing, names⟩]) ∧
    ∀ n position, (3 < n → refuses (.programStatus tag n) 9 ∧ refuses (.readPicturePort tag n) 11 ∧
        refuses (.readSlotPort tag n) 19 ∧ refuses (.readChain tag n position) 29) ∧
      (1 < n → refuses (.readTable tag n) 14) ∧ (4095 < n → refuses (.readSegment tag n position) 28) ∧
      (5 < n → refuses (.readPath tag n) 34) ∧ (63 < n → refuses (.readClip tag n) 45)
end

