-- ==== Sys2Proof/Laws/Memory.lean ====
section
/-! SUPPORT. The segment store's memory: a write keeps the canonical form, a byte written is the byte read, and every
other byte reads as before. -/

namespace Sys2Proof.Machine

theorem memRead_filter_of_false (m : List Host.Cell) (p : Nat → Bool) (a : Nat) (h : p a = false) :
    memRead (m.filter fun c => p c.1) a = unlisted := by
  induction m with
  | nil => rfl
  | cons c rest ih =>
    obtain ⟨k, v⟩ := c
    rw [List.filter_cons]; dsimp only
    split
    · rename_i hk
      have : k ≠ a := fun e => by simp [e, h] at hk
      simp [memRead, this, ih]
    · exact ih

theorem memRead_filter_of_true (m : List Host.Cell) (p : Nat → Bool) (a : Nat) (h : p a = true) :
    memRead (m.filter fun c => p c.1) a = memRead m a := by
  induction m with
  | nil => rfl
  | cons c rest ih =>
    obtain ⟨k, v⟩ := c
    rw [List.filter_cons]; dsimp only
    split
    · simp [memRead, ih]
    · rename_i hk
      have : k ≠ a := fun e => hk (by simp [e, h])
      simp [memRead, this, ih]

/-- Reading past cells none of which stands at the address. -/
theorem memRead_append_of_not_mem (l m : List Host.Cell) (a : Nat) (h : ∀ c ∈ l, c.1 ≠ a) :
    memRead (l ++ m) a = memRead m a := by
  induction l with
  | nil => rfl
  | cons c rest ih =>
    obtain ⟨k, v⟩ := c
    have hk : k ≠ a := h (k, v) (by simp)
    simp [memRead, hk, ih fun c hc => h c (by simp [hc])]

/-- Reading before cells none of which stands at the address. -/
theorem memRead_append_left (l m : List Host.Cell) (a : Nat) (h : ∀ c ∈ m, c.1 ≠ a) :
    memRead (l ++ m) a = memRead l a := by
  induction l with
  | nil =>
    induction m with
    | nil => rfl
    | cons c rest ih =>
      obtain ⟨k, v⟩ := c
      have hk : k ≠ a := h (k, v) (by simp)
      have := ih fun c hc => h c (by simp [hc])
      simpa [memRead, hk] using this
  | cons c rest ih =>
    obtain ⟨k, v⟩ := c
    simp only [List.cons_append, memRead, ih]

theorem cellsOf_range (bytes : List Byte) : ∀ a, ∀ c ∈ cellsOf a bytes, a ≤ c.1 ∧ c.1 < a + bytes.length := by
  induction bytes with
  | nil => simp [cellsOf]
  | cons b bs ih =>
    intro a c hc
    simp only [cellsOf] at hc
    split at hc
    · have := ih (a + 1) c hc; simp; omega
    · rcases List.mem_cons.mp hc with rfl | hc
      · simp
      · have := ih (a + 1) c hc; simp; omega

theorem memRead_cellsOf (bytes : List Byte) : ∀ a i, i < bytes.length →
    memRead (cellsOf a bytes) (a + i) = bytes.getD i unlisted := by
  induction bytes with
  | nil => intro a i h; simp at h
  | cons b bs ih =>
    intro a i h
    cases i with
    | zero =>
      simp only [cellsOf]
      split
      · rename_i e
        have := memRead_append_left [] (cellsOf (a + 1) bs) a fun c hc => by
          have := cellsOf_range bs (a + 1) c hc; omega
        simpa [memRead, e] using this
      · simp [memRead]
    | succ j =>
      have hj : j < bs.length := by simpa using h
      have e : a + (j + 1) = a + 1 + j := by omega
      simp only [cellsOf]
      split
      · rw [e]; simpa using ih (a + 1) j hj
      · have : a ≠ a + (j + 1) := by omega
        simp only [memRead, this, if_false]
        rw [e]; simpa using ih (a + 1) j hj

/-- Byte `i` of what was written at `a` is read at `a + i`. -/
theorem memRead_write_same (m : List Host.Cell) (a : Nat) (bytes : List Byte) (i : Nat) (h : i < bytes.length) :
    memRead (memWriteBytes m a bytes) (a + i) = bytes.getD i unlisted := by
  unfold memWriteBytes
  dsimp only
  rw [List.append_assoc, memRead_append_of_not_mem _ _ _ fun c hc => by
    have := (List.mem_filter.mp hc).2; simp at this; omega]
  rw [memRead_append_left _ _ _ fun c hc => by have := (List.mem_filter.mp hc).2; simp at this; omega]
  exact memRead_cellsOf bytes a i h

/-- An address outside what was written reads as before. -/
theorem memRead_write_other (m : List Host.Cell) (a : Nat) (bytes : List Byte) (x : Nat)
    (h : x < a ∨ a + bytes.length ≤ x) : memRead (memWriteBytes m a bytes) x = memRead m x := by
  unfold memWriteBytes
  dsimp only
  have mid : ∀ c ∈ cellsOf a bytes, c.1 ≠ x := fun c hc => by have := cellsOf_range bytes a c hc; omega
  rcases h with h | h
  · rw [List.append_assoc, memRead_append_left]
    · exact memRead_filter_of_true m (fun k => decide (k < a)) x (by simpa using h)
    · intro c hc
      rcases List.mem_append.mp hc with hc | hc
      · exact mid c hc
      · have := (List.mem_filter.mp hc).2; simp at this; omega
  · rw [memRead_append_of_not_mem]
    · exact memRead_filter_of_true m (fun k => decide (a + bytes.length ≤ k)) x (by simpa using h)
    · intro c hc
      rcases List.mem_append.mp hc with hc | hc
      · have := (List.mem_filter.mp hc).2; simp at this; omega
      · exact mid c hc

/-! ### The canonical form -/

theorem memCanonicalFrom_cons (lo k : Nat) (v : Byte) (rest : List Host.Cell) :
    memCanonicalFrom lo ((k, v) :: rest) = true ↔ lo ≤ k ∧ v ≠ unlisted ∧ memCanonicalFrom (k + 1) rest = true := by
  simp [memCanonicalFrom, and_assoc]

theorem memCanonicalFrom_mono (m : List Host.Cell) : ∀ lo hi, lo ≤ hi → memCanonicalFrom hi m = true →
    memCanonicalFrom lo m = true := by
  cases m with
  | nil => intros; rfl
  | cons c rest =>
    obtain ⟨k, v⟩ := c
    intro lo hi h e
    rw [memCanonicalFrom_cons] at e ⊢
    exact ⟨by omega, e.2.1, e.2.2⟩

theorem memCanonicalFrom_le (m : List Host.Cell) : ∀ lo, memCanonicalFrom lo m = true → ∀ c ∈ m, lo ≤ c.1 := by
  induction m with
  | nil => simp
  | cons c rest ih =>
    obtain ⟨k, v⟩ := c
    intro lo h c hc
    rw [memCanonicalFrom_cons] at h
    rcases List.mem_cons.mp hc with rfl | hc
    · exact h.1
    · have := ih (k + 1) h.2.2 c hc; omega

theorem memCanonicalFrom_filter (m : List Host.Cell) (p : Host.Cell → Bool) : ∀ lo, memCanonicalFrom lo m = true →
    memCanonicalFrom lo (m.filter p) = true := by
  induction m with
  | nil => simp
  | cons c rest ih =>
    obtain ⟨k, v⟩ := c
    intro lo h
    rw [memCanonicalFrom_cons] at h
    rw [List.filter_cons]
    split
    · exact (memCanonicalFrom_cons ..).mpr ⟨h.1, h.2.1, ih _ h.2.2⟩
    · exact memCanonicalFrom_mono _ lo (k + 1) (by omega) (ih _ h.2.2)

/-- Two canonical lists, the first below an address and the second from it on. -/
theorem memCanonicalFrom_append (l m : List Host.Cell) (mid : Nat) : ∀ lo, lo ≤ mid → memCanonicalFrom lo l = true →
    (∀ c ∈ l, c.1 < mid) → memCanonicalFrom mid m = true → memCanonicalFrom lo (l ++ m) = true := by
  induction l with
  | nil => intro lo h _ _ hm; exact memCanonicalFrom_mono m lo mid h hm
  | cons c rest ih =>
    obtain ⟨k, v⟩ := c
    intro lo h hl hb hm
    rw [memCanonicalFrom_cons] at hl
    have hk : k < mid := hb (k, v) (by simp)
    rw [List.cons_append, memCanonicalFrom_cons]
    exact ⟨hl.1, hl.2.1, ih (k + 1) (by omega) hl.2.2 (fun c hc => hb c (by simp [hc])) hm⟩

theorem memCanonicalFrom_cellsOf (bytes : List Byte) : ∀ a, memCanonicalFrom a (cellsOf a bytes) = true := by
  induction bytes with
  | nil => intro a; rfl
  | cons b bs ih =>
    intro a
    simp only [cellsOf]
    split
    · exact memCanonicalFrom_mono _ a (a + 1) (by omega) (ih _)
    · rename_i h; exact (memCanonicalFrom_cons ..).mpr ⟨le_refl a, h, ih _⟩

theorem memCanonicalFrom_raise (m : List Host.Cell) (lo hi : Nat) (h : memCanonicalFrom lo m = true)
    (hb : ∀ c ∈ m, hi ≤ c.1) : memCanonicalFrom hi m = true := by
  cases m with
  | nil => rfl
  | cons c rest =>
    obtain ⟨k, v⟩ := c
    rw [memCanonicalFrom_cons] at h ⊢
    exact ⟨hb (k, v) (by simp), h.2.1, h.2.2⟩

/-- A write keeps the canonical form. -/
theorem memory_wf_write (m : List Host.Cell) (a : Nat) (bytes : List Byte) (h : Memory.wf m = true) :
    Memory.wf (memWriteBytes m a bytes) = true := by
  unfold Memory.wf at h ⊢
  unfold memWriteBytes
  dsimp only
  rw [List.append_assoc]
  refine memCanonicalFrom_append _ _ a 0 (Nat.zero_le _) (memCanonicalFrom_filter m _ 0 h)
    (fun c hc => by simpa using (List.mem_filter.mp hc).2) ?_
  refine memCanonicalFrom_append _ _ (a + bytes.length) a (by omega) (memCanonicalFrom_cellsOf bytes a)
    (fun c hc => (cellsOf_range bytes a c hc).2) ?_
  exact memCanonicalFrom_raise _ 0 _ (memCanonicalFrom_filter m _ 0 h)
    fun c hc => by simpa using (List.mem_filter.mp hc).2

end Sys2Proof.Machine
end

