-- ==== Sys2Proof/Laws/State.lean ====
section
/-! SUPPORT. One lemma for each field under each update of Machine/Ops.lean, true by rfl, so that no later proof
unfolds a record update; and what reading an element back gives. -/

namespace Sys2Proof.Machine

theorem get_eq_getElem {α : Type} {n : Nat} (v : Vector α n) (i : Fin n) : v.get i = v[i.1] := rfl

theorem Vec_get_put_same {α : Type} {n : Nat} (v : Vector α n) (i : Fin n) (x : α) :
    (Vec.put v i x).get i = x := by
  simp [Vec.put, get_eq_getElem]

theorem Vec_get_put_ne {α : Type} {n : Nat} (v : Vector α n) (i j : Fin n) (x : α) (h : i ≠ j) :
    (Vec.put v i x).get j = v.get j := by
  have h' : i.1 ≠ j.1 := fun e => h (Fin.ext e)
  simp [Vec.put, get_eq_getElem, h']

@[simp] theorem Vec_get_put {α : Type} {n : Nat} (v : Vector α n) (i j : Fin n) (x : α) :
    (Vec.put v i x).get j = if i = j then x else v.get j := by
  by_cases h : i = j
  · subst h; simp [Vec_get_put_same]
  · simp [h, Vec_get_put_ne v i j x h]

@[simp] theorem Vec_get_tab {α : Type} {n : Nat} (f : Fin n → α) (i : Fin n) : (Vec.tab f).get i = f i := by
  simp [Vec.tab, get_eq_getElem]

@[simp] theorem get_mapAll {α : Type} {n : Nat} (f : Fin n → α → α) (v : Vector α n) (i : Fin n) :
    (mapAll f v).get i = f i (v.get i) := by
  simp [mapAll]

@[simp] theorem modProg_tb (s : State) (i : Fin 4) (f : Program → Program) : (s.modProg i f).tb = s.tb := rfl
@[simp] theorem modProg_ports (s : State) (i : Fin 4) (f : Program → Program) : (s.modProg i f).ports = s.ports := rfl
@[simp] theorem modProg_intakes (s : State) (i : Fin 4) (f : Program → Program) : (s.modProg i f).intakes = s.intakes := rfl
@[simp] theorem modProg_coders (s : State) (i : Fin 4) (f : Program → Program) : (s.modProg i f).coders = s.coders := rfl
@[simp] theorem modProg_loops (s : State) (i : Fin 4) (f : Program → Program) : (s.modProg i f).loops = s.loops := rfl
@[simp] theorem modProg_tables (s : State) (i : Fin 4) (f : Program → Program) : (s.modProg i f).tables = s.tables := rfl
@[simp] theorem modProg_alloc (s : State) (i : Fin 4) (f : Program → Program) : (s.modProg i f).alloc = s.alloc := rfl
@[simp] theorem modProg_slots (s : State) (i : Fin 4) (f : Program → Program) : (s.modProg i f).slots = s.slots := rfl
@[simp] theorem modProg_mixer (s : State) (i : Fin 4) (f : Program → Program) : (s.modProg i f).mixer = s.mixer := rfl
@[simp] theorem modProg_framers (s : State) (i : Fin 4) (f : Program → Program) : (s.modProg i f).framers = s.framers := rfl
@[simp] theorem modProg_store (s : State) (i : Fin 4) (f : Program → Program) : (s.modProg i f).store = s.store := rfl
@[simp] theorem modProg_chains (s : State) (i : Fin 4) (f : Program → Program) : (s.modProg i f).chains = s.chains := rfl
@[simp] theorem modProg_mem (s : State) (i : Fin 4) (f : Program → Program) : (s.modProg i f).mem = s.mem := rfl
@[simp] theorem modProg_paths (s : State) (i : Fin 4) (f : Program → Program) : (s.modProg i f).paths = s.paths := rfl
@[simp] theorem modProg_uplink (s : State) (i : Fin 4) (f : Program → Program) : (s.modProg i f).uplink = s.uplink := rfl
@[simp] theorem modProg_sched (s : State) (i : Fin 4) (f : Program → Program) : (s.modProg i f).sched = s.sched := rfl
@[simp] theorem modProg_lives (s : State) (i : Fin 4) (f : Program → Program) : (s.modProg i f).lives = s.lives := rfl
@[simp] theorem modProg_clips (s : State) (i : Fin 4) (f : Program → Program) : (s.modProg i f).clips = s.clips := rfl
@[simp] theorem modProg_lines (s : State) (i : Fin 4) (f : Program → Program) : (s.modProg i f).lines = s.lines := rfl
@[simp] theorem modProg_link (s : State) (i : Fin 4) (f : Program → Program) : (s.modProg i f).link = s.link := rfl
@[simp] theorem modProg_pending (s : State) (i : Fin 4) (f : Program → Program) : (s.modProg i f).pending = s.pending := rfl
@[simp] theorem modProg_progs (s : State) (i : Fin 4) (f : Program → Program) :
    (s.modProg i f).progs = Vec.put s.progs i (f (s.progs.get i)) := rfl
@[simp] theorem modProg_prog (s : State) (i j : Fin 4) (f : Program → Program) :
    (s.modProg i f).prog j = if i = j then f (s.prog i) else s.prog j := by
  simp [State.modProg, State.prog]

@[simp] theorem modPort_tb (s : State) (i : Fin 4) (f : PicturePort → PicturePort) : (s.modPort i f).tb = s.tb := rfl
@[simp] theorem modPort_progs (s : State) (i : Fin 4) (f : PicturePort → PicturePort) : (s.modPort i f).progs = s.progs := rfl
@[simp] theorem modPort_intakes (s : State) (i : Fin 4) (f : PicturePort → PicturePort) : (s.modPort i f).intakes = s.intakes := rfl
@[simp] theorem modPort_coders (s : State) (i : Fin 4) (f : PicturePort → PicturePort) : (s.modPort i f).coders = s.coders := rfl
@[simp] theorem modPort_loops (s : State) (i : Fin 4) (f : PicturePort → PicturePort) : (s.modPort i f).loops = s.loops := rfl
@[simp] theorem modPort_tables (s : State) (i : Fin 4) (f : PicturePort → PicturePort) : (s.modPort i f).tables = s.tables := rfl
@[simp] theorem modPort_alloc (s : State) (i : Fin 4) (f : PicturePort → PicturePort) : (s.modPort i f).alloc = s.alloc := rfl
@[simp] theorem modPort_slots (s : State) (i : Fin 4) (f : PicturePort → PicturePort) : (s.modPort i f).slots = s.slots := rfl
@[simp] theorem modPort_mixer (s : State) (i : Fin 4) (f : PicturePort → PicturePort) : (s.modPort i f).mixer = s.mixer := rfl
@[simp] theorem modPort_framers (s : State) (i : Fin 4) (f : PicturePort → PicturePort) : (s.modPort i f).framers = s.framers := rfl
@[simp] theorem modPort_store (s : State) (i : Fin 4) (f : PicturePort → PicturePort) : (s.modPort i f).store = s.store := rfl
@[simp] theorem modPort_chains (s : State) (i : Fin 4) (f : PicturePort → PicturePort) : (s.modPort i f).chains = s.chains := rfl
@[simp] theorem modPort_mem (s : State) (i : Fin 4) (f : PicturePort → PicturePort) : (s.modPort i f).mem = s.mem := rfl
@[simp] theorem modPort_paths (s : State) (i : Fin 4) (f : PicturePort → PicturePort) : (s.modPort i f).paths = s.paths := rfl
@[simp] theorem modPort_uplink (s : State) (i : Fin 4) (f : PicturePort → PicturePort) : (s.modPort i f).uplink = s.uplink := rfl
@[simp] theorem modPort_sched (s : State) (i : Fin 4) (f : PicturePort → PicturePort) : (s.modPort i f).sched = s.sched := rfl
@[simp] theorem modPort_lives (s : State) (i : Fin 4) (f : PicturePort → PicturePort) : (s.modPort i f).lives = s.lives := rfl
@[simp] theorem modPort_clips (s : State) (i : Fin 4) (f : PicturePort → PicturePort) : (s.modPort i f).clips = s.clips := rfl
@[simp] theorem modPort_lines (s : State) (i : Fin 4) (f : PicturePort → PicturePort) : (s.modPort i f).lines = s.lines := rfl
@[simp] theorem modPort_link (s : State) (i : Fin 4) (f : PicturePort → PicturePort) : (s.modPort i f).link = s.link := rfl
@[simp] theorem modPort_pending (s : State) (i : Fin 4) (f : PicturePort → PicturePort) : (s.modPort i f).pending = s.pending := rfl
@[simp] theorem modPort_ports (s : State) (i : Fin 4) (f : PicturePort → PicturePort) :
    (s.modPort i f).ports = Vec.put s.ports i (f (s.ports.get i)) := rfl
@[simp] theorem modPort_port (s : State) (i j : Fin 4) (f : PicturePort → PicturePort) :
    (s.modPort i f).port j = if i = j then f (s.port i) else s.port j := by
  simp [State.modPort, State.port]

@[simp] theorem modIntake_tb (s : State) (i : Fin 4) (f : Intake → Intake) : (s.modIntake i f).tb = s.tb := rfl
@[simp] theorem modIntake_progs (s : State) (i : Fin 4) (f : Intake → Intake) : (s.modIntake i f).progs = s.progs := rfl
@[simp] theorem modIntake_ports (s : State) (i : Fin 4) (f : Intake → Intake) : (s.modIntake i f).ports = s.ports := rfl
@[simp] theorem modIntake_coders (s : State) (i : Fin 4) (f : Intake → Intake) : (s.modIntake i f).coders = s.coders := rfl
@[simp] theorem modIntake_loops (s : State) (i : Fin 4) (f : Intake → Intake) : (s.modIntake i f).loops = s.loops := rfl
@[simp] theorem modIntake_tables (s : State) (i : Fin 4) (f : Intake → Intake) : (s.modIntake i f).tables = s.tables := rfl
@[simp] theorem modIntake_alloc (s : State) (i : Fin 4) (f : Intake → Intake) : (s.modIntake i f).alloc = s.alloc := rfl
@[simp] theorem modIntake_slots (s : State) (i : Fin 4) (f : Intake → Intake) : (s.modIntake i f).slots = s.slots := rfl
@[simp] theorem modIntake_mixer (s : State) (i : Fin 4) (f : Intake → Intake) : (s.modIntake i f).mixer = s.mixer := rfl
@[simp] theorem modIntake_framers (s : State) (i : Fin 4) (f : Intake → Intake) : (s.modIntake i f).framers = s.framers := rfl
@[simp] theorem modIntake_store (s : State) (i : Fin 4) (f : Intake → Intake) : (s.modIntake i f).store = s.store := rfl
@[simp] theorem modIntake_chains (s : State) (i : Fin 4) (f : Intake → Intake) : (s.modIntake i f).chains = s.chains := rfl
@[simp] theorem modIntake_mem (s : State) (i : Fin 4) (f : Intake → Intake) : (s.modIntake i f).mem = s.mem := rfl
@[simp] theorem modIntake_paths (s : State) (i : Fin 4) (f : Intake → Intake) : (s.modIntake i f).paths = s.paths := rfl
@[simp] theorem modIntake_uplink (s : State) (i : Fin 4) (f : Intake → Intake) : (s.modIntake i f).uplink = s.uplink := rfl
@[simp] theorem modIntake_sched (s : State) (i : Fin 4) (f : Intake → Intake) : (s.modIntake i f).sched = s.sched := rfl
@[simp] theorem modIntake_lives (s : State) (i : Fin 4) (f : Intake → Intake) : (s.modIntake i f).lives = s.lives := rfl
@[simp] theorem modIntake_clips (s : State) (i : Fin 4) (f : Intake → Intake) : (s.modIntake i f).clips = s.clips := rfl
@[simp] theorem modIntake_lines (s : State) (i : Fin 4) (f : Intake → Intake) : (s.modIntake i f).lines = s.lines := rfl
@[simp] theorem modIntake_link (s : State) (i : Fin 4) (f : Intake → Intake) : (s.modIntake i f).link = s.link := rfl
@[simp] theorem modIntake_pending (s : State) (i : Fin 4) (f : Intake → Intake) : (s.modIntake i f).pending = s.pending := rfl
@[simp] theorem modIntake_intakes (s : State) (i : Fin 4) (f : Intake → Intake) :
    (s.modIntake i f).intakes = Vec.put s.intakes i (f (s.intakes.get i)) := rfl
@[simp] theorem modIntake_intake (s : State) (i j : Fin 4) (f : Intake → Intake) :
    (s.modIntake i f).intake j = if i = j then f (s.intake i) else s.intake j := by
  simp [State.modIntake, State.intake]

@[simp] theorem modCoder_tb (s : State) (i : Fin 4) (f : Coder → Coder) : (s.modCoder i f).tb = s.tb := rfl
@[simp] theorem modCoder_progs (s : State) (i : Fin 4) (f : Coder → Coder) : (s.modCoder i f).progs = s.progs := rfl
@[simp] theorem modCoder_ports (s : State) (i : Fin 4) (f : Coder → Coder) : (s.modCoder i f).ports = s.ports := rfl
@[simp] theorem modCoder_intakes (s : State) (i : Fin 4) (f : Coder → Coder) : (s.modCoder i f).intakes = s.intakes := rfl
@[simp] theorem modCoder_loops (s : State) (i : Fin 4) (f : Coder → Coder) : (s.modCoder i f).loops = s.loops := rfl
@[simp] theorem modCoder_tables (s : State) (i : Fin 4) (f : Coder → Coder) : (s.modCoder i f).tables = s.tables := rfl
@[simp] theorem modCoder_alloc (s : State) (i : Fin 4) (f : Coder → Coder) : (s.modCoder i f).alloc = s.alloc := rfl
@[simp] theorem modCoder_slots (s : State) (i : Fin 4) (f : Coder → Coder) : (s.modCoder i f).slots = s.slots := rfl
@[simp] theorem modCoder_mixer (s : State) (i : Fin 4) (f : Coder → Coder) : (s.modCoder i f).mixer = s.mixer := rfl
@[simp] theorem modCoder_framers (s : State) (i : Fin 4) (f : Coder → Coder) : (s.modCoder i f).framers = s.framers := rfl
@[simp] theorem modCoder_store (s : State) (i : Fin 4) (f : Coder → Coder) : (s.modCoder i f).store = s.store := rfl
@[simp] theorem modCoder_chains (s : State) (i : Fin 4) (f : Coder → Coder) : (s.modCoder i f).chains = s.chains := rfl
@[simp] theorem modCoder_mem (s : State) (i : Fin 4) (f : Coder → Coder) : (s.modCoder i f).mem = s.mem := rfl
@[simp] theorem modCoder_paths (s : State) (i : Fin 4) (f : Coder → Coder) : (s.modCoder i f).paths = s.paths := rfl
@[simp] theorem modCoder_uplink (s : State) (i : Fin 4) (f : Coder → Coder) : (s.modCoder i f).uplink = s.uplink := rfl
@[simp] theorem modCoder_sched (s : State) (i : Fin 4) (f : Coder → Coder) : (s.modCoder i f).sched = s.sched := rfl
@[simp] theorem modCoder_lives (s : State) (i : Fin 4) (f : Coder → Coder) : (s.modCoder i f).lives = s.lives := rfl
@[simp] theorem modCoder_clips (s : State) (i : Fin 4) (f : Coder → Coder) : (s.modCoder i f).clips = s.clips := rfl
@[simp] theorem modCoder_lines (s : State) (i : Fin 4) (f : Coder → Coder) : (s.modCoder i f).lines = s.lines := rfl
@[simp] theorem modCoder_link (s : State) (i : Fin 4) (f : Coder → Coder) : (s.modCoder i f).link = s.link := rfl
@[simp] theorem modCoder_pending (s : State) (i : Fin 4) (f : Coder → Coder) : (s.modCoder i f).pending = s.pending := rfl
@[simp] theorem modCoder_coders (s : State) (i : Fin 4) (f : Coder → Coder) :
    (s.modCoder i f).coders = Vec.put s.coders i (f (s.coders.get i)) := rfl
@[simp] theorem modCoder_coder (s : State) (i j : Fin 4) (f : Coder → Coder) :
    (s.modCoder i f).coder j = if i = j then f (s.coder i) else s.coder j := by
  simp [State.modCoder, State.coder]

@[simp] theorem modLoop_tb (s : State) (i : Fin 4) (f : RateLoop → RateLoop) : (s.modLoop i f).tb = s.tb := rfl
@[simp] theorem modLoop_progs (s : State) (i : Fin 4) (f : RateLoop → RateLoop) : (s.modLoop i f).progs = s.progs := rfl
@[simp] theorem modLoop_ports (s : State) (i : Fin 4) (f : RateLoop → RateLoop) : (s.modLoop i f).ports = s.ports := rfl
@[simp] theorem modLoop_intakes (s : State) (i : Fin 4) (f : RateLoop → RateLoop) : (s.modLoop i f).intakes = s.intakes := rfl
@[simp] theorem modLoop_coders (s : State) (i : Fin 4) (f : RateLoop → RateLoop) : (s.modLoop i f).coders = s.coders := rfl
@[simp] theorem modLoop_tables (s : State) (i : Fin 4) (f : RateLoop → RateLoop) : (s.modLoop i f).tables = s.tables := rfl
@[simp] theorem modLoop_alloc (s : State) (i : Fin 4) (f : RateLoop → RateLoop) : (s.modLoop i f).alloc = s.alloc := rfl
@[simp] theorem modLoop_slots (s : State) (i : Fin 4) (f : RateLoop → RateLoop) : (s.modLoop i f).slots = s.slots := rfl
@[simp] theorem modLoop_mixer (s : State) (i : Fin 4) (f : RateLoop → RateLoop) : (s.modLoop i f).mixer = s.mixer := rfl
@[simp] theorem modLoop_framers (s : State) (i : Fin 4) (f : RateLoop → RateLoop) : (s.modLoop i f).framers = s.framers := rfl
@[simp] theorem modLoop_store (s : State) (i : Fin 4) (f : RateLoop → RateLoop) : (s.modLoop i f).store = s.store := rfl
@[simp] theorem modLoop_chains (s : State) (i : Fin 4) (f : RateLoop → RateLoop) : (s.modLoop i f).chains = s.chains := rfl
@[simp] theorem modLoop_mem (s : State) (i : Fin 4) (f : RateLoop → RateLoop) : (s.modLoop i f).mem = s.mem := rfl
@[simp] theorem modLoop_paths (s : State) (i : Fin 4) (f : RateLoop → RateLoop) : (s.modLoop i f).paths = s.paths := rfl
@[simp] theorem modLoop_uplink (s : State) (i : Fin 4) (f : RateLoop → RateLoop) : (s.modLoop i f).uplink = s.uplink := rfl
@[simp] theorem modLoop_sched (s : State) (i : Fin 4) (f : RateLoop → RateLoop) : (s.modLoop i f).sched = s.sched := rfl
@[simp] theorem modLoop_lives (s : State) (i : Fin 4) (f : RateLoop → RateLoop) : (s.modLoop i f).lives = s.lives := rfl
@[simp] theorem modLoop_clips (s : State) (i : Fin 4) (f : RateLoop → RateLoop) : (s.modLoop i f).clips = s.clips := rfl
@[simp] theorem modLoop_lines (s : State) (i : Fin 4) (f : RateLoop → RateLoop) : (s.modLoop i f).lines = s.lines := rfl
@[simp] theorem modLoop_link (s : State) (i : Fin 4) (f : RateLoop → RateLoop) : (s.modLoop i f).link = s.link := rfl
@[simp] theorem modLoop_pending (s : State) (i : Fin 4) (f : RateLoop → RateLoop) : (s.modLoop i f).pending = s.pending := rfl
@[simp] theorem modLoop_loops (s : State) (i : Fin 4) (f : RateLoop → RateLoop) :
    (s.modLoop i f).loops = Vec.put s.loops i (f (s.loops.get i)) := rfl
@[simp] theorem modLoop_loop (s : State) (i j : Fin 4) (f : RateLoop → RateLoop) :
    (s.modLoop i f).loop j = if i = j then f (s.loop i) else s.loop j := by
  simp [State.modLoop, State.loop]

@[simp] theorem modTable_tb (s : State) (i : Fin 2) (f : CodeTable → CodeTable) : (s.modTable i f).tb = s.tb := rfl
@[simp] theorem modTable_progs (s : State) (i : Fin 2) (f : CodeTable → CodeTable) : (s.modTable i f).progs = s.progs := rfl
@[simp] theorem modTable_ports (s : State) (i : Fin 2) (f : CodeTable → CodeTable) : (s.modTable i f).ports = s.ports := rfl
@[simp] theorem modTable_intakes (s : State) (i : Fin 2) (f : CodeTable → CodeTable) : (s.modTable i f).intakes = s.intakes := rfl
@[simp] theorem modTable_coders (s : State) (i : Fin 2) (f : CodeTable → CodeTable) : (s.modTable i f).coders = s.coders := rfl
@[simp] theorem modTable_loops (s : State) (i : Fin 2) (f : CodeTable → CodeTable) : (s.modTable i f).loops = s.loops := rfl
@[simp] theorem modTable_alloc (s : State) (i : Fin 2) (f : CodeTable → CodeTable) : (s.modTable i f).alloc = s.alloc := rfl
@[simp] theorem modTable_slots (s : State) (i : Fin 2) (f : CodeTable → CodeTable) : (s.modTable i f).slots = s.slots := rfl
@[simp] theorem modTable_mixer (s : State) (i : Fin 2) (f : CodeTable → CodeTable) : (s.modTable i f).mixer = s.mixer := rfl
@[simp] theorem modTable_framers (s : State) (i : Fin 2) (f : CodeTable → CodeTable) : (s.modTable i f).framers = s.framers := rfl
@[simp] theorem modTable_store (s : State) (i : Fin 2) (f : CodeTable → CodeTable) : (s.modTable i f).store = s.store := rfl
@[simp] theorem modTable_chains (s : State) (i : Fin 2) (f : CodeTable → CodeTable) : (s.modTable i f).chains = s.chains := rfl
@[simp] theorem modTable_mem (s : State) (i : Fin 2) (f : CodeTable → CodeTable) : (s.modTable i f).mem = s.mem := rfl
@[simp] theorem modTable_paths (s : State) (i : Fin 2) (f : CodeTable → CodeTable) : (s.modTable i f).paths = s.paths := rfl
@[simp] theorem modTable_uplink (s : State) (i : Fin 2) (f : CodeTable → CodeTable) : (s.modTable i f).uplink = s.uplink := rfl
@[simp] theorem modTable_sched (s : State) (i : Fin 2) (f : CodeTable → CodeTable) : (s.modTable i f).sched = s.sched := rfl
@[simp] theorem modTable_lives (s : State) (i : Fin 2) (f : CodeTable → CodeTable) : (s.modTable i f).lives = s.lives := rfl
@[simp] theorem modTable_clips (s : State) (i : Fin 2) (f : CodeTable → CodeTable) : (s.modTable i f).clips = s.clips := rfl
@[simp] theorem modTable_lines (s : State) (i : Fin 2) (f : CodeTable → CodeTable) : (s.modTable i f).lines = s.lines := rfl
@[simp] theorem modTable_link (s : State) (i : Fin 2) (f : CodeTable → CodeTable) : (s.modTable i f).link = s.link := rfl
@[simp] theorem modTable_pending (s : State) (i : Fin 2) (f : CodeTable → CodeTable) : (s.modTable i f).pending = s.pending := rfl
@[simp] theorem modTable_tables (s : State) (i : Fin 2) (f : CodeTable → CodeTable) :
    (s.modTable i f).tables = Vec.put s.tables i (f (s.tables.get i)) := rfl
@[simp] theorem modTable_table (s : State) (i j : Fin 2) (f : CodeTable → CodeTable) :
    (s.modTable i f).table j = if i = j then f (s.table i) else s.table j := by
  simp [State.modTable, State.table]

@[simp] theorem modSlot_tb (s : State) (i : Fin 4) (f : SlotPort → SlotPort) : (s.modSlot i f).tb = s.tb := rfl
@[simp] theorem modSlot_progs (s : State) (i : Fin 4) (f : SlotPort → SlotPort) : (s.modSlot i f).progs = s.progs := rfl
@[simp] theorem modSlot_ports (s : State) (i : Fin 4) (f : SlotPort → SlotPort) : (s.modSlot i f).ports = s.ports := rfl
@[simp] theorem modSlot_intakes (s : State) (i : Fin 4) (f : SlotPort → SlotPort) : (s.modSlot i f).intakes = s.intakes := rfl
@[simp] theorem modSlot_coders (s : State) (i : Fin 4) (f : SlotPort → SlotPort) : (s.modSlot i f).coders = s.coders := rfl
@[simp] theorem modSlot_loops (s : State) (i : Fin 4) (f : SlotPort → SlotPort) : (s.modSlot i f).loops = s.loops := rfl
@[simp] theorem modSlot_tables (s : State) (i : Fin 4) (f : SlotPort → SlotPort) : (s.modSlot i f).tables = s.tables := rfl
@[simp] theorem modSlot_alloc (s : State) (i : Fin 4) (f : SlotPort → SlotPort) : (s.modSlot i f).alloc = s.alloc := rfl
@[simp] theorem modSlot_mixer (s : State) (i : Fin 4) (f : SlotPort → SlotPort) : (s.modSlot i f).mixer = s.mixer := rfl
@[simp] theorem modSlot_framers (s : State) (i : Fin 4) (f : SlotPort → SlotPort) : (s.modSlot i f).framers = s.framers := rfl
@[simp] theorem modSlot_store (s : State) (i : Fin 4) (f : SlotPort → SlotPort) : (s.modSlot i f).store = s.store := rfl
@[simp] theorem modSlot_chains (s : State) (i : Fin 4) (f : SlotPort → SlotPort) : (s.modSlot i f).chains = s.chains := rfl
@[simp] theorem modSlot_mem (s : State) (i : Fin 4) (f : SlotPort → SlotPort) : (s.modSlot i f).mem = s.mem := rfl
@[simp] theorem modSlot_paths (s : State) (i : Fin 4) (f : SlotPort → SlotPort) : (s.modSlot i f).paths = s.paths := rfl
@[simp] theorem modSlot_uplink (s : State) (i : Fin 4) (f : SlotPort → SlotPort) : (s.modSlot i f).uplink = s.uplink := rfl
@[simp] theorem modSlot_sched (s : State) (i : Fin 4) (f : SlotPort → SlotPort) : (s.modSlot i f).sched = s.sched := rfl
@[simp] theorem modSlot_lives (s : State) (i : Fin 4) (f : SlotPort → SlotPort) : (s.modSlot i f).lives = s.lives := rfl
@[simp] theorem modSlot_clips (s : State) (i : Fin 4) (f : SlotPort → SlotPort) : (s.modSlot i f).clips = s.clips := rfl
@[simp] theorem modSlot_lines (s : State) (i : Fin 4) (f : SlotPort → SlotPort) : (s.modSlot i f).lines = s.lines := rfl
@[simp] theorem modSlot_link (s : State) (i : Fin 4) (f : SlotPort → SlotPort) : (s.modSlot i f).link = s.link := rfl
@[simp] theorem modSlot_pending (s : State) (i : Fin 4) (f : SlotPort → SlotPort) : (s.modSlot i f).pending = s.pending := rfl
@[simp] theorem modSlot_slots (s : State) (i : Fin 4) (f : SlotPort → SlotPort) :
    (s.modSlot i f).slots = Vec.put s.slots i (f (s.slots.get i)) := rfl
@[simp] theorem modSlot_slot (s : State) (i j : Fin 4) (f : SlotPort → SlotPort) :
    (s.modSlot i f).slot j = if i = j then f (s.slot i) else s.slot j := by
  simp [State.modSlot, State.slot]

@[simp] theorem modFramer_tb (s : State) (i : Fin 4) (f : Framer → Framer) : (s.modFramer i f).tb = s.tb := rfl
@[simp] theorem modFramer_progs (s : State) (i : Fin 4) (f : Framer → Framer) : (s.modFramer i f).progs = s.progs := rfl
@[simp] theorem modFramer_ports (s : State) (i : Fin 4) (f : Framer → Framer) : (s.modFramer i f).ports = s.ports := rfl
@[simp] theorem modFramer_intakes (s : State) (i : Fin 4) (f : Framer → Framer) : (s.modFramer i f).intakes = s.intakes := rfl
@[simp] theorem modFramer_coders (s : State) (i : Fin 4) (f : Framer → Framer) : (s.modFramer i f).coders = s.coders := rfl
@[simp] theorem modFramer_loops (s : State) (i : Fin 4) (f : Framer → Framer) : (s.modFramer i f).loops = s.loops := rfl
@[simp] theorem modFramer_tables (s : State) (i : Fin 4) (f : Framer → Framer) : (s.modFramer i f).tables = s.tables := rfl
@[simp] theorem modFramer_alloc (s : State) (i : Fin 4) (f : Framer → Framer) : (s.modFramer i f).alloc = s.alloc := rfl
@[simp] theorem modFramer_slots (s : State) (i : Fin 4) (f : Framer → Framer) : (s.modFramer i f).slots = s.slots := rfl
@[simp] theorem modFramer_mixer (s : State) (i : Fin 4) (f : Framer → Framer) : (s.modFramer i f).mixer = s.mixer := rfl
@[simp] theorem modFramer_store (s : State) (i : Fin 4) (f : Framer → Framer) : (s.modFramer i f).store = s.store := rfl
@[simp] theorem modFramer_chains (s : State) (i : Fin 4) (f : Framer → Framer) : (s.modFramer i f).chains = s.chains := rfl
@[simp] theorem modFramer_mem (s : State) (i : Fin 4) (f : Framer → Framer) : (s.modFramer i f).mem = s.mem := rfl
@[simp] theorem modFramer_paths (s : State) (i : Fin 4) (f : Framer → Framer) : (s.modFramer i f).paths = s.paths := rfl
@[simp] theorem modFramer_uplink (s : State) (i : Fin 4) (f : Framer → Framer) : (s.modFramer i f).uplink = s.uplink := rfl
@[simp] theorem modFramer_sched (s : State) (i : Fin 4) (f : Framer → Framer) : (s.modFramer i f).sched = s.sched := rfl
@[simp] theorem modFramer_lives (s : State) (i : Fin 4) (f : Framer → Framer) : (s.modFramer i f).lives = s.lives := rfl
@[simp] theorem modFramer_clips (s : State) (i : Fin 4) (f : Framer → Framer) : (s.modFramer i f).clips = s.clips := rfl
@[simp] theorem modFramer_lines (s : State) (i : Fin 4) (f : Framer → Framer) : (s.modFramer i f).lines = s.lines := rfl
@[simp] theorem modFramer_link (s : State) (i : Fin 4) (f : Framer → Framer) : (s.modFramer i f).link = s.link := rfl
@[simp] theorem modFramer_pending (s : State) (i : Fin 4) (f : Framer → Framer) : (s.modFramer i f).pending = s.pending := rfl
@[simp] theorem modFramer_framers (s : State) (i : Fin 4) (f : Framer → Framer) :
    (s.modFramer i f).framers = Vec.put s.framers i (f (s.framers.get i)) := rfl
@[simp] theorem modFramer_framer (s : State) (i j : Fin 4) (f : Framer → Framer) :
    (s.modFramer i f).framer j = if i = j then f (s.framer i) else s.framer j := by
  simp [State.modFramer, State.framer]

@[simp] theorem modChain_tb (s : State) (i : Fin 4) (f : Chain → Chain) : (s.modChain i f).tb = s.tb := rfl
@[simp] theorem modChain_progs (s : State) (i : Fin 4) (f : Chain → Chain) : (s.modChain i f).progs = s.progs := rfl
@[simp] theorem modChain_ports (s : State) (i : Fin 4) (f : Chain → Chain) : (s.modChain i f).ports = s.ports := rfl
@[simp] theorem modChain_intakes (s : State) (i : Fin 4) (f : Chain → Chain) : (s.modChain i f).intakes = s.intakes := rfl
@[simp] theorem modChain_coders (s : State) (i : Fin 4) (f : Chain → Chain) : (s.modChain i f).coders = s.coders := rfl
@[simp] theorem modChain_loops (s : State) (i : Fin 4) (f : Chain → Chain) : (s.modChain i f).loops = s.loops := rfl
@[simp] theorem modChain_tables (s : State) (i : Fin 4) (f : Chain → Chain) : (s.modChain i f).tables = s.tables := rfl
@[simp] theorem modChain_alloc (s : State) (i : Fin 4) (f : Chain → Chain) : (s.modChain i f).alloc = s.alloc := rfl
@[simp] theorem modChain_slots (s : State) (i : Fin 4) (f : Chain → Chain) : (s.modChain i f).slots = s.slots := rfl
@[simp] theorem modChain_mixer (s : State) (i : Fin 4) (f : Chain → Chain) : (s.modChain i f).mixer = s.mixer := rfl
@[simp] theorem modChain_framers (s : State) (i : Fin 4) (f : Chain → Chain) : (s.modChain i f).framers = s.framers := rfl
@[simp] theorem modChain_store (s : State) (i : Fin 4) (f : Chain → Chain) : (s.modChain i f).store = s.store := rfl
@[simp] theorem modChain_mem (s : State) (i : Fin 4) (f : Chain → Chain) : (s.modChain i f).mem = s.mem := rfl
@[simp] theorem modChain_paths (s : State) (i : Fin 4) (f : Chain → Chain) : (s.modChain i f).paths = s.paths := rfl
@[simp] theorem modChain_uplink (s : State) (i : Fin 4) (f : Chain → Chain) : (s.modChain i f).uplink = s.uplink := rfl
@[simp] theorem modChain_sched (s : State) (i : Fin 4) (f : Chain → Chain) : (s.modChain i f).sched = s.sched := rfl
@[simp] theorem modChain_lives (s : State) (i : Fin 4) (f : Chain → Chain) : (s.modChain i f).lives = s.lives := rfl
@[simp] theorem modChain_clips (s : State) (i : Fin 4) (f : Chain → Chain) : (s.modChain i f).clips = s.clips := rfl
@[simp] theorem modChain_lines (s : State) (i : Fin 4) (f : Chain → Chain) : (s.modChain i f).lines = s.lines := rfl
@[simp] theorem modChain_link (s : State) (i : Fin 4) (f : Chain → Chain) : (s.modChain i f).link = s.link := rfl
@[simp] theorem modChain_pending (s : State) (i : Fin 4) (f : Chain → Chain) : (s.modChain i f).pending = s.pending := rfl
@[simp] theorem modChain_chains (s : State) (i : Fin 4) (f : Chain → Chain) :
    (s.modChain i f).chains = Vec.put s.chains i (f (s.chains.get i)) := rfl
@[simp] theorem modChain_chain (s : State) (i j : Fin 4) (f : Chain → Chain) :
    (s.modChain i f).chain j = if i = j then f (s.chain i) else s.chain j := by
  simp [State.modChain, State.chain]

@[simp] theorem modPath_tb (s : State) (i : Fin 6) (f : Path → Path) : (s.modPath i f).tb = s.tb := rfl
@[simp] theorem modPath_progs (s : State) (i : Fin 6) (f : Path → Path) : (s.modPath i f).progs = s.progs := rfl
@[simp] theorem modPath_ports (s : State) (i : Fin 6) (f : Path → Path) : (s.modPath i f).ports = s.ports := rfl
@[simp] theorem modPath_intakes (s : State) (i : Fin 6) (f : Path → Path) : (s.modPath i f).intakes = s.intakes := rfl
@[simp] theorem modPath_coders (s : State) (i : Fin 6) (f : Path → Path) : (s.modPath i f).coders = s.coders := rfl
@[simp] theorem modPath_loops (s : State) (i : Fin 6) (f : Path → Path) : (s.modPath i f).loops = s.loops := rfl
@[simp] theorem modPath_tables (s : State) (i : Fin 6) (f : Path → Path) : (s.modPath i f).tables = s.tables := rfl
@[simp] theorem modPath_alloc (s : State) (i : Fin 6) (f : Path → Path) : (s.modPath i f).alloc = s.alloc := rfl
@[simp] theorem modPath_slots (s : State) (i : Fin 6) (f : Path → Path) : (s.modPath i f).slots = s.slots := rfl
@[simp] theorem modPath_mixer (s : State) (i : Fin 6) (f : Path → Path) : (s.modPath i f).mixer = s.mixer := rfl
@[simp] theorem modPath_framers (s : State) (i : Fin 6) (f : Path → Path) : (s.modPath i f).framers = s.framers := rfl
@[simp] theorem modPath_store (s : State) (i : Fin 6) (f : Path → Path) : (s.modPath i f).store = s.store := rfl
@[simp] theorem modPath_chains (s : State) (i : Fin 6) (f : Path → Path) : (s.modPath i f).chains = s.chains := rfl
@[simp] theorem modPath_mem (s : State) (i : Fin 6) (f : Path → Path) : (s.modPath i f).mem = s.mem := rfl
@[simp] theorem modPath_uplink (s : State) (i : Fin 6) (f : Path → Path) : (s.modPath i f).uplink = s.uplink := rfl
@[simp] theorem modPath_sched (s : State) (i : Fin 6) (f : Path → Path) : (s.modPath i f).sched = s.sched := rfl
@[simp] theorem modPath_lives (s : State) (i : Fin 6) (f : Path → Path) : (s.modPath i f).lives = s.lives := rfl
@[simp] theorem modPath_clips (s : State) (i : Fin 6) (f : Path → Path) : (s.modPath i f).clips = s.clips := rfl
@[simp] theorem modPath_lines (s : State) (i : Fin 6) (f : Path → Path) : (s.modPath i f).lines = s.lines := rfl
@[simp] theorem modPath_link (s : State) (i : Fin 6) (f : Path → Path) : (s.modPath i f).link = s.link := rfl
@[simp] theorem modPath_pending (s : State) (i : Fin 6) (f : Path → Path) : (s.modPath i f).pending = s.pending := rfl
@[simp] theorem modPath_paths (s : State) (i : Fin 6) (f : Path → Path) :
    (s.modPath i f).paths = Vec.put s.paths i (f (s.paths.get i)) := rfl
@[simp] theorem modPath_path (s : State) (i j : Fin 6) (f : Path → Path) :
    (s.modPath i f).path j = if i = j then f (s.path i) else s.path j := by
  simp [State.modPath, State.path]

@[simp] theorem modLive_tb (s : State) (i : Fin 4) (f : Live → Live) : (s.modLive i f).tb = s.tb := rfl
@[simp] theorem modLive_progs (s : State) (i : Fin 4) (f : Live → Live) : (s.modLive i f).progs = s.progs := rfl
@[simp] theorem modLive_ports (s : State) (i : Fin 4) (f : Live → Live) : (s.modLive i f).ports = s.ports := rfl
@[simp] theorem modLive_intakes (s : State) (i : Fin 4) (f : Live → Live) : (s.modLive i f).intakes = s.intakes := rfl
@[simp] theorem modLive_coders (s : State) (i : Fin 4) (f : Live → Live) : (s.modLive i f).coders = s.coders := rfl
@[simp] theorem modLive_loops (s : State) (i : Fin 4) (f : Live → Live) : (s.modLive i f).loops = s.loops := rfl
@[simp] theorem modLive_tables (s : State) (i : Fin 4) (f : Live → Live) : (s.modLive i f).tables = s.tables := rfl
@[simp] theorem modLive_alloc (s : State) (i : Fin 4) (f : Live → Live) : (s.modLive i f).alloc = s.alloc := rfl
@[simp] theorem modLive_slots (s : State) (i : Fin 4) (f : Live → Live) : (s.modLive i f).slots = s.slots := rfl
@[simp] theorem modLive_mixer (s : State) (i : Fin 4) (f : Live → Live) : (s.modLive i f).mixer = s.mixer := rfl
@[simp] theorem modLive_framers (s : State) (i : Fin 4) (f : Live → Live) : (s.modLive i f).framers = s.framers := rfl
@[simp] theorem modLive_store (s : State) (i : Fin 4) (f : Live → Live) : (s.modLive i f).store = s.store := rfl
@[simp] theorem modLive_chains (s : State) (i : Fin 4) (f : Live → Live) : (s.modLive i f).chains = s.chains := rfl
@[simp] theorem modLive_mem (s : State) (i : Fin 4) (f : Live → Live) : (s.modLive i f).mem = s.mem := rfl
@[simp] theorem modLive_paths (s : State) (i : Fin 4) (f : Live → Live) : (s.modLive i f).paths = s.paths := rfl
@[simp] theorem modLive_uplink (s : State) (i : Fin 4) (f : Live → Live) : (s.modLive i f).uplink = s.uplink := rfl
@[simp] theorem modLive_sched (s : State) (i : Fin 4) (f : Live → Live) : (s.modLive i f).sched = s.sched := rfl
@[simp] theorem modLive_clips (s : State) (i : Fin 4) (f : Live → Live) : (s.modLive i f).clips = s.clips := rfl
@[simp] theorem modLive_lines (s : State) (i : Fin 4) (f : Live → Live) : (s.modLive i f).lines = s.lines := rfl
@[simp] theorem modLive_link (s : State) (i : Fin 4) (f : Live → Live) : (s.modLive i f).link = s.link := rfl
@[simp] theorem modLive_pending (s : State) (i : Fin 4) (f : Live → Live) : (s.modLive i f).pending = s.pending := rfl
@[simp] theorem modLive_lives (s : State) (i : Fin 4) (f : Live → Live) :
    (s.modLive i f).lives = Vec.put s.lives i (f (s.lives.get i)) := rfl
@[simp] theorem modLive_live (s : State) (i j : Fin 4) (f : Live → Live) :
    (s.modLive i f).live j = if i = j then f (s.live i) else s.live j := by
  simp [State.modLive, State.live]

@[simp] theorem modLine_tb (s : State) (i : Fin 2) (f : MarkLine → MarkLine) : (s.modLine i f).tb = s.tb := rfl
@[simp] theorem modLine_progs (s : State) (i : Fin 2) (f : MarkLine → MarkLine) : (s.modLine i f).progs = s.progs := rfl
@[simp] theorem modLine_ports (s : State) (i : Fin 2) (f : MarkLine → MarkLine) : (s.modLine i f).ports = s.ports := rfl
@[simp] theorem modLine_intakes (s : State) (i : Fin 2) (f : MarkLine → MarkLine) : (s.modLine i f).intakes = s.intakes := rfl
@[simp] theorem modLine_coders (s : State) (i : Fin 2) (f : MarkLine → MarkLine) : (s.modLine i f).coders = s.coders := rfl
@[simp] theorem modLine_loops (s : State) (i : Fin 2) (f : MarkLine → MarkLine) : (s.modLine i f).loops = s.loops := rfl
@[simp] theorem modLine_tables (s : State) (i : Fin 2) (f : MarkLine → MarkLine) : (s.modLine i f).tables = s.tables := rfl
@[simp] theorem modLine_alloc (s : State) (i : Fin 2) (f : MarkLine → MarkLine) : (s.modLine i f).alloc = s.alloc := rfl
@[simp] theorem modLine_slots (s : State) (i : Fin 2) (f : MarkLine → MarkLine) : (s.modLine i f).slots = s.slots := rfl
@[simp] theorem modLine_mixer (s : State) (i : Fin 2) (f : MarkLine → MarkLine) : (s.modLine i f).mixer = s.mixer := rfl
@[simp] theorem modLine_framers (s : State) (i : Fin 2) (f : MarkLine → MarkLine) : (s.modLine i f).framers = s.framers := rfl
@[simp] theorem modLine_store (s : State) (i : Fin 2) (f : MarkLine → MarkLine) : (s.modLine i f).store = s.store := rfl
@[simp] theorem modLine_chains (s : State) (i : Fin 2) (f : MarkLine → MarkLine) : (s.modLine i f).chains = s.chains := rfl
@[simp] theorem modLine_mem (s : State) (i : Fin 2) (f : MarkLine → MarkLine) : (s.modLine i f).mem = s.mem := rfl
@[simp] theorem modLine_paths (s : State) (i : Fin 2) (f : MarkLine → MarkLine) : (s.modLine i f).paths = s.paths := rfl
@[simp] theorem modLine_uplink (s : State) (i : Fin 2) (f : MarkLine → MarkLine) : (s.modLine i f).uplink = s.uplink := rfl
@[simp] theorem modLine_sched (s : State) (i : Fin 2) (f : MarkLine → MarkLine) : (s.modLine i f).sched = s.sched := rfl
@[simp] theorem modLine_lives (s : State) (i : Fin 2) (f : MarkLine → MarkLine) : (s.modLine i f).lives = s.lives := rfl
@[simp] theorem modLine_clips (s : State) (i : Fin 2) (f : MarkLine → MarkLine) : (s.modLine i f).clips = s.clips := rfl
@[simp] theorem modLine_link (s : State) (i : Fin 2) (f : MarkLine → MarkLine) : (s.modLine i f).link = s.link := rfl
@[simp] theorem modLine_pending (s : State) (i : Fin 2) (f : MarkLine → MarkLine) : (s.modLine i f).pending = s.pending := rfl
@[simp] theorem modLine_lines (s : State) (i : Fin 2) (f : MarkLine → MarkLine) :
    (s.modLine i f).lines = Vec.put s.lines i (f (s.lines.get i)) := rfl
@[simp] theorem modLine_line (s : State) (i j : Fin 2) (f : MarkLine → MarkLine) :
    (s.modLine i f).line j = if i = j then f (s.line i) else s.line j := by
  simp [State.modLine, State.line]

@[simp] theorem modTb_progs (s : State) (f : Timebase → Timebase) : (s.modTb f).progs = s.progs := rfl
@[simp] theorem modTb_ports (s : State) (f : Timebase → Timebase) : (s.modTb f).ports = s.ports := rfl
@[simp] theorem modTb_intakes (s : State) (f : Timebase → Timebase) : (s.modTb f).intakes = s.intakes := rfl
@[simp] theorem modTb_coders (s : State) (f : Timebase → Timebase) : (s.modTb f).coders = s.coders := rfl
@[simp] theorem modTb_loops (s : State) (f : Timebase → Timebase) : (s.modTb f).loops = s.loops := rfl
@[simp] theorem modTb_tables (s : State) (f : Timebase → Timebase) : (s.modTb f).tables = s.tables := rfl
@[simp] theorem modTb_alloc (s : State) (f : Timebase → Timebase) : (s.modTb f).alloc = s.alloc := rfl
@[simp] theorem modTb_slots (s : State) (f : Timebase → Timebase) : (s.modTb f).slots = s.slots := rfl
@[simp] theorem modTb_mixer (s : State) (f : Timebase → Timebase) : (s.modTb f).mixer = s.mixer := rfl
@[simp] theorem modTb_framers (s : State) (f : Timebase → Timebase) : (s.modTb f).framers = s.framers := rfl
@[simp] theorem modTb_store (s : State) (f : Timebase → Timebase) : (s.modTb f).store = s.store := rfl
@[simp] theorem modTb_chains (s : State) (f : Timebase → Timebase) : (s.modTb f).chains = s.chains := rfl
@[simp] theorem modTb_mem (s : State) (f : Timebase → Timebase) : (s.modTb f).mem = s.mem := rfl
@[simp] theorem modTb_paths (s : State) (f : Timebase → Timebase) : (s.modTb f).paths = s.paths := rfl
@[simp] theorem modTb_uplink (s : State) (f : Timebase → Timebase) : (s.modTb f).uplink = s.uplink := rfl
@[simp] theorem modTb_sched (s : State) (f : Timebase → Timebase) : (s.modTb f).sched = s.sched := rfl
@[simp] theorem modTb_lives (s : State) (f : Timebase → Timebase) : (s.modTb f).lives = s.lives := rfl
@[simp] theorem modTb_clips (s : State) (f : Timebase → Timebase) : (s.modTb f).clips = s.clips := rfl
@[simp] theorem modTb_lines (s : State) (f : Timebase → Timebase) : (s.modTb f).lines = s.lines := rfl
@[simp] theorem modTb_link (s : State) (f : Timebase → Timebase) : (s.modTb f).link = s.link := rfl
@[simp] theorem modTb_pending (s : State) (f : Timebase → Timebase) : (s.modTb f).pending = s.pending := rfl
@[simp] theorem modTb_tb (s : State) (f : Timebase → Timebase) : (s.modTb f).tb = f s.tb := rfl

@[simp] theorem modAlloc_tb (s : State) (f : Allocator → Allocator) : (s.modAlloc f).tb = s.tb := rfl
@[simp] theorem modAlloc_progs (s : State) (f : Allocator → Allocator) : (s.modAlloc f).progs = s.progs := rfl
@[simp] theorem modAlloc_ports (s : State) (f : Allocator → Allocator) : (s.modAlloc f).ports = s.ports := rfl
@[simp] theorem modAlloc_intakes (s : State) (f : Allocator → Allocator) : (s.modAlloc f).intakes = s.intakes := rfl
@[simp] theorem modAlloc_coders (s : State) (f : Allocator → Allocator) : (s.modAlloc f).coders = s.coders := rfl
@[simp] theorem modAlloc_loops (s : State) (f : Allocator → Allocator) : (s.modAlloc f).loops = s.loops := rfl
@[simp] theorem modAlloc_tables (s : State) (f : Allocator → Allocator) : (s.modAlloc f).tables = s.tables := rfl
@[simp] theorem modAlloc_slots (s : State) (f : Allocator → Allocator) : (s.modAlloc f).slots = s.slots := rfl
@[simp] theorem modAlloc_mixer (s : State) (f : Allocator → Allocator) : (s.modAlloc f).mixer = s.mixer := rfl
@[simp] theorem modAlloc_framers (s : State) (f : Allocator → Allocator) : (s.modAlloc f).framers = s.framers := rfl
@[simp] theorem modAlloc_store (s : State) (f : Allocator → Allocator) : (s.modAlloc f).store = s.store := rfl
@[simp] theorem modAlloc_chains (s : State) (f : Allocator → Allocator) : (s.modAlloc f).chains = s.chains := rfl
@[simp] theorem modAlloc_mem (s : State) (f : Allocator → Allocator) : (s.modAlloc f).mem = s.mem := rfl
@[simp] theorem modAlloc_paths (s : State) (f : Allocator → Allocator) : (s.modAlloc f).paths = s.paths := rfl
@[simp] theorem modAlloc_uplink (s : State) (f : Allocator → Allocator) : (s.modAlloc f).uplink = s.uplink := rfl
@[simp] theorem modAlloc_sched (s : State) (f : Allocator → Allocator) : (s.modAlloc f).sched = s.sched := rfl
@[simp] theorem modAlloc_lives (s : State) (f : Allocator → Allocator) : (s.modAlloc f).lives = s.lives := rfl
@[simp] theorem modAlloc_clips (s : State) (f : Allocator → Allocator) : (s.modAlloc f).clips = s.clips := rfl
@[simp] theorem modAlloc_lines (s : State) (f : Allocator → Allocator) : (s.modAlloc f).lines = s.lines := rfl
@[simp] theorem modAlloc_link (s : State) (f : Allocator → Allocator) : (s.modAlloc f).link = s.link := rfl
@[simp] theorem modAlloc_pending (s : State) (f : Allocator → Allocator) : (s.modAlloc f).pending = s.pending := rfl
@[simp] theorem modAlloc_alloc (s : State) (f : Allocator → Allocator) : (s.modAlloc f).alloc = f s.alloc := rfl

@[simp] theorem modMixer_tb (s : State) (f : Mixer → Mixer) : (s.modMixer f).tb = s.tb := rfl
@[simp] theorem modMixer_progs (s : State) (f : Mixer → Mixer) : (s.modMixer f).progs = s.progs := rfl
@[simp] theorem modMixer_ports (s : State) (f : Mixer → Mixer) : (s.modMixer f).ports = s.ports := rfl
@[simp] theorem modMixer_intakes (s : State) (f : Mixer → Mixer) : (s.modMixer f).intakes = s.intakes := rfl
@[simp] theorem modMixer_coders (s : State) (f : Mixer → Mixer) : (s.modMixer f).coders = s.coders := rfl
@[simp] theorem modMixer_loops (s : State) (f : Mixer → Mixer) : (s.modMixer f).loops = s.loops := rfl
@[simp] theorem modMixer_tables (s : State) (f : Mixer → Mixer) : (s.modMixer f).tables = s.tables := rfl
@[simp] theorem modMixer_alloc (s : State) (f : Mixer → Mixer) : (s.modMixer f).alloc = s.alloc := rfl
@[simp] theorem modMixer_slots (s : State) (f : Mixer → Mixer) : (s.modMixer f).slots = s.slots := rfl
@[simp] theorem modMixer_framers (s : State) (f : Mixer → Mixer) : (s.modMixer f).framers = s.framers := rfl
@[simp] theorem modMixer_store (s : State) (f : Mixer → Mixer) : (s.modMixer f).store = s.store := rfl
@[simp] theorem modMixer_chains (s : State) (f : Mixer → Mixer) : (s.modMixer f).chains = s.chains := rfl
@[simp] theorem modMixer_mem (s : State) (f : Mixer → Mixer) : (s.modMixer f).mem = s.mem := rfl
@[simp] theorem modMixer_paths (s : State) (f : Mixer → Mixer) : (s.modMixer f).paths = s.paths := rfl
@[simp] theorem modMixer_uplink (s : State) (f : Mixer → Mixer) : (s.modMixer f).uplink = s.uplink := rfl
@[simp] theorem modMixer_sched (s : State) (f : Mixer → Mixer) : (s.modMixer f).sched = s.sched := rfl
@[simp] theorem modMixer_lives (s : State) (f : Mixer → Mixer) : (s.modMixer f).lives = s.lives := rfl
@[simp] theorem modMixer_clips (s : State) (f : Mixer → Mixer) : (s.modMixer f).clips = s.clips := rfl
@[simp] theorem modMixer_lines (s : State) (f : Mixer → Mixer) : (s.modMixer f).lines = s.lines := rfl
@[simp] theorem modMixer_link (s : State) (f : Mixer → Mixer) : (s.modMixer f).link = s.link := rfl
@[simp] theorem modMixer_pending (s : State) (f : Mixer → Mixer) : (s.modMixer f).pending = s.pending := rfl
@[simp] theorem modMixer_mixer (s : State) (f : Mixer → Mixer) : (s.modMixer f).mixer = f s.mixer := rfl

@[simp] theorem modStore_tb (s : State) (f : Store → Store) : (s.modStore f).tb = s.tb := rfl
@[simp] theorem modStore_progs (s : State) (f : Store → Store) : (s.modStore f).progs = s.progs := rfl
@[simp] theorem modStore_ports (s : State) (f : Store → Store) : (s.modStore f).ports = s.ports := rfl
@[simp] theorem modStore_intakes (s : State) (f : Store → Store) : (s.modStore f).intakes = s.intakes := rfl
@[simp] theorem modStore_coders (s : State) (f : Store → Store) : (s.modStore f).coders = s.coders := rfl
@[simp] theorem modStore_loops (s : State) (f : Store → Store) : (s.modStore f).loops = s.loops := rfl
@[simp] theorem modStore_tables (s : State) (f : Store → Store) : (s.modStore f).tables = s.tables := rfl
@[simp] theorem modStore_alloc (s : State) (f : Store → Store) : (s.modStore f).alloc = s.alloc := rfl
@[simp] theorem modStore_slots (s : State) (f : Store → Store) : (s.modStore f).slots = s.slots := rfl
@[simp] theorem modStore_mixer (s : State) (f : Store → Store) : (s.modStore f).mixer = s.mixer := rfl
@[simp] theorem modStore_framers (s : State) (f : Store → Store) : (s.modStore f).framers = s.framers := rfl
@[simp] theorem modStore_chains (s : State) (f : Store → Store) : (s.modStore f).chains = s.chains := rfl
@[simp] theorem modStore_mem (s : State) (f : Store → Store) : (s.modStore f).mem = s.mem := rfl
@[simp] theorem modStore_paths (s : State) (f : Store → Store) : (s.modStore f).paths = s.paths := rfl
@[simp] theorem modStore_uplink (s : State) (f : Store → Store) : (s.modStore f).uplink = s.uplink := rfl
@[simp] theorem modStore_sched (s : State) (f : Store → Store) : (s.modStore f).sched = s.sched := rfl
@[simp] theorem modStore_lives (s : State) (f : Store → Store) : (s.modStore f).lives = s.lives := rfl
@[simp] theorem modStore_clips (s : State) (f : Store → Store) : (s.modStore f).clips = s.clips := rfl
@[simp] theorem modStore_lines (s : State) (f : Store → Store) : (s.modStore f).lines = s.lines := rfl
@[simp] theorem modStore_link (s : State) (f : Store → Store) : (s.modStore f).link = s.link := rfl
@[simp] theorem modStore_pending (s : State) (f : Store → Store) : (s.modStore f).pending = s.pending := rfl
@[simp] theorem modStore_store (s : State) (f : Store → Store) : (s.modStore f).store = f s.store := rfl

@[simp] theorem modMem_tb (s : State) (f : List Host.Cell → List Host.Cell) : (s.modMem f).tb = s.tb := rfl
@[simp] theorem modMem_progs (s : State) (f : List Host.Cell → List Host.Cell) : (s.modMem f).progs = s.progs := rfl
@[simp] theorem modMem_ports (s : State) (f : List Host.Cell → List Host.Cell) : (s.modMem f).ports = s.ports := rfl
@[simp] theorem modMem_intakes (s : State) (f : List Host.Cell → List Host.Cell) : (s.modMem f).intakes = s.intakes := rfl
@[simp] theorem modMem_coders (s : State) (f : List Host.Cell → List Host.Cell) : (s.modMem f).coders = s.coders := rfl
@[simp] theorem modMem_loops (s : State) (f : List Host.Cell → List Host.Cell) : (s.modMem f).loops = s.loops := rfl
@[simp] theorem modMem_tables (s : State) (f : List Host.Cell → List Host.Cell) : (s.modMem f).tables = s.tables := rfl
@[simp] theorem modMem_alloc (s : State) (f : List Host.Cell → List Host.Cell) : (s.modMem f).alloc = s.alloc := rfl
@[simp] theorem modMem_slots (s : State) (f : List Host.Cell → List Host.Cell) : (s.modMem f).slots = s.slots := rfl
@[simp] theorem modMem_mixer (s : State) (f : List Host.Cell → List Host.Cell) : (s.modMem f).mixer = s.mixer := rfl
@[simp] theorem modMem_framers (s : State) (f : List Host.Cell → List Host.Cell) : (s.modMem f).framers = s.framers := rfl
@[simp] theorem modMem_store (s : State) (f : List Host.Cell → List Host.Cell) : (s.modMem f).store = s.store := rfl
@[simp] theorem modMem_chains (s : State) (f : List Host.Cell → List Host.Cell) : (s.modMem f).chains = s.chains := rfl
@[simp] theorem modMem_paths (s : State) (f : List Host.Cell → List Host.Cell) : (s.modMem f).paths = s.paths := rfl
@[simp] theorem modMem_uplink (s : State) (f : List Host.Cell → List Host.Cell) : (s.modMem f).uplink = s.uplink := rfl
@[simp] theorem modMem_sched (s : State) (f : List Host.Cell → List Host.Cell) : (s.modMem f).sched = s.sched := rfl
@[simp] theorem modMem_lives (s : State) (f : List Host.Cell → List Host.Cell) : (s.modMem f).lives = s.lives := rfl
@[simp] theorem modMem_clips (s : State) (f : List Host.Cell → List Host.Cell) : (s.modMem f).clips = s.clips := rfl
@[simp] theorem modMem_lines (s : State) (f : List Host.Cell → List Host.Cell) : (s.modMem f).lines = s.lines := rfl
@[simp] theorem modMem_link (s : State) (f : List Host.Cell → List Host.Cell) : (s.modMem f).link = s.link := rfl
@[simp] theorem modMem_pending (s : State) (f : List Host.Cell → List Host.Cell) : (s.modMem f).pending = s.pending := rfl
@[simp] theorem modMem_mem (s : State) (f : List Host.Cell → List Host.Cell) : (s.modMem f).mem = f s.mem := rfl

@[simp] theorem modUplink_tb (s : State) (f : Uplink → Uplink) : (s.modUplink f).tb = s.tb := rfl
@[simp] theorem modUplink_progs (s : State) (f : Uplink → Uplink) : (s.modUplink f).progs = s.progs := rfl
@[simp] theorem modUplink_ports (s : State) (f : Uplink → Uplink) : (s.modUplink f).ports = s.ports := rfl
@[simp] theorem modUplink_intakes (s : State) (f : Uplink → Uplink) : (s.modUplink f).intakes = s.intakes := rfl
@[simp] theorem modUplink_coders (s : State) (f : Uplink → Uplink) : (s.modUplink f).coders = s.coders := rfl
@[simp] theorem modUplink_loops (s : State) (f : Uplink → Uplink) : (s.modUplink f).loops = s.loops := rfl
@[simp] theorem modUplink_tables (s : State) (f : Uplink → Uplink) : (s.modUplink f).tables = s.tables := rfl
@[simp] theorem modUplink_alloc (s : State) (f : Uplink → Uplink) : (s.modUplink f).alloc = s.alloc := rfl
@[simp] theorem modUplink_slots (s : State) (f : Uplink → Uplink) : (s.modUplink f).slots = s.slots := rfl
@[simp] theorem modUplink_mixer (s : State) (f : Uplink → Uplink) : (s.modUplink f).mixer = s.mixer := rfl
@[simp] theorem modUplink_framers (s : State) (f : Uplink → Uplink) : (s.modUplink f).framers = s.framers := rfl
@[simp] theorem modUplink_store (s : State) (f : Uplink → Uplink) : (s.modUplink f).store = s.store := rfl
@[simp] theorem modUplink_chains (s : State) (f : Uplink → Uplink) : (s.modUplink f).chains = s.chains := rfl
@[simp] theorem modUplink_mem (s : State) (f : Uplink → Uplink) : (s.modUplink f).mem = s.mem := rfl
@[simp] theorem modUplink_paths (s : State) (f : Uplink → Uplink) : (s.modUplink f).paths = s.paths := rfl
@[simp] theorem modUplink_sched (s : State) (f : Uplink → Uplink) : (s.modUplink f).sched = s.sched := rfl
@[simp] theorem modUplink_lives (s : State) (f : Uplink → Uplink) : (s.modUplink f).lives = s.lives := rfl
@[simp] theorem modUplink_clips (s : State) (f : Uplink → Uplink) : (s.modUplink f).clips = s.clips := rfl
@[simp] theorem modUplink_lines (s : State) (f : Uplink → Uplink) : (s.modUplink f).lines = s.lines := rfl
@[simp] theorem modUplink_link (s : State) (f : Uplink → Uplink) : (s.modUplink f).link = s.link := rfl
@[simp] theorem modUplink_pending (s : State) (f : Uplink → Uplink) : (s.modUplink f).pending = s.pending := rfl
@[simp] theorem modUplink_uplink (s : State) (f : Uplink → Uplink) : (s.modUplink f).uplink = f s.uplink := rfl

@[simp] theorem modSched_tb (s : State) (f : Scheduler → Scheduler) : (s.modSched f).tb = s.tb := rfl
@[simp] theorem modSched_progs (s : State) (f : Scheduler → Scheduler) : (s.modSched f).progs = s.progs := rfl
@[simp] theorem modSched_ports (s : State) (f : Scheduler → Scheduler) : (s.modSched f).ports = s.ports := rfl
@[simp] theorem modSched_intakes (s : State) (f : Scheduler → Scheduler) : (s.modSched f).intakes = s.intakes := rfl
@[simp] theorem modSched_coders (s : State) (f : Scheduler → Scheduler) : (s.modSched f).coders = s.coders := rfl
@[simp] theorem modSched_loops (s : State) (f : Scheduler → Scheduler) : (s.modSched f).loops = s.loops := rfl
@[simp] theorem modSched_tables (s : State) (f : Scheduler → Scheduler) : (s.modSched f).tables = s.tables := rfl
@[simp] theorem modSched_alloc (s : State) (f : Scheduler → Scheduler) : (s.modSched f).alloc = s.alloc := rfl
@[simp] theorem modSched_slots (s : State) (f : Scheduler → Scheduler) : (s.modSched f).slots = s.slots := rfl
@[simp] theorem modSched_mixer (s : State) (f : Scheduler → Scheduler) : (s.modSched f).mixer = s.mixer := rfl
@[simp] theorem modSched_framers (s : State) (f : Scheduler → Scheduler) : (s.modSched f).framers = s.framers := rfl
@[simp] theorem modSched_store (s : State) (f : Scheduler → Scheduler) : (s.modSched f).store = s.store := rfl
@[simp] theorem modSched_chains (s : State) (f : Scheduler → Scheduler) : (s.modSched f).chains = s.chains := rfl
@[simp] theorem modSched_mem (s : State) (f : Scheduler → Scheduler) : (s.modSched f).mem = s.mem := rfl
@[simp] theorem modSched_paths (s : State) (f : Scheduler → Scheduler) : (s.modSched f).paths = s.paths := rfl
@[simp] theorem modSched_uplink (s : State) (f : Scheduler → Scheduler) : (s.modSched f).uplink = s.uplink := rfl
@[simp] theorem modSched_lives (s : State) (f : Scheduler → Scheduler) : (s.modSched f).lives = s.lives := rfl
@[simp] theorem modSched_clips (s : State) (f : Scheduler → Scheduler) : (s.modSched f).clips = s.clips := rfl
@[simp] theorem modSched_lines (s : State) (f : Scheduler → Scheduler) : (s.modSched f).lines = s.lines := rfl
@[simp] theorem modSched_link (s : State) (f : Scheduler → Scheduler) : (s.modSched f).link = s.link := rfl
@[simp] theorem modSched_pending (s : State) (f : Scheduler → Scheduler) : (s.modSched f).pending = s.pending := rfl
@[simp] theorem modSched_sched (s : State) (f : Scheduler → Scheduler) : (s.modSched f).sched = f s.sched := rfl

@[simp] theorem modClips_tb (s : State) (f : ClipLog → ClipLog) : (s.modClips f).tb = s.tb := rfl
@[simp] theorem modClips_progs (s : State) (f : ClipLog → ClipLog) : (s.modClips f).progs = s.progs := rfl
@[simp] theorem modClips_ports (s : State) (f : ClipLog → ClipLog) : (s.modClips f).ports = s.ports := rfl
@[simp] theorem modClips_intakes (s : State) (f : ClipLog → ClipLog) : (s.modClips f).intakes = s.intakes := rfl
@[simp] theorem modClips_coders (s : State) (f : ClipLog → ClipLog) : (s.modClips f).coders = s.coders := rfl
@[simp] theorem modClips_loops (s : State) (f : ClipLog → ClipLog) : (s.modClips f).loops = s.loops := rfl
@[simp] theorem modClips_tables (s : State) (f : ClipLog → ClipLog) : (s.modClips f).tables = s.tables := rfl
@[simp] theorem modClips_alloc (s : State) (f : ClipLog → ClipLog) : (s.modClips f).alloc = s.alloc := rfl
@[simp] theorem modClips_slots (s : State) (f : ClipLog → ClipLog) : (s.modClips f).slots = s.slots := rfl
@[simp] theorem modClips_mixer (s : State) (f : ClipLog → ClipLog) : (s.modClips f).mixer = s.mixer := rfl
@[simp] theorem modClips_framers (s : State) (f : ClipLog → ClipLog) : (s.modClips f).framers = s.framers := rfl
@[simp] theorem modClips_store (s : State) (f : ClipLog → ClipLog) : (s.modClips f).store = s.store := rfl
@[simp] theorem modClips_chains (s : State) (f : ClipLog → ClipLog) : (s.modClips f).chains = s.chains := rfl
@[simp] theorem modClips_mem (s : State) (f : ClipLog → ClipLog) : (s.modClips f).mem = s.mem := rfl
@[simp] theorem modClips_paths (s : State) (f : ClipLog → ClipLog) : (s.modClips f).paths = s.paths := rfl
@[simp] theorem modClips_uplink (s : State) (f : ClipLog → ClipLog) : (s.modClips f).uplink = s.uplink := rfl
@[simp] theorem modClips_sched (s : State) (f : ClipLog → ClipLog) : (s.modClips f).sched = s.sched := rfl
@[simp] theorem modClips_lives (s : State) (f : ClipLog → ClipLog) : (s.modClips f).lives = s.lives := rfl
@[simp] theorem modClips_lines (s : State) (f : ClipLog → ClipLog) : (s.modClips f).lines = s.lines := rfl
@[simp] theorem modClips_link (s : State) (f : ClipLog → ClipLog) : (s.modClips f).link = s.link := rfl
@[simp] theorem modClips_pending (s : State) (f : ClipLog → ClipLog) : (s.modClips f).pending = s.pending := rfl
@[simp] theorem modClips_clips (s : State) (f : ClipLog → ClipLog) : (s.modClips f).clips = f s.clips := rfl

@[simp] theorem modLink_tb (s : State) (f : Link → Link) : (s.modLink f).tb = s.tb := rfl
@[simp] theorem modLink_progs (s : State) (f : Link → Link) : (s.modLink f).progs = s.progs := rfl
@[simp] theorem modLink_ports (s : State) (f : Link → Link) : (s.modLink f).ports = s.ports := rfl
@[simp] theorem modLink_intakes (s : State) (f : Link → Link) : (s.modLink f).intakes = s.intakes := rfl
@[simp] theorem modLink_coders (s : State) (f : Link → Link) : (s.modLink f).coders = s.coders := rfl
@[simp] theorem modLink_loops (s : State) (f : Link → Link) : (s.modLink f).loops = s.loops := rfl
@[simp] theorem modLink_tables (s : State) (f : Link → Link) : (s.modLink f).tables = s.tables := rfl
@[simp] theorem modLink_alloc (s : State) (f : Link → Link) : (s.modLink f).alloc = s.alloc := rfl
@[simp] theorem modLink_slots (s : State) (f : Link → Link) : (s.modLink f).slots = s.slots := rfl
@[simp] theorem modLink_mixer (s : State) (f : Link → Link) : (s.modLink f).mixer = s.mixer := rfl
@[simp] theorem modLink_framers (s : State) (f : Link → Link) : (s.modLink f).framers = s.framers := rfl
@[simp] theorem modLink_store (s : State) (f : Link → Link) : (s.modLink f).store = s.store := rfl
@[simp] theorem modLink_chains (s : State) (f : Link → Link) : (s.modLink f).chains = s.chains := rfl
@[simp] theorem modLink_mem (s : State) (f : Link → Link) : (s.modLink f).mem = s.mem := rfl
@[simp] theorem modLink_paths (s : State) (f : Link → Link) : (s.modLink f).paths = s.paths := rfl
@[simp] theorem modLink_uplink (s : State) (f : Link → Link) : (s.modLink f).uplink = s.uplink := rfl
@[simp] theorem modLink_sched (s : State) (f : Link → Link) : (s.modLink f).sched = s.sched := rfl
@[simp] theorem modLink_lives (s : State) (f : Link → Link) : (s.modLink f).lives = s.lives := rfl
@[simp] theorem modLink_clips (s : State) (f : Link → Link) : (s.modLink f).clips = s.clips := rfl
@[simp] theorem modLink_lines (s : State) (f : Link → Link) : (s.modLink f).lines = s.lines := rfl
@[simp] theorem modLink_pending (s : State) (f : Link → Link) : (s.modLink f).pending = s.pending := rfl
@[simp] theorem modLink_link (s : State) (f : Link → Link) : (s.modLink f).link = f s.link := rfl

@[simp] theorem modProg_port (s : State) (i : Fin 4) (f : Program → Program) (j : Fin 4) :
    (s.modProg i f).port j = s.port j := rfl
@[simp] theorem modProg_intake (s : State) (i : Fin 4) (f : Program → Program) (j : Fin 4) :
    (s.modProg i f).intake j = s.intake j := rfl
@[simp] theorem modProg_coder (s : State) (i : Fin 4) (f : Program → Program) (j : Fin 4) :
    (s.modProg i f).coder j = s.coder j := rfl
@[simp] theorem modProg_loop (s : State) (i : Fin 4) (f : Program → Program) (j : Fin 4) :
    (s.modProg i f).loop j = s.loop j := rfl
@[simp] theorem modProg_table (s : State) (i : Fin 4) (f : Program → Program) (j : Fin 2) :
    (s.modProg i f).table j = s.table j := rfl
@[simp] theorem modProg_slot (s : State) (i : Fin 4) (f : Program → Program) (j : Fin 4) :
    (s.modProg i f).slot j = s.slot j := rfl
@[simp] theorem modProg_framer (s : State) (i : Fin 4) (f : Program → Program) (j : Fin 4) :
    (s.modProg i f).framer j = s.framer j := rfl
@[simp] theorem modProg_chain (s : State) (i : Fin 4) (f : Program → Program) (j : Fin 4) :
    (s.modProg i f).chain j = s.chain j := rfl
@[simp] theorem modProg_path (s : State) (i : Fin 4) (f : Program → Program) (j : Fin 6) :
    (s.modProg i f).path j = s.path j := rfl
@[simp] theorem modProg_live (s : State) (i : Fin 4) (f : Program → Program) (j : Fin 4) :
    (s.modProg i f).live j = s.live j := rfl
@[simp] theorem modProg_line (s : State) (i : Fin 4) (f : Program → Program) (j : Fin 2) :
    (s.modProg i f).line j = s.line j := rfl
@[simp] theorem modPort_prog (s : State) (i : Fin 4) (f : PicturePort → PicturePort) (j : Fin 4) :
    (s.modPort i f).prog j = s.prog j := rfl
@[simp] theorem modPort_intake (s : State) (i : Fin 4) (f : PicturePort → PicturePort) (j : Fin 4) :
    (s.modPort i f).intake j = s.intake j := rfl
@[simp] theorem modPort_coder (s : State) (i : Fin 4) (f : PicturePort → PicturePort) (j : Fin 4) :
    (s.modPort i f).coder j = s.coder j := rfl
@[simp] theorem modPort_loop (s : State) (i : Fin 4) (f : PicturePort → PicturePort) (j : Fin 4) :
    (s.modPort i f).loop j = s.loop j := rfl
@[simp] theorem modPort_table (s : State) (i : Fin 4) (f : PicturePort → PicturePort) (j : Fin 2) :
    (s.modPort i f).table j = s.table j := rfl
@[simp] theorem modPort_slot (s : State) (i : Fin 4) (f : PicturePort → PicturePort) (j : Fin 4) :
    (s.modPort i f).slot j = s.slot j := rfl
@[simp] theorem modPort_framer (s : State) (i : Fin 4) (f : PicturePort → PicturePort) (j : Fin 4) :
    (s.modPort i f).framer j = s.framer j := rfl
@[simp] theorem modPort_chain (s : State) (i : Fin 4) (f : PicturePort → PicturePort) (j : Fin 4) :
    (s.modPort i f).chain j = s.chain j := rfl
@[simp] theorem modPort_path (s : State) (i : Fin 4) (f : PicturePort → PicturePort) (j : Fin 6) :
    (s.modPort i f).path j = s.path j := rfl
@[simp] theorem modPort_live (s : State) (i : Fin 4) (f : PicturePort → PicturePort) (j : Fin 4) :
    (s.modPort i f).live j = s.live j := rfl
@[simp] theorem modPort_line (s : State) (i : Fin 4) (f : PicturePort → PicturePort) (j : Fin 2) :
    (s.modPort i f).line j = s.line j := rfl
@[simp] theorem modIntake_prog (s : State) (i : Fin 4) (f : Intake → Intake) (j : Fin 4) :
    (s.modIntake i f).prog j = s.prog j := rfl
@[simp] theorem modIntake_port (s : State) (i : Fin 4) (f : Intake → Intake) (j : Fin 4) :
    (s.modIntake i f).port j = s.port j := rfl
@[simp] theorem modIntake_coder (s : State) (i : Fin 4) (f : Intake → Intake) (j : Fin 4) :
    (s.modIntake i f).coder j = s.coder j := rfl
@[simp] theorem modIntake_loop (s : State) (i : Fin 4) (f : Intake → Intake) (j : Fin 4) :
    (s.modIntake i f).loop j = s.loop j := rfl
@[simp] theorem modIntake_table (s : State) (i : Fin 4) (f : Intake → Intake) (j : Fin 2) :
    (s.modIntake i f).table j = s.table j := rfl
@[simp] theorem modIntake_slot (s : State) (i : Fin 4) (f : Intake → Intake) (j : Fin 4) :
    (s.modIntake i f).slot j = s.slot j := rfl
@[simp] theorem modIntake_framer (s : State) (i : Fin 4) (f : Intake → Intake) (j : Fin 4) :
    (s.modIntake i f).framer j = s.framer j := rfl
@[simp] theorem modIntake_chain (s : State) (i : Fin 4) (f : Intake → Intake) (j : Fin 4) :
    (s.modIntake i f).chain j = s.chain j := rfl
@[simp] theorem modIntake_path (s : State) (i : Fin 4) (f : Intake → Intake) (j : Fin 6) :
    (s.modIntake i f).path j = s.path j := rfl
@[simp] theorem modIntake_live (s : State) (i : Fin 4) (f : Intake → Intake) (j : Fin 4) :
    (s.modIntake i f).live j = s.live j := rfl
@[simp] theorem modIntake_line (s : State) (i : Fin 4) (f : Intake → Intake) (j : Fin 2) :
    (s.modIntake i f).line j = s.line j := rfl
@[simp] theorem modCoder_prog (s : State) (i : Fin 4) (f : Coder → Coder) (j : Fin 4) :
    (s.modCoder i f).prog j = s.prog j := rfl
@[simp] theorem modCoder_port (s : State) (i : Fin 4) (f : Coder → Coder) (j : Fin 4) :
    (s.modCoder i f).port j = s.port j := rfl
@[simp] theorem modCoder_intake (s : State) (i : Fin 4) (f : Coder → Coder) (j : Fin 4) :
    (s.modCoder i f).intake j = s.intake j := rfl
@[simp] theorem modCoder_loop (s : State) (i : Fin 4) (f : Coder → Coder) (j : Fin 4) :
    (s.modCoder i f).loop j = s.loop j := rfl
@[simp] theorem modCoder_table (s : State) (i : Fin 4) (f : Coder → Coder) (j : Fin 2) :
    (s.modCoder i f).table j = s.table j := rfl
@[simp] theorem modCoder_slot (s : State) (i : Fin 4) (f : Coder → Coder) (j : Fin 4) :
    (s.modCoder i f).slot j = s.slot j := rfl
@[simp] theorem modCoder_framer (s : State) (i : Fin 4) (f : Coder → Coder) (j : Fin 4) :
    (s.modCoder i f).framer j = s.framer j := rfl
@[simp] theorem modCoder_chain (s : State) (i : Fin 4) (f : Coder → Coder) (j : Fin 4) :
    (s.modCoder i f).chain j = s.chain j := rfl
@[simp] theorem modCoder_path (s : State) (i : Fin 4) (f : Coder → Coder) (j : Fin 6) :
    (s.modCoder i f).path j = s.path j := rfl
@[simp] theorem modCoder_live (s : State) (i : Fin 4) (f : Coder → Coder) (j : Fin 4) :
    (s.modCoder i f).live j = s.live j := rfl
@[simp] theorem modCoder_line (s : State) (i : Fin 4) (f : Coder → Coder) (j : Fin 2) :
    (s.modCoder i f).line j = s.line j := rfl
@[simp] theorem modLoop_prog (s : State) (i : Fin 4) (f : RateLoop → RateLoop) (j : Fin 4) :
    (s.modLoop i f).prog j = s.prog j := rfl
@[simp] theorem modLoop_port (s : State) (i : Fin 4) (f : RateLoop → RateLoop) (j : Fin 4) :
    (s.modLoop i f).port j = s.port j := rfl
@[simp] theorem modLoop_intake (s : State) (i : Fin 4) (f : RateLoop → RateLoop) (j : Fin 4) :
    (s.modLoop i f).intake j = s.intake j := rfl
@[simp] theorem modLoop_coder (s : State) (i : Fin 4) (f : RateLoop → RateLoop) (j : Fin 4) :
    (s.modLoop i f).coder j = s.coder j := rfl
@[simp] theorem modLoop_table (s : State) (i : Fin 4) (f : RateLoop → RateLoop) (j : Fin 2) :
    (s.modLoop i f).table j = s.table j := rfl
@[simp] theorem modLoop_slot (s : State) (i : Fin 4) (f : RateLoop → RateLoop) (j : Fin 4) :
    (s.modLoop i f).slot j = s.slot j := rfl
@[simp] theorem modLoop_framer (s : State) (i : Fin 4) (f : RateLoop → RateLoop) (j : Fin 4) :
    (s.modLoop i f).framer j = s.framer j := rfl
@[simp] theorem modLoop_chain (s : State) (i : Fin 4) (f : RateLoop → RateLoop) (j : Fin 4) :
    (s.modLoop i f).chain j = s.chain j := rfl
@[simp] theorem modLoop_path (s : State) (i : Fin 4) (f : RateLoop → RateLoop) (j : Fin 6) :
    (s.modLoop i f).path j = s.path j := rfl
@[simp] theorem modLoop_live (s : State) (i : Fin 4) (f : RateLoop → RateLoop) (j : Fin 4) :
    (s.modLoop i f).live j = s.live j := rfl
@[simp] theorem modLoop_line (s : State) (i : Fin 4) (f : RateLoop → RateLoop) (j : Fin 2) :
    (s.modLoop i f).line j = s.line j := rfl
@[simp] theorem modTable_prog (s : State) (i : Fin 2) (f : CodeTable → CodeTable) (j : Fin 4) :
    (s.modTable i f).prog j = s.prog j := rfl
@[simp] theorem modTable_port (s : State) (i : Fin 2) (f : CodeTable → CodeTable) (j : Fin 4) :
    (s.modTable i f).port j = s.port j := rfl
@[simp] theorem modTable_intake (s : State) (i : Fin 2) (f : CodeTable → CodeTable) (j : Fin 4) :
    (s.modTable i f).intake j = s.intake j := rfl
@[simp] theorem modTable_coder (s : State) (i : Fin 2) (f : CodeTable → CodeTable) (j : Fin 4) :
    (s.modTable i f).coder j = s.coder j := rfl
@[simp] theorem modTable_loop (s : State) (i : Fin 2) (f : CodeTable → CodeTable) (j : Fin 4) :
    (s.modTable i f).loop j = s.loop j := rfl
@[simp] theorem modTable_slot (s : State) (i : Fin 2) (f : CodeTable → CodeTable) (j : Fin 4) :
    (s.modTable i f).slot j = s.slot j := rfl
@[simp] theorem modTable_framer (s : State) (i : Fin 2) (f : CodeTable → CodeTable) (j : Fin 4) :
    (s.modTable i f).framer j = s.framer j := rfl
@[simp] theorem modTable_chain (s : State) (i : Fin 2) (f : CodeTable → CodeTable) (j : Fin 4) :
    (s.modTable i f).chain j = s.chain j := rfl
@[simp] theorem modTable_path (s : State) (i : Fin 2) (f : CodeTable → CodeTable) (j : Fin 6) :
    (s.modTable i f).path j = s.path j := rfl
@[simp] theorem modTable_live (s : State) (i : Fin 2) (f : CodeTable → CodeTable) (j : Fin 4) :
    (s.modTable i f).live j = s.live j := rfl
@[simp] theorem modTable_line (s : State) (i : Fin 2) (f : CodeTable → CodeTable) (j : Fin 2) :
    (s.modTable i f).line j = s.line j := rfl
@[simp] theorem modSlot_prog (s : State) (i : Fin 4) (f : SlotPort → SlotPort) (j : Fin 4) :
    (s.modSlot i f).prog j = s.prog j := rfl
@[simp] theorem modSlot_port (s : State) (i : Fin 4) (f : SlotPort → SlotPort) (j : Fin 4) :
    (s.modSlot i f).port j = s.port j := rfl
@[simp] theorem modSlot_intake (s : State) (i : Fin 4) (f : SlotPort → SlotPort) (j : Fin 4) :
    (s.modSlot i f).intake j = s.intake j := rfl
@[simp] theorem modSlot_coder (s : State) (i : Fin 4) (f : SlotPort → SlotPort) (j : Fin 4) :
    (s.modSlot i f).coder j = s.coder j := rfl
@[simp] theorem modSlot_loop (s : State) (i : Fin 4) (f : SlotPort → SlotPort) (j : Fin 4) :
    (s.modSlot i f).loop j = s.loop j := rfl
@[simp] theorem modSlot_table (s : State) (i : Fin 4) (f : SlotPort → SlotPort) (j : Fin 2) :
    (s.modSlot i f).table j = s.table j := rfl
@[simp] theorem modSlot_framer (s : State) (i : Fin 4) (f : SlotPort → SlotPort) (j : Fin 4) :
    (s.modSlot i f).framer j = s.framer j := rfl
@[simp] theorem modSlot_chain (s : State) (i : Fin 4) (f : SlotPort → SlotPort) (j : Fin 4) :
    (s.modSlot i f).chain j = s.chain j := rfl
@[simp] theorem modSlot_path (s : State) (i : Fin 4) (f : SlotPort → SlotPort) (j : Fin 6) :
    (s.modSlot i f).path j = s.path j := rfl
@[simp] theorem modSlot_live (s : State) (i : Fin 4) (f : SlotPort → SlotPort) (j : Fin 4) :
    (s.modSlot i f).live j = s.live j := rfl
@[simp] theorem modSlot_line (s : State) (i : Fin 4) (f : SlotPort → SlotPort) (j : Fin 2) :
    (s.modSlot i f).line j = s.line j := rfl
@[simp] theorem modFramer_prog (s : State) (i : Fin 4) (f : Framer → Framer) (j : Fin 4) :
    (s.modFramer i f).prog j = s.prog j := rfl
@[simp] theorem modFramer_port (s : State) (i : Fin 4) (f : Framer → Framer) (j : Fin 4) :
    (s.modFramer i f).port j = s.port j := rfl
@[simp] theorem modFramer_intake (s : State) (i : Fin 4) (f : Framer → Framer) (j : Fin 4) :
    (s.modFramer i f).intake j = s.intake j := rfl
@[simp] theorem modFramer_coder (s : State) (i : Fin 4) (f : Framer → Framer) (j : Fin 4) :
    (s.modFramer i f).coder j = s.coder j := rfl
@[simp] theorem modFramer_loop (s : State) (i : Fin 4) (f : Framer → Framer) (j : Fin 4) :
    (s.modFramer i f).loop j = s.loop j := rfl
@[simp] theorem modFramer_table (s : State) (i : Fin 4) (f : Framer → Framer) (j : Fin 2) :
    (s.modFramer i f).table j = s.table j := rfl
@[simp] theorem modFramer_slot (s : State) (i : Fin 4) (f : Framer → Framer) (j : Fin 4) :
    (s.modFramer i f).slot j = s.slot j := rfl
@[simp] theorem modFramer_chain (s : State) (i : Fin 4) (f : Framer → Framer) (j : Fin 4) :
    (s.modFramer i f).chain j = s.chain j := rfl
@[simp] theorem modFramer_path (s : State) (i : Fin 4) (f : Framer → Framer) (j : Fin 6) :
    (s.modFramer i f).path j = s.path j := rfl
@[simp] theorem modFramer_live (s : State) (i : Fin 4) (f : Framer → Framer) (j : Fin 4) :
    (s.modFramer i f).live j = s.live j := rfl
@[simp] theorem modFramer_line (s : State) (i : Fin 4) (f : Framer → Framer) (j : Fin 2) :
    (s.modFramer i f).line j = s.line j := rfl
@[simp] theorem modChain_prog (s : State) (i : Fin 4) (f : Chain → Chain) (j : Fin 4) :
    (s.modChain i f).prog j = s.prog j := rfl
@[simp] theorem modChain_port (s : State) (i : Fin 4) (f : Chain → Chain) (j : Fin 4) :
    (s.modChain i f).port j = s.port j := rfl
@[simp] theorem modChain_intake (s : State) (i : Fin 4) (f : Chain → Chain) (j : Fin 4) :
    (s.modChain i f).intake j = s.intake j := rfl
@[simp] theorem modChain_coder (s : State) (i : Fin 4) (f : Chain → Chain) (j : Fin 4) :
    (s.modChain i f).coder j = s.coder j := rfl
@[simp] theorem modChain_loop (s : State) (i : Fin 4) (f : Chain → Chain) (j : Fin 4) :
    (s.modChain i f).loop j = s.loop j := rfl
@[simp] theorem modChain_table (s : State) (i : Fin 4) (f : Chain → Chain) (j : Fin 2) :
    (s.modChain i f).table j = s.table j := rfl
@[simp] theorem modChain_slot (s : State) (i : Fin 4) (f : Chain → Chain) (j : Fin 4) :
    (s.modChain i f).slot j = s.slot j := rfl
@[simp] theorem modChain_framer (s : State) (i : Fin 4) (f : Chain → Chain) (j : Fin 4) :
    (s.modChain i f).framer j = s.framer j := rfl
@[simp] theorem modChain_path (s : State) (i : Fin 4) (f : Chain → Chain) (j : Fin 6) :
    (s.modChain i f).path j = s.path j := rfl
@[simp] theorem modChain_live (s : State) (i : Fin 4) (f : Chain → Chain) (j : Fin 4) :
    (s.modChain i f).live j = s.live j := rfl
@[simp] theorem modChain_line (s : State) (i : Fin 4) (f : Chain → Chain) (j : Fin 2) :
    (s.modChain i f).line j = s.line j := rfl
@[simp] theorem modPath_prog (s : State) (i : Fin 6) (f : Path → Path) (j : Fin 4) :
    (s.modPath i f).prog j = s.prog j := rfl
@[simp] theorem modPath_port (s : State) (i : Fin 6) (f : Path → Path) (j : Fin 4) :
    (s.modPath i f).port j = s.port j := rfl
@[simp] theorem modPath_intake (s : State) (i : Fin 6) (f : Path → Path) (j : Fin 4) :
    (s.modPath i f).intake j = s.intake j := rfl
@[simp] theorem modPath_coder (s : State) (i : Fin 6) (f : Path → Path) (j : Fin 4) :
    (s.modPath i f).coder j = s.coder j := rfl
@[simp] theorem modPath_loop (s : State) (i : Fin 6) (f : Path → Path) (j : Fin 4) :
    (s.modPath i f).loop j = s.loop j := rfl
@[simp] theorem modPath_table (s : State) (i : Fin 6) (f : Path → Path) (j : Fin 2) :
    (s.modPath i f).table j = s.table j := rfl
@[simp] theorem modPath_slot (s : State) (i : Fin 6) (f : Path → Path) (j : Fin 4) :
    (s.modPath i f).slot j = s.slot j := rfl
@[simp] theorem modPath_framer (s : State) (i : Fin 6) (f : Path → Path) (j : Fin 4) :
    (s.modPath i f).framer j = s.framer j := rfl
@[simp] theorem modPath_chain (s : State) (i : Fin 6) (f : Path → Path) (j : Fin 4) :
    (s.modPath i f).chain j = s.chain j := rfl
@[simp] theorem modPath_live (s : State) (i : Fin 6) (f : Path → Path) (j : Fin 4) :
    (s.modPath i f).live j = s.live j := rfl
@[simp] theorem modPath_line (s : State) (i : Fin 6) (f : Path → Path) (j : Fin 2) :
    (s.modPath i f).line j = s.line j := rfl
@[simp] theorem modLive_prog (s : State) (i : Fin 4) (f : Live → Live) (j : Fin 4) :
    (s.modLive i f).prog j = s.prog j := rfl
@[simp] theorem modLive_port (s : State) (i : Fin 4) (f : Live → Live) (j : Fin 4) :
    (s.modLive i f).port j = s.port j := rfl
@[simp] theorem modLive_intake (s : State) (i : Fin 4) (f : Live → Live) (j : Fin 4) :
    (s.modLive i f).intake j = s.intake j := rfl
@[simp] theorem modLive_coder (s : State) (i : Fin 4) (f : Live → Live) (j : Fin 4) :
    (s.modLive i f).coder j = s.coder j := rfl
@[simp] theorem modLive_loop (s : State) (i : Fin 4) (f : Live → Live) (j : Fin 4) :
    (s.modLive i f).loop j = s.loop j := rfl
@[simp] theorem modLive_table (s : State) (i : Fin 4) (f : Live → Live) (j : Fin 2) :
    (s.modLive i f).table j = s.table j := rfl
@[simp] theorem modLive_slot (s : State) (i : Fin 4) (f : Live → Live) (j : Fin 4) :
    (s.modLive i f).slot j = s.slot j := rfl
@[simp] theorem modLive_framer (s : State) (i : Fin 4) (f : Live → Live) (j : Fin 4) :
    (s.modLive i f).framer j = s.framer j := rfl
@[simp] theorem modLive_chain (s : State) (i : Fin 4) (f : Live → Live) (j : Fin 4) :
    (s.modLive i f).chain j = s.chain j := rfl
@[simp] theorem modLive_path (s : State) (i : Fin 4) (f : Live → Live) (j : Fin 6) :
    (s.modLive i f).path j = s.path j := rfl
@[simp] theorem modLive_line (s : State) (i : Fin 4) (f : Live → Live) (j : Fin 2) :
    (s.modLive i f).line j = s.line j := rfl
@[simp] theorem modLine_prog (s : State) (i : Fin 2) (f : MarkLine → MarkLine) (j : Fin 4) :
    (s.modLine i f).prog j = s.prog j := rfl
@[simp] theorem modLine_port (s : State) (i : Fin 2) (f : MarkLine → MarkLine) (j : Fin 4) :
    (s.modLine i f).port j = s.port j := rfl
@[simp] theorem modLine_intake (s : State) (i : Fin 2) (f : MarkLine → MarkLine) (j : Fin 4) :
    (s.modLine i f).intake j = s.intake j := rfl
@[simp] theorem modLine_coder (s : State) (i : Fin 2) (f : MarkLine → MarkLine) (j : Fin 4) :
    (s.modLine i f).coder j = s.coder j := rfl
@[simp] theorem modLine_loop (s : State) (i : Fin 2) (f : MarkLine → MarkLine) (j : Fin 4) :
    (s.modLine i f).loop j = s.loop j := rfl
@[simp] theorem modLine_table (s : State) (i : Fin 2) (f : MarkLine → MarkLine) (j : Fin 2) :
    (s.modLine i f).table j = s.table j := rfl
@[simp] theorem modLine_slot (s : State) (i : Fin 2) (f : MarkLine → MarkLine) (j : Fin 4) :
    (s.modLine i f).slot j = s.slot j := rfl
@[simp] theorem modLine_framer (s : State) (i : Fin 2) (f : MarkLine → MarkLine) (j : Fin 4) :
    (s.modLine i f).framer j = s.framer j := rfl
@[simp] theorem modLine_chain (s : State) (i : Fin 2) (f : MarkLine → MarkLine) (j : Fin 4) :
    (s.modLine i f).chain j = s.chain j := rfl
@[simp] theorem modLine_path (s : State) (i : Fin 2) (f : MarkLine → MarkLine) (j : Fin 6) :
    (s.modLine i f).path j = s.path j := rfl
@[simp] theorem modLine_live (s : State) (i : Fin 2) (f : MarkLine → MarkLine) (j : Fin 4) :
    (s.modLine i f).live j = s.live j := rfl
@[simp] theorem modTb_prog (s : State) (f : Timebase → Timebase) (j : Fin 4) : (s.modTb f).prog j = s.prog j := rfl
@[simp] theorem modTb_port (s : State) (f : Timebase → Timebase) (j : Fin 4) : (s.modTb f).port j = s.port j := rfl
@[simp] theorem modTb_intake (s : State) (f : Timebase → Timebase) (j : Fin 4) : (s.modTb f).intake j = s.intake j := rfl
@[simp] theorem modTb_coder (s : State) (f : Timebase → Timebase) (j : Fin 4) : (s.modTb f).coder j = s.coder j := rfl
@[simp] theorem modTb_loop (s : State) (f : Timebase → Timebase) (j : Fin 4) : (s.modTb f).loop j = s.loop j := rfl
@[simp] theorem modTb_table (s : State) (f : Timebase → Timebase) (j : Fin 2) : (s.modTb f).table j = s.table j := rfl
@[simp] theorem modTb_slot (s : State) (f : Timebase → Timebase) (j : Fin 4) : (s.modTb f).slot j = s.slot j := rfl
@[simp] theorem modTb_framer (s : State) (f : Timebase → Timebase) (j : Fin 4) : (s.modTb f).framer j = s.framer j := rfl
@[simp] theorem modTb_chain (s : State) (f : Timebase → Timebase) (j : Fin 4) : (s.modTb f).chain j = s.chain j := rfl
@[simp] theorem modTb_path (s : State) (f : Timebase → Timebase) (j : Fin 6) : (s.modTb f).path j = s.path j := rfl
@[simp] theorem modTb_live (s : State) (f : Timebase → Timebase) (j : Fin 4) : (s.modTb f).live j = s.live j := rfl
@[simp] theorem modTb_line (s : State) (f : Timebase → Timebase) (j : Fin 2) : (s.modTb f).line j = s.line j := rfl
@[simp] theorem modAlloc_prog (s : State) (f : Allocator → Allocator) (j : Fin 4) : (s.modAlloc f).prog j = s.prog j := rfl
@[simp] theorem modAlloc_port (s : State) (f : Allocator → Allocator) (j : Fin 4) : (s.modAlloc f).port j = s.port j := rfl
@[simp] theorem modAlloc_intake (s : State) (f : Allocator → Allocator) (j : Fin 4) : (s.modAlloc f).intake j = s.intake j := rfl
@[simp] theorem modAlloc_coder (s : State) (f : Allocator → Allocator) (j : Fin 4) : (s.modAlloc f).coder j = s.coder j := rfl
@[simp] theorem modAlloc_loop (s : State) (f : Allocator → Allocator) (j : Fin 4) : (s.modAlloc f).loop j = s.loop j := rfl
@[simp] theorem modAlloc_table (s : State) (f : Allocator → Allocator) (j : Fin 2) : (s.modAlloc f).table j = s.table j := rfl
@[simp] theorem modAlloc_slot (s : State) (f : Allocator → Allocator) (j : Fin 4) : (s.modAlloc f).slot j = s.slot j := rfl
@[simp] theorem modAlloc_framer (s : State) (f : Allocator → Allocator) (j : Fin 4) : (s.modAlloc f).framer j = s.framer j := rfl
@[simp] theorem modAlloc_chain (s : State) (f : Allocator → Allocator) (j : Fin 4) : (s.modAlloc f).chain j = s.chain j := rfl
@[simp] theorem modAlloc_path (s : State) (f : Allocator → Allocator) (j : Fin 6) : (s.modAlloc f).path j = s.path j := rfl
@[simp] theorem modAlloc_live (s : State) (f : Allocator → Allocator) (j : Fin 4) : (s.modAlloc f).live j = s.live j := rfl
@[simp] theorem modAlloc_line (s : State) (f : Allocator → Allocator) (j : Fin 2) : (s.modAlloc f).line j = s.line j := rfl
@[simp] theorem modMixer_prog (s : State) (f : Mixer → Mixer) (j : Fin 4) : (s.modMixer f).prog j = s.prog j := rfl
@[simp] theorem modMixer_port (s : State) (f : Mixer → Mixer) (j : Fin 4) : (s.modMixer f).port j = s.port j := rfl
@[simp] theorem modMixer_intake (s : State) (f : Mixer → Mixer) (j : Fin 4) : (s.modMixer f).intake j = s.intake j := rfl
@[simp] theorem modMixer_coder (s : State) (f : Mixer → Mixer) (j : Fin 4) : (s.modMixer f).coder j = s.coder j := rfl
@[simp] theorem modMixer_loop (s : State) (f : Mixer → Mixer) (j : Fin 4) : (s.modMixer f).loop j = s.loop j := rfl
@[simp] theorem modMixer_table (s : State) (f : Mixer → Mixer) (j : Fin 2) : (s.modMixer f).table j = s.table j := rfl
@[simp] theorem modMixer_slot (s : State) (f : Mixer → Mixer) (j : Fin 4) : (s.modMixer f).slot j = s.slot j := rfl
@[simp] theorem modMixer_framer (s : State) (f : Mixer → Mixer) (j : Fin 4) : (s.modMixer f).framer j = s.framer j := rfl
@[simp] theorem modMixer_chain (s : State) (f : Mixer → Mixer) (j : Fin 4) : (s.modMixer f).chain j = s.chain j := rfl
@[simp] theorem modMixer_path (s : State) (f : Mixer → Mixer) (j : Fin 6) : (s.modMixer f).path j = s.path j := rfl
@[simp] theorem modMixer_live (s : State) (f : Mixer → Mixer) (j : Fin 4) : (s.modMixer f).live j = s.live j := rfl
@[simp] theorem modMixer_line (s : State) (f : Mixer → Mixer) (j : Fin 2) : (s.modMixer f).line j = s.line j := rfl
@[simp] theorem modStore_prog (s : State) (f : Store → Store) (j : Fin 4) : (s.modStore f).prog j = s.prog j := rfl
@[simp] theorem modStore_port (s : State) (f : Store → Store) (j : Fin 4) : (s.modStore f).port j = s.port j := rfl
@[simp] theorem modStore_intake (s : State) (f : Store → Store) (j : Fin 4) : (s.modStore f).intake j = s.intake j := rfl
@[simp] theorem modStore_coder (s : State) (f : Store → Store) (j : Fin 4) : (s.modStore f).coder j = s.coder j := rfl
@[simp] theorem modStore_loop (s : State) (f : Store → Store) (j : Fin 4) : (s.modStore f).loop j = s.loop j := rfl
@[simp] theorem modStore_table (s : State) (f : Store → Store) (j : Fin 2) : (s.modStore f).table j = s.table j := rfl
@[simp] theorem modStore_slot (s : State) (f : Store → Store) (j : Fin 4) : (s.modStore f).slot j = s.slot j := rfl
@[simp] theorem modStore_framer (s : State) (f : Store → Store) (j : Fin 4) : (s.modStore f).framer j = s.framer j := rfl
@[simp] theorem modStore_chain (s : State) (f : Store → Store) (j : Fin 4) : (s.modStore f).chain j = s.chain j := rfl
@[simp] theorem modStore_path (s : State) (f : Store → Store) (j : Fin 6) : (s.modStore f).path j = s.path j := rfl
@[simp] theorem modStore_live (s : State) (f : Store → Store) (j : Fin 4) : (s.modStore f).live j = s.live j := rfl
@[simp] theorem modStore_line (s : State) (f : Store → Store) (j : Fin 2) : (s.modStore f).line j = s.line j := rfl
@[simp] theorem modMem_prog (s : State) (f : List Host.Cell → List Host.Cell) (j : Fin 4) : (s.modMem f).prog j = s.prog j := rfl
@[simp] theorem modMem_port (s : State) (f : List Host.Cell → List Host.Cell) (j : Fin 4) : (s.modMem f).port j = s.port j := rfl
@[simp] theorem modMem_intake (s : State) (f : List Host.Cell → List Host.Cell) (j : Fin 4) : (s.modMem f).intake j = s.intake j := rfl
@[simp] theorem modMem_coder (s : State) (f : List Host.Cell → List Host.Cell) (j : Fin 4) : (s.modMem f).coder j = s.coder j := rfl
@[simp] theorem modMem_loop (s : State) (f : List Host.Cell → List Host.Cell) (j : Fin 4) : (s.modMem f).loop j = s.loop j := rfl
@[simp] theorem modMem_table (s : State) (f : List Host.Cell → List Host.Cell) (j : Fin 2) : (s.modMem f).table j = s.table j := rfl
@[simp] theorem modMem_slot (s : State) (f : List Host.Cell → List Host.Cell) (j : Fin 4) : (s.modMem f).slot j = s.slot j := rfl
@[simp] theorem modMem_framer (s : State) (f : List Host.Cell → List Host.Cell) (j : Fin 4) : (s.modMem f).framer j = s.framer j := rfl
@[simp] theorem modMem_chain (s : State) (f : List Host.Cell → List Host.Cell) (j : Fin 4) : (s.modMem f).chain j = s.chain j := rfl
@[simp] theorem modMem_path (s : State) (f : List Host.Cell → List Host.Cell) (j : Fin 6) : (s.modMem f).path j = s.path j := rfl
@[simp] theorem modMem_live (s : State) (f : List Host.Cell → List Host.Cell) (j : Fin 4) : (s.modMem f).live j = s.live j := rfl
@[simp] theorem modMem_line (s : State) (f : List Host.Cell → List Host.Cell) (j : Fin 2) : (s.modMem f).line j = s.line j := rfl
@[simp] theorem modUplink_prog (s : State) (f : Uplink → Uplink) (j : Fin 4) : (s.modUplink f).prog j = s.prog j := rfl
@[simp] theorem modUplink_port (s : State) (f : Uplink → Uplink) (j : Fin 4) : (s.modUplink f).port j = s.port j := rfl
@[simp] theorem modUplink_intake (s : State) (f : Uplink → Uplink) (j : Fin 4) : (s.modUplink f).intake j = s.intake j := rfl
@[simp] theorem modUplink_coder (s : State) (f : Uplink → Uplink) (j : Fin 4) : (s.modUplink f).coder j = s.coder j := rfl
@[simp] theorem modUplink_loop (s : State) (f : Uplink → Uplink) (j : Fin 4) : (s.modUplink f).loop j = s.loop j := rfl
@[simp] theorem modUplink_table (s : State) (f : Uplink → Uplink) (j : Fin 2) : (s.modUplink f).table j = s.table j := rfl
@[simp] theorem modUplink_slot (s : State) (f : Uplink → Uplink) (j : Fin 4) : (s.modUplink f).slot j = s.slot j := rfl
@[simp] theorem modUplink_framer (s : State) (f : Uplink → Uplink) (j : Fin 4) : (s.modUplink f).framer j = s.framer j := rfl
@[simp] theorem modUplink_chain (s : State) (f : Uplink → Uplink) (j : Fin 4) : (s.modUplink f).chain j = s.chain j := rfl
@[simp] theorem modUplink_path (s : State) (f : Uplink → Uplink) (j : Fin 6) : (s.modUplink f).path j = s.path j := rfl
@[simp] theorem modUplink_live (s : State) (f : Uplink → Uplink) (j : Fin 4) : (s.modUplink f).live j = s.live j := rfl
@[simp] theorem modUplink_line (s : State) (f : Uplink → Uplink) (j : Fin 2) : (s.modUplink f).line j = s.line j := rfl
@[simp] theorem modSched_prog (s : State) (f : Scheduler → Scheduler) (j : Fin 4) : (s.modSched f).prog j = s.prog j := rfl
@[simp] theorem modSched_port (s : State) (f : Scheduler → Scheduler) (j : Fin 4) : (s.modSched f).port j = s.port j := rfl
@[simp] theorem modSched_intake (s : State) (f : Scheduler → Scheduler) (j : Fin 4) : (s.modSched f).intake j = s.intake j := rfl
@[simp] theorem modSched_coder (s : State) (f : Scheduler → Scheduler) (j : Fin 4) : (s.modSched f).coder j = s.coder j := rfl
@[simp] theorem modSched_loop (s : State) (f : Scheduler → Scheduler) (j : Fin 4) : (s.modSched f).loop j = s.loop j := rfl
@[simp] theorem modSched_table (s : State) (f : Scheduler → Scheduler) (j : Fin 2) : (s.modSched f).table j = s.table j := rfl
@[simp] theorem modSched_slot (s : State) (f : Scheduler → Scheduler) (j : Fin 4) : (s.modSched f).slot j = s.slot j := rfl
@[simp] theorem modSched_framer (s : State) (f : Scheduler → Scheduler) (j : Fin 4) : (s.modSched f).framer j = s.framer j := rfl
@[simp] theorem modSched_chain (s : State) (f : Scheduler → Scheduler) (j : Fin 4) : (s.modSched f).chain j = s.chain j := rfl
@[simp] theorem modSched_path (s : State) (f : Scheduler → Scheduler) (j : Fin 6) : (s.modSched f).path j = s.path j := rfl
@[simp] theorem modSched_live (s : State) (f : Scheduler → Scheduler) (j : Fin 4) : (s.modSched f).live j = s.live j := rfl
@[simp] theorem modSched_line (s : State) (f : Scheduler → Scheduler) (j : Fin 2) : (s.modSched f).line j = s.line j := rfl
@[simp] theorem modClips_prog (s : State) (f : ClipLog → ClipLog) (j : Fin 4) : (s.modClips f).prog j = s.prog j := rfl
@[simp] theorem modClips_port (s : State) (f : ClipLog → ClipLog) (j : Fin 4) : (s.modClips f).port j = s.port j := rfl
@[simp] theorem modClips_intake (s : State) (f : ClipLog → ClipLog) (j : Fin 4) : (s.modClips f).intake j = s.intake j := rfl
@[simp] theorem modClips_coder (s : State) (f : ClipLog → ClipLog) (j : Fin 4) : (s.modClips f).coder j = s.coder j := rfl
@[simp] theorem modClips_loop (s : State) (f : ClipLog → ClipLog) (j : Fin 4) : (s.modClips f).loop j = s.loop j := rfl
@[simp] theorem modClips_table (s : State) (f : ClipLog → ClipLog) (j : Fin 2) : (s.modClips f).table j = s.table j := rfl
@[simp] theorem modClips_slot (s : State) (f : ClipLog → ClipLog) (j : Fin 4) : (s.modClips f).slot j = s.slot j := rfl
@[simp] theorem modClips_framer (s : State) (f : ClipLog → ClipLog) (j : Fin 4) : (s.modClips f).framer j = s.framer j := rfl
@[simp] theorem modClips_chain (s : State) (f : ClipLog → ClipLog) (j : Fin 4) : (s.modClips f).chain j = s.chain j := rfl
@[simp] theorem modClips_path (s : State) (f : ClipLog → ClipLog) (j : Fin 6) : (s.modClips f).path j = s.path j := rfl
@[simp] theorem modClips_live (s : State) (f : ClipLog → ClipLog) (j : Fin 4) : (s.modClips f).live j = s.live j := rfl
@[simp] theorem modClips_line (s : State) (f : ClipLog → ClipLog) (j : Fin 2) : (s.modClips f).line j = s.line j := rfl
@[simp] theorem modLink_prog (s : State) (f : Link → Link) (j : Fin 4) : (s.modLink f).prog j = s.prog j := rfl
@[simp] theorem modLink_port (s : State) (f : Link → Link) (j : Fin 4) : (s.modLink f).port j = s.port j := rfl
@[simp] theorem modLink_intake (s : State) (f : Link → Link) (j : Fin 4) : (s.modLink f).intake j = s.intake j := rfl
@[simp] theorem modLink_coder (s : State) (f : Link → Link) (j : Fin 4) : (s.modLink f).coder j = s.coder j := rfl
@[simp] theorem modLink_loop (s : State) (f : Link → Link) (j : Fin 4) : (s.modLink f).loop j = s.loop j := rfl
@[simp] theorem modLink_table (s : State) (f : Link → Link) (j : Fin 2) : (s.modLink f).table j = s.table j := rfl
@[simp] theorem modLink_slot (s : State) (f : Link → Link) (j : Fin 4) : (s.modLink f).slot j = s.slot j := rfl
@[simp] theorem modLink_framer (s : State) (f : Link → Link) (j : Fin 4) : (s.modLink f).framer j = s.framer j := rfl
@[simp] theorem modLink_chain (s : State) (f : Link → Link) (j : Fin 4) : (s.modLink f).chain j = s.chain j := rfl
@[simp] theorem modLink_path (s : State) (f : Link → Link) (j : Fin 6) : (s.modLink f).path j = s.path j := rfl
@[simp] theorem modLink_live (s : State) (f : Link → Link) (j : Fin 4) : (s.modLink f).live j = s.live j := rfl
@[simp] theorem modLink_line (s : State) (f : Link → Link) (j : Fin 2) : (s.modLink f).line j = s.line j := rfl

end Sys2Proof.Machine
end

