-- ==== Sys2Proof/Laws/Inner.lean ====
section
/-! SUPPORT. What every shared operation keeps, said once: which parts of the state it may change, that the store loses
and doubles no segment, that memory stays canonical, that the window stays within its bounds, that the link's
queues change by notices alone, and that a program does not leave IDLE. -/

namespace Sys2Proof.Machine

/-- The parts of the state. The last three are none of them: an operation that may change `overfull` may leave the
resend window fuller than its bounds; one that may change `flags` may clear latches and replace the subscriptions;
one that may change `arming` may take programs out of IDLE. -/
inductive Part where
  | tb | progs | ports | intakes | coders | loops | tables | alloc | slots | mixer | framers
  | store | chains | mem | paths | uplink | sched | lives | clips | lines | link | pending | overfull | flags | arming
  deriving DecidableEq, Repr

/-- One part stands as it stood. -/
def samePart : Part → State → State → Prop
  | .tb, s, t => t.tb = s.tb
  | .progs, s, t => t.progs = s.progs
  | .ports, s, t => t.ports = s.ports
  | .intakes, s, t => t.intakes = s.intakes
  | .coders, s, t => t.coders = s.coders
  | .loops, s, t => t.loops = s.loops
  | .tables, s, t => t.tables = s.tables
  | .alloc, s, t => t.alloc = s.alloc
  | .slots, s, t => t.slots = s.slots
  | .mixer, s, t => t.mixer = s.mixer
  | .framers, s, t => t.framers = s.framers
  | .store, s, t => t.store = s.store
  | .chains, s, t => t.chains = s.chains
  | .mem, s, t => t.mem = s.mem
  | .paths, s, t => t.paths = s.paths
  | .uplink, s, t => t.uplink = s.uplink
  | .sched, s, t => t.sched = s.sched
  | .lives, s, t => t.lives = s.lives
  | .clips, s, t => t.clips = s.clips
  | .lines, s, t => t.lines = s.lines
  | .link, s, t => t.link = s.link
  | .pending, s, t => t.pending = s.pending
  | .overfull, _, _ => True
  | .flags, _, _ => True
  | .arming, _, _ => True

theorem samePart_refl (p : Part) (s : State) : samePart p s s := by cases p <;> trivial

theorem samePart_trans (p : Part) {s t u : State} (h : samePart p s t) (k : samePart p t u) : samePart p s u := by
  cases p <;> first | exact Eq.trans k h | trivial

/-- What requests and events keep of a link: its ready state, receiver, requests, replies, frame in progress and the
counts of these; the notice queue stays within its bound. -/
structure LinkQueues (l m : Link) : Prop where
  ready : m.ready = l.ready
  rx : m.rx = l.rx
  requests : m.requests = l.requests
  replies : m.replies = l.replies
  sending : m.sending = l.sending
  accepted : m.accepted = l.accepted
  linkErrors : m.linkErrors = l.linkErrors
  queueFull : m.queueFull = l.queueFull
  droppedReplies : m.droppedReplies = l.droppedReplies
  notices : l.notices.length ≤ 32 → m.notices.length ≤ 32

theorem LinkQueues.refl (l : Link) : LinkQueues l l :=
  ⟨rfl, rfl, rfl, rfl, rfl, rfl, rfl, rfl, rfl, fun h => h⟩

theorem LinkQueues.trans {l m n : Link} (h : LinkQueues l m) (k : LinkQueues m n) : LinkQueues l n :=
  ⟨k.ready.trans h.ready, k.rx.trans h.rx, k.requests.trans h.requests, k.replies.trans h.replies,
    k.sending.trans h.sending, k.accepted.trans h.accepted, k.linkErrors.trans h.linkErrors,
    k.queueFull.trans h.queueFull, k.droppedReplies.trans h.droppedReplies, fun hl => k.notices (h.notices hl)⟩

/-- What raising events keeps of the flags of a link: the subscriptions; a latch that is set stays set; REFERENCE_LOST
and REFERENCE_BACK are not raised. -/
structure LinkFlags (l m : Link) : Prop where
  subscribed : m.subscribed = l.subscribed
  latches : ∀ k, l.latches.get k = true → m.latches.get k = true
  lost : m.raises.get 0 = l.raises.get 0
  back : m.raises.get 1 = l.raises.get 1

theorem LinkFlags.refl (l : Link) : LinkFlags l l := ⟨rfl, fun _ h => h, rfl, rfl⟩

theorem LinkFlags.trans {l m n : Link} (h : LinkFlags l m) (k : LinkFlags m n) : LinkFlags l n :=
  ⟨k.subscribed.trans h.subscribed, fun i hi => k.latches i (h.latches i hi), k.lost.trans h.lost,
    k.back.trans h.back⟩

/-- What the operations inside an event keep, where they may change the parts `ps`. -/
structure Inner (ps : List Part) (s t : State) : Prop where
  same : ∀ p, p ∉ ps → samePart p s t
  canonical : MemoryCanonical s → MemoryCanonical t
  numbers : (allNumbers t).Perm (allNumbers s)
  window : Part.overfull ∉ ps → WindowBounded s → WindowBounded t
  queues : LinkQueues s.link t.link
  link : Part.flags ∉ ps → LinkFlags s.link t.link
  idle : Part.arming ∉ ps → ∀ p, (s.prog p).st = .idle → (t.prog p).st = .idle

theorem Inner.refl (ps : List Part) (s : State) : Inner ps s s :=
  ⟨fun p _ => samePart_refl p s, id, .refl _, fun _ h => h, .refl _, fun _ => .refl _, fun _ _ h => h⟩

/-- One operation after others, where it changes no more parts than they may. -/
theorem Inner.andThen {ps qs : List Part} {a s t : State} (h : Inner ps a s) (k : Inner qs s t)
    (hq : ∀ p ∈ qs, p ∈ ps := by decide) : Inner ps a t :=
  ⟨fun p hp => samePart_trans p (h.same p hp) (k.same p fun hm => hp (hq p hm)), fun c => k.canonical (h.canonical c),
    k.numbers.trans h.numbers, fun n c => k.window (fun hm => n (hq _ hm)) (h.window n c), h.queues.trans k.queues,
    fun n => (h.link fun hm => n hm).trans (k.link fun hm => n (hq _ hm)),
    fun n p c => k.idle (fun hm => n (hq _ hm)) p (h.idle n p c)⟩

/-- An operation may be said to change more parts than it does. -/
theorem Inner.widen {ps qs : List Part} {s t : State} (k : Inner qs s t) (hq : ∀ p ∈ qs, p ∈ ps := by decide) :
    Inner ps s t := (Inner.refl ps s).andThen k hq

/-- What may leave the window overfull does not, where its bounds are shown to hold after it. -/
theorem Inner.inBounds {ps : List Part} {s t : State} (k : Inner (.overfull :: ps) s t)
    (h : WindowBounded s → WindowBounded t) : Inner ps s t :=
  ⟨fun p hp => by
    by_cases e : p = .overfull
    · subst e; trivial
    · exact k.same p (by simp [e, hp]), k.canonical, k.numbers, fun _ => h, k.queues,
    fun n => k.link (by simp [n]), fun n => k.idle (by simp [n])⟩

theorem Inner.ite {ps : List Part} {s t u : State} {c : Prop} [Decidable c] (h : Inner ps s t) (k : Inner ps s u) :
    Inner ps s (if c then t else u) := by split <;> assumption

/-- A fold of operations that each keep. -/
theorem Inner.foldl {α : Type} {ps : List Part} (f : State → α → State) (hf : ∀ t x, Inner ps t (f t x))
    (l : List α) : ∀ s, Inner ps s (l.foldl f s) := by
  induction l with
  | nil => exact fun s => .refl _ s
  | cons x xs ih => exact fun s => (hf s x).andThen (ih _) fun _ h => h

theorem Inner.eachProgram {ps : List Part} (f : Fin 4 → State → State) (hf : ∀ p t, Inner ps t (f p t)) (s : State) :
    Inner ps s (eachProgram f s) :=
  (((hf 0 s).andThen (hf 1 _) fun _ h => h).andThen (hf 2 _) fun _ h => h).andThen (hf 3 _) fun _ h => h

theorem Inner.eachPath {ps : List Part} (f : Fin 6 → State → State) (hf : ∀ p t, Inner ps t (f p t)) (s : State) :
    Inner ps s (eachPath f s) :=
  (((((hf 0 s).andThen (hf 1 _) fun _ h => h).andThen (hf 2 _) fun _ h => h).andThen (hf 3 _) fun _ h => h).andThen
    (hf 4 _) fun _ h => h).andThen (hf 5 _) fun _ h => h

/-! ### The updates of one block -/

/-- A change of blocks that leaves the memory, the segments' places, the window, the link and the programs as they are:
what it keeps is found by computing. -/
theorem Inner.plain {ps : List Part} {s t : State} (mem : t.mem = s.mem := by rfl)
    (numbers : allNumbers t = allNumbers s := by rfl) (window : WindowBounded t = WindowBounded s := by rfl)
    (link : t.link = s.link := by rfl) (progs : t.progs = s.progs := by rfl)
    (same : ∀ p, p ∉ ps → samePart p s t := by intro p hp; cases p <;> first | rfl | trivial) : Inner ps s t where
  same := same
  canonical h := by rw [MemoryCanonical, mem]; exact h
  numbers := numbers ▸ List.Perm.refl _
  window _ h := window ▸ h
  queues := link ▸ LinkQueues.refl _
  link _ := link ▸ LinkFlags.refl _
  idle _ p h := by rw [State.prog, progs]; exact h

theorem modTb_inner (s : State) (f) : Inner [.tb] s (s.modTb f) := .plain
theorem modPort_inner (s : State) (i f) : Inner [.ports] s (s.modPort i f) := .plain
theorem modIntake_inner (s : State) (i f) : Inner [.intakes] s (s.modIntake i f) := .plain
theorem modCoder_inner (s : State) (i f) : Inner [.coders] s (s.modCoder i f) := .plain
theorem modLoop_inner (s : State) (i f) : Inner [.loops] s (s.modLoop i f) := .plain
theorem modTable_inner (s : State) (i f) : Inner [.tables] s (s.modTable i f) := .plain
theorem modAlloc_inner (s : State) (f) : Inner [.alloc] s (s.modAlloc f) := .plain
theorem modSlot_inner (s : State) (i f) : Inner [.slots] s (s.modSlot i f) := .plain
theorem modMixer_inner (s : State) (f) : Inner [.mixer] s (s.modMixer f) := .plain
theorem modFramer_inner (s : State) (i f) : Inner [.framers] s (s.modFramer i f) := .plain
theorem modUplink_inner (s : State) (f) : Inner [.uplink] s (s.modUplink f) := .plain
theorem modLive_inner (s : State) (i f) : Inner [.lives] s (s.modLive i f) := .plain
theorem modClips_inner (s : State) (f) : Inner [.clips] s (s.modClips f) := .plain
theorem modLine_inner (s : State) (i f) : Inner [.lines] s (s.modLine i f) := .plain

/-- A program's block, changed so that it does not leave IDLE. -/
theorem modProg_inner (s : State) (i : Fin 4) (f : Program → Program) (h : (s.prog i).st = .idle → (f (s.prog i)).st = .idle) :
    Inner [.progs] s (s.modProg i f) :=
  ⟨fun p hp => by cases p <;> first | rfl | trivial, id, .refl _, fun _ h => h, .refl _, fun _ => .refl _, fun _ p hp => by
    rw [modProg_prog]; split
    · subst_vars; exact h hp
    · exact hp⟩

/-- A program's block, changed but for its state. -/
theorem modProg_inner' (s : State) (i : Fin 4) (f : Program → Program) (h : ∀ g, (f g).st = g.st := by intro; rfl) :
    Inner [.progs] s (s.modProg i f) := modProg_inner s i f fun e => (h _).trans e

/-- The store's block, changed but for its free list. -/
theorem modStore_inner (s : State) (f : Store → Store) (h : (f s.store).freeList = s.store.freeList := by rfl) :
    Inner [.store] s (s.modStore f) :=
  ⟨fun p hp => by cases p <;> first | rfl | trivial, id, by
    unfold allNumbers; simp only [modStore_store, h]; exact .refl _, fun _ h => h, .refl _, fun _ => .refl _, fun _ _ h => h⟩

/-- A chain, changed so that it holds the same segments. -/
theorem modChain_inner (s : State) (i : Fin 4) (f : Chain → Chain)
    (h : ∀ c, (f c).segs.map Segment.number = c.segs.map Segment.number := by intro; rfl) : Inner [.chains] s (s.modChain i f) :=
  ⟨fun p hp => by cases p <;> first | rfl | trivial, id, by
    have e : ∀ j, chainNumbers ((s.modChain i f).chain j) = chainNumbers (s.chain j) := fun j => by
      rw [modChain_chain]; unfold chainNumbers; split
      · subst_vars; exact h _
      · rfl
    unfold allNumbers; rw [e, e, e, e]; exact .refl _, fun _ h => h, .refl _, fun _ => .refl _, fun _ _ h => h⟩

theorem modSegs_inner (p : Fin 4) (f : Segment → Segment) (s : State) (h : ∀ g, (f g).number = g.number) :
    Inner [.chains] s (modSegs p f s) :=
  modChain_inner s p _ fun c => by simp [Function.comp_def, h]

/-- Memory, changed so that it stays canonical. -/
theorem modMem_inner (s : State) (f) (h : Memory.wf s.mem = true → Memory.wf (f s.mem) = true) :
    Inner [.mem] s (s.modMem f) :=
  ⟨fun p hp => by cases p <;> first | rfl | trivial, h, .refl _, fun _ h => h, .refl _, fun _ => .refl _, fun _ _ h => h⟩

theorem modPath_inner (s : State) (i : Fin 6) (f : Path → Path) : Inner [.paths] s (s.modPath i f) := .plain

/-- Paths keep to their bounds where none has changed. -/
theorem Inner.bounded {ps : List Part} {s t : State} (k : Inner ps s t) (h : PathsBounded s)
    (hp : Part.paths ∉ ps := by decide) : PathsBounded t := fun l => by
  have e : t.paths = s.paths := k.same .paths hp
  have := h l
  unfold State.path at this ⊢
  rw [e]; exact this

/-- A path, changed so that it keeps to its bounds. -/
theorem modPath_bounded (s : State) (i : Fin 6) (f : Path → Path) (h : PathsBounded s)
    (k : PathBounded (f (s.path i))) : PathsBounded (s.modPath i f) := fun l => by
  rw [modPath_path]; split
  · subst_vars; exact k
  · exact h l

/-- What WINDOW bounds say of a scheduler. -/
theorem windowBounded_iff (s : State) : WindowBounded s ↔
    (s.sched.window.filter Entry.isLive).length ≤ 6144 ∧ (s.sched.window.filter fun e => !e.isLive).length ≤ 2048
      ∧ s.sched.abandoned.length ≤ 1024 := Iff.rfl

theorem modSched_inner (s : State) (f) (h : WindowBounded s → WindowBounded (s.modSched f)) :
    Inner [.sched] s (s.modSched f) :=
  ⟨fun p hp => by cases p <;> first | rfl | trivial, id, .refl _, fun _ => h, .refl _, fun _ => .refl _, fun _ _ h => h⟩

/-- The scheduler, changed but for its window and abandoned list. -/
theorem modSched_inner' (s : State) (f : Scheduler → Scheduler) (h : ∀ c, (f c).window = c.window := by intro; rfl)
    (k : ∀ c, (f c).abandoned = c.abandoned := by intro; rfl) : Inner [.sched] s (s.modSched f) := modSched_inner s f fun w => by
  rw [windowBounded_iff] at w ⊢; simpa [h, k] using w

/-- The scheduler, whatever becomes of its window. -/
theorem modSched_overfull (s : State) (f) : Inner [.overfull, .sched] s (s.modSched f) :=
  ⟨fun p hp => by cases p <;> first | rfl | trivial, id, .refl _, fun h => absurd (by decide) h, .refl _,
    fun _ => .refl _, fun _ _ h => h⟩

theorem modLink_inner (s : State) (f) (k : LinkQueues s.link (f s.link)) (h : LinkFlags s.link (f s.link)) :
    Inner [.link] s (s.modLink f) :=
  ⟨fun p hp => by cases p <;> first | rfl | trivial, id, .refl _, fun _ h => h, k, fun _ => h, fun _ _ h => h⟩

/-! ### Events (R205, R206) -/

theorem latchEvent_queues (k : EventKind) (l : Link) : LinkQueues l (latchEvent k l) :=
  ⟨rfl, rfl, rfl, rfl, rfl, rfl, rfl, rfl, rfl, fun h => h⟩

theorem latchEvent_flags (k : EventKind) (l : Link) (h : k ≠ .referenceLost) (h' : k ≠ .referenceBack) :
    LinkFlags l (latchEvent k l) :=
  ⟨rfl, fun i hi => by unfold latchEvent; rw [Vec_get_put]; split <;> simp_all,
    by cases k <;> first | contradiction | (unfold latchEvent; rw [Vec_get_put]; rfl),
    by cases k <;> first | contradiction | (unfold latchEvent; rw [Vec_get_put]; rfl)⟩

theorem makeNotice_inner (kind : Nat) (details : List Byte) (s : State) :
    Inner [.link] s (makeNotice kind details s) := by
  unfold makeNotice
  refine modLink_inner s _ ?_ ?_
  · split
    · exact ⟨rfl, rfl, rfl, rfl, rfl, rfl, rfl, rfl, rfl, fun _ => by
        rw [List.length_append]; simp [Config.maxNotices] at *; omega⟩
    · refine LinkQueues.trans ?_ (latchEvent_queues .noticeLost _)
      exact ⟨rfl, rfl, rfl, rfl, rfl, rfl, rfl, rfl, rfl, fun h => h⟩
  · split
    · exact ⟨rfl, fun _ h => h, rfl, rfl⟩
    · refine LinkFlags.trans ?_ (latchEvent_flags .noticeLost _ (by decide) (by decide))
      exact ⟨rfl, fun _ h => h, rfl, rfl⟩

/-- Raising an event changes the link alone. -/
theorem raise_inner (k : EventKind) (details : List Byte) (s : State) (h : k ≠ .referenceLost := by decide)
    (h' : k ≠ .referenceBack := by decide) : Inner [.link] s (raise k details s) := by
  unfold raise
  have e := modLink_inner s (latchEvent k) (latchEvent_queues k _) (latchEvent_flags k _ h h')
  dsimp only
  split
  · exact e.andThen (makeNotice_inner _ _ _)
  · exact e

theorem noticeLostTest_inner (s : State) : Inner [.link] s (noticeLostTest s) := by
  unfold noticeLostTest
  split
  · exact (makeNotice_inner _ _ s).andThen (modLink_inner _ _
      ⟨rfl, rfl, rfl, rfl, rfl, rfl, rfl, rfl, rfl, fun h => h⟩ ⟨rfl, fun _ h => h, rfl, rfl⟩)
  · exact .refl _ s

/-! ### What changes the flags of the link, or takes programs out of IDLE -/

theorem modLink_flags (s : State) (f) (k : LinkQueues s.link (f s.link)) : Inner [.flags, .link] s (s.modLink f) :=
  ⟨fun p hp => by cases p <;> first | rfl | trivial, id, .refl _, fun _ h => h, k, fun h => absurd (by decide) h,
    fun _ _ h => h⟩

theorem modProg_arming (s : State) (i : Fin 4) (f : Program → Program) : Inner [.arming, .progs] s (s.modProg i f) :=
  ⟨fun p hp => by cases p <;> first | rfl | trivial, id, .refl _, fun _ h => h, .refl _, fun _ => .refl _,
    fun h => absurd (by decide) h⟩

/-- Raising any event, the reference's among them. -/
theorem raise_flags (k : EventKind) (details : List Byte) (s : State) :
    Inner [.flags, .link] s (raise k details s) := by
  unfold raise
  have e := modLink_flags s (latchEvent k) (latchEvent_queues k _)
  dsimp only
  split
  · exact e.andThen (makeNotice_inner _ _ _)
  · exact e

end Sys2Proof.Machine
end

