-- ==== Sys2Proof/Laws/StoreOps.lean ====
section
/-! SUPPORT. What the operations of the segment store, the resend window, the clip log and the allocator keep: one
lemma for each (Laws/Inner.lean says what `Inner` means). -/

namespace Sys2Proof.Machine

set_option Elab.async false

/-! ### Segment store -/

theorem clearPressure_inner (s : State) : Inner [.store] s (clearPressure s) :=
  .ite (modStore_inner s _) (.refl _ s)

theorem insertAscending_perm (n : Nat) (l : List Nat) : (insertAscending n l).Perm (n :: l) := by
  induction l with
  | nil => exact .refl _
  | cons m ms ih =>
    simp only [insertAscending]; split
    · exact .refl _
    · exact (ih.cons m).trans (.swap n m ms)

theorem ascending_perm (l : List Nat) : (ascending l).Perm l := by
  induction l with
  | nil => exact .refl _
  | cons n ns ih => exact (insertAscending_perm n _).trans (ih.cons n)

theorem chain_split (c : Chain) :
    (zeroHolds c ++ (c.segs.filter fun g => hold g != 0).map Segment.number).Perm (chainNumbers c) := by
  unfold zeroHolds chainNumbers
  rw [← List.map_append]
  refine List.Perm.map _ ?_
  have := List.filter_append_perm (fun g => hold g == 0) c.segs
  exact this

theorem freed_perm (f a0 a1 a2 a3 b0 b1 b2 b3 c0 c1 c2 c3 z : List Nat) (hz : z.Perm (a0 ++ a1 ++ a2 ++ a3))
    (h0 : (a0 ++ b0).Perm c0) (h1 : (a1 ++ b1).Perm c1) (h2 : (a2 ++ b2).Perm c2) (h3 : (a3 ++ b3).Perm c3) :
    ((f ++ z) ++ (b0 ++ b1 ++ b2 ++ b3)).Perm (f ++ (c0 ++ c1 ++ c2 ++ c3)) := by
  simp only [List.perm_iff_count, List.count_append] at *
  intro x
  have := hz x; have := h0 x; have := h1 x; have := h2 x; have := h3 x
  omega

/-- Freeing moves every segment of hold 0 from its chain to the free list (R116). -/
theorem freeZero_inner (s : State) : Inner [.chains, .store] s (freeZero s) := by
  unfold freeZero
  split
  · exact .refl _ s
  · rename_i n ns e
    refine Inner.andThen (qs := [.store]) ?_ (clearPressure_inner _)
    refine ⟨fun p hp => by cases p <;> first | rfl | trivial, id, ?_, fun _ h => h, .refl _, fun _ => .refl _, fun _ _ h => h⟩
    have hz := ascending_perm (zeroHolds (s.chain 0) ++ zeroHolds (s.chain 1) ++ zeroHolds (s.chain 2)
      ++ zeroHolds (s.chain 3))
    rw [e] at hz
    have := freed_perm s.store.freeList _ _ _ _ _ _ _ _ _ _ _ _ _ hz (chain_split (s.chain 0))
      (chain_split (s.chain 1)) (chain_split (s.chain 2)) (chain_split (s.chain 3))
    simpa [allNumbers, chainNumbers, State.chain] using this

/-- Putting an event's frees in order leaves the same numbers on the free list (R107). -/
theorem orderFrees_inner (older : Nat) (s : State) : Inner [.store] s (orderFrees older s) := by
  refine ⟨fun p hp => by cases p <;> first | rfl | trivial, id, ?_, fun _ h => h, .refl _, fun _ => .refl _, fun _ _ h => h⟩
  have h : (s.store.freeList.take older ++ ascending (s.store.freeList.drop older)).Perm s.store.freeList :=
    ((ascending_perm _).append_left _).trans (.of_eq (List.take_append_drop older _))
  unfold allNumbers orderFrees
  simp only [modStore_store]
  exact h.append_right _

theorem freedTogether_inner (start s : State) : Inner [.store] s (freedTogether start s) := orderFrees_inner _ s

theorem insertAscending_sorted (n : Nat) (l : List Nat) (h : l.Pairwise (· ≤ ·)) :
    (insertAscending n l).Pairwise (· ≤ ·) := by
  induction l with
  | nil => simp [insertAscending]
  | cons m ms ih =>
    rw [List.pairwise_cons] at h
    simp only [insertAscending]
    split
    · rename_i hn
      exact List.pairwise_cons.2 ⟨fun x hx => by
        obtain rfl | hx := List.mem_cons.1 hx
        · exact hn
        · exact hn.trans (h.1 x hx), List.pairwise_cons.2 h⟩
    · rename_i hn
      refine List.pairwise_cons.2 ⟨fun x hx => ?_, ih h.2⟩
      obtain rfl | hx := List.mem_cons.1 ((insertAscending_perm n ms).mem_iff.1 hx)
      · omega
      · exact h.1 x hx

theorem ascending_sorted (l : List Nat) : (ascending l).Pairwise (· ≤ ·) := by
  induction l with
  | nil => exact .nil
  | cons n ns ih => exact insertAscending_sorted n _ ih

/-- All that `orderFrees` does: a free list of older numbers and freed ones keeps the older as they stand and has the freed
in ascending order, and nothing else changes (R107, R116). -/
theorem orderFrees_append (kept freed : List Nat) (s : State) (h : s.store.freeList = kept ++ freed) :
    orderFrees kept.length s = s.modStore fun t => { t with freeList := kept ++ ascending freed } := by
  unfold orderFrees State.modStore
  simp only [h, List.take_left, List.drop_left]

theorem setPressure_inner (cut : Option Nat) (s : State) : Inner [.store, .link] s (setPressure cut s) :=
  .ite ((modStore_inner s _).widen)
    (((modStore_inner s _).widen (ps := [.store, .link])).andThen (raise_inner .storePressure _ _))

theorem clearPassed_inner (p : Fin 4) (s : State) : Inner [.chains] s (clearPassed p s) := by
  unfold clearPassed; split
  · exact .refl _ s
  · exact modSegs_inner p _ s fun g => by split <;> rfl

theorem sealOpen_inner (p : Fin 4) (s : State) : Inner [.chains] s (sealOpen p s) :=
  (modSegs_inner p _ s fun g => by split <;> rfl).andThen (clearPassed_inner p _)

theorem addRefs_inner (p : Fin 4) (run off len : Nat) (s : State) : Inner [.chains] s (addRefs p run off len s) :=
  modSegs_inner p _ s fun g => by split <;> rfl

theorem dropRefs_inner (p : Fin 4) (run off len : Nat) (s : State) : Inner [.chains] s (dropRefs p run off len s) :=
  modSegs_inner p _ s fun g => by split <;> rfl

theorem retentionRelease_inner (s : State) : Inner [.chains] s (retentionRelease s) :=
  .eachProgram _ (fun p t => modSegs_inner p _ t fun g => by split <;> rfl) s

theorem pinFrom_inner (p : Fin 4) (run lo : Nat) (s : State) : Inner [.chains] s (pinFrom p run lo s).2 :=
  modSegs_inner p _ s fun g => by split <;> rfl

theorem unpin_inner (p : Fin 4) (numbers : List Nat) (s : State) : Inner [.chains] s (unpin p numbers s) :=
  modSegs_inner p _ s fun g => by split <;> rfl

/-! ### Resend window -/

theorem letAsk_inner (s : State) : Inner [.sched] s (letAsk s) := modSched_inner' s _

theorem letAskPath_inner (l : Fin 6) (s : State) : Inner [.sched] s (letAskPath l s) :=
  modSched_inner' s _

theorem placeAdds_inner (e : Entry) (s : State) : Inner [.chains] s (placeAdds e s) := by
  unfold placeAdds; split
  · exact .refl _ s
  · exact addRefs_inner ..
  · exact addRefs_inner ..

theorem placeDrops_inner (e : Entry) (s : State) : Inner [.chains] s (placeDrops e s) := by
  unfold placeDrops; split
  · exact .refl _ s
  · exact dropRefs_inner ..
  · exact dropRefs_inner ..

theorem filter_length_le_of_filter {α : Type} (p q : α → Bool) (l : List α) (n : Nat) (h : (l.filter p).length ≤ n) :
    ((l.filter q).filter p).length ≤ n := by
  rw [List.filter_comm]
  exact (List.length_filter_le _ _).trans h

theorem removeEntries_inner (gone : Entry → Bool) (s : State) :
    Inner [.chains, .sched] s (removeEntries gone s) := by
  unfold removeEntries
  refine ((Inner.foldl _ (fun t e => placeDrops_inner e t) _ s).widen).andThen (modSched_inner _ _ ?_)
  intro w
  rw [windowBounded_iff] at w ⊢
  simp only [modSched_sched]
  exact ⟨filter_length_le_of_filter _ _ _ _ w.1, filter_length_le_of_filter _ _ _ _ w.2.1, w.2.2⟩

/-- What removing entries leaves of the scheduler (R151). -/
theorem removeEntries_sched (gone : Entry → Bool) (s : State) :
    (removeEntries gone s).sched = { s.sched with window := s.sched.window.filter fun e => !gone e } := by
  have h := (Inner.foldl (fun t e => placeDrops e t) (fun t e => placeDrops_inner e t)
    (s.sched.window.filter gone) s).same .sched (by decide)
  unfold removeEntries
  simp only [modSched_sched]
  rw [show _ = s.sched from h]

theorem abandonedWith_length (l ns : List Nat) : (abandonedWith l ns).length ≤ 1024 := by
  simp [abandonedWith, Config.maxAbandoned]; omega

theorem abandon_inner (gone : Entry → Bool) (s : State) : Inner [.chains, .sched] s (abandon gone s) := by
  unfold abandon
  refine (removeEntries_inner gone s).andThen (modSched_inner _ _ ?_)
  intro w
  rw [windowBounded_iff] at w ⊢
  simp only [modSched_sched]
  exact ⟨w.1, w.2.1, abandonedWith_length _ _⟩

theorem filter_map_length {α : Type} (p : α → Bool) (f : α → α) (l : List α) (h : ∀ a, p (f a) = p a) :
    ((l.map f).filter p).length = (l.filter p).length := by
  rw [List.filter_map, List.length_map]
  exact congrArg (fun q => (l.filter q).length) (funext fun a => h a)

theorem loseEntries_inner (lost : Entry → Bool) (s : State) : Inner [.chains, .sched] s (loseEntries lost s) := by
  unfold loseEntries
  dsimp only
  refine Inner.andThen (qs := [.sched]) (Inner.andThen (qs := [.chains, .sched]) (s := if _ then letAsk s else s) ?_
    (abandon_inner _ _)) (modSched_inner _ _ ?_)
  · exact (Inner.ite (letAsk_inner s) (.refl _ s)).widen
  · intro w
    rw [windowBounded_iff] at w ⊢
    simp only [modSched_sched]
    rw [filter_map_length _ _ _ fun e => by split <;> rfl, filter_map_length _ _ _ fun e => by split <;> rfl]
    exact w

theorem expireEntries_inner (due : Entry → Bool) (s : State) :
    Inner [.chains, .sched] s (expireEntries due s) := by
  unfold expireEntries
  exact (abandon_inner _ s).andThen (modSched_inner' _ _)

theorem displace_inner (s : State) : Inner [.chains, .sched] s (displace s) := by
  unfold displace; split
  · exact .refl _ s
  · exact (abandon_inner _ s).andThen (modSched_inner' _ _)

theorem addLabel_inner (c : Nat) (s : State) : Inner [.sched] s (addLabel c s) :=
  .ite (.refl _ s) ((modSched_inner' s _).andThen (letAsk_inner _))

theorem withdrawLabel_inner (c : Nat) (s : State) : Inner [.sched] s (withdrawLabel c s) :=
  modSched_inner' s _

theorem withdrawCursor_inner (c : Nat) (s : State) : Inner [.sched] s (withdrawCursor c s) :=
  modSched_inner' s _

theorem dropClip_inner (c : Nat) (withLabel : Bool) (s : State) :
    Inner [.chains, .sched] s (dropClip c withLabel s) := removeEntries_inner _ s

/-! ### Clip log -/

theorem modClip_inner (c : Nat) (f : Clip → Clip) (s : State) : Inner [.clips] s (modClip c f s) := modClips_inner s _

theorem setOpenClips_inner (p : Fin 4) (n : Nat) (s : State) : Inner [.chains] s (setOpenClips p n s) :=
  modChain_inner s p _

theorem labelSent_inner (c r : Nat) (s : State) : Inner [.clips] s (labelSent c r s) := modClip_inner c _ s

theorem labelAcked_inner (c r : Nat) (s : State) : Inner [.clips] s (labelAcked c r s) := by
  unfold labelAcked; split
  · exact .ite ((modClip_inner c _ s).andThen (modClips_inner _ _)) (.refl _ s)
  · exact .refl _ s

theorem queueShip_inner (c : Nat) (s : State) : Inner [.clips] s (queueShip c s) :=
  (modClip_inner c _ s).andThen (modClips_inner _ _)

theorem completeShip_inner (s : State) : Inner [.clips, .sched, .link] s (completeShip s) := by
  unfold completeShip; split
  · exact .refl _ s
  · have h := (modSched_inner' s fun d => { d with clipCursor := none }).widen
      (ps := [.clips, .sched, .link])
    dsimp only; split
    · exact h
    · exact ((h.andThen (modClip_inner _ _ _)).andThen (modClips_inner _ _)).andThen (raise_inner .clipShipped _ _)

theorem startShip_inner (s : State) : Inner [.clips, .sched] s (startShip s) := by
  unfold startShip; split
  · exact .refl _ s
  · rename_i c rest _
    have h := (modClips_inner s fun l => { l with shipQueue := rest }).widen (ps := [.clips, .sched])
    dsimp only; split
    · exact h
    · exact ((h.andThen (modClip_inner _ _ _)).andThen (modSched_inner' _ _)).andThen
        (letAsk_inner _)

theorem settleShipN_inner : ∀ n s, Inner [.clips, .sched, .link] s (settleShipN n s)
  | 0, s => .refl _ s
  | n + 1, s => by
    unfold settleShipN; split
    · exact (completeShip_inner s).andThen (settleShipN_inner n _)
    · split
      · exact ((startShip_inner s).widen).andThen (settleShipN_inner n _)
      · exact .refl _ s

theorem settleShip_inner (s : State) : Inner [.clips, .sched, .link] s (settleShip s) := settleShipN_inner 130 s

theorem closeClip_inner (c q : Nat) (t : Option Timecode) (o : Nat) (s : State) :
    Inner [.clips, .sched, .chains] s (closeClip c q t o s) := by
  unfold closeClip; split
  · exact .refl _ s
  · rename_i k _
    have h1 : Inner [.clips, .sched, .chains] s (if k.st == .opened then setOpenClips k.program 0 s else s) :=
      (Inner.ite (setOpenClips_inner _ _ s) (.refl _ s)).widen
    have h2 := fun far f => (h1.andThen (unpin_inner k.program far _)).andThen (modClip_inner c f _)
    have h3 := fun far f => Inner.ite (c := (k.label == .pending) = true)
      ((h2 far f).andThen (addLabel_inner c _)) (h2 far f)
    exact .ite (((h3 _ _).andThen (queueShip_inner c _)).andThen (modClips_inner _ _)) (h3 _ _)

theorem closeAtIdle_inner (p : Fin 4) (s : State) : Inner [.clips, .sched, .chains] s (closeAtIdle p s) := by
  unfold closeAtIdle
  refine Inner.foldl _ (fun t c => ?_) _ s
  split
  · exact .refl _ t
  · exact closeClip_inner ..

theorem periodEnd_inner (p : Fin 4) (s : State) : Inner [.clips, .sched, .chains] s (periodEnd p s) := by
  unfold periodEnd
  refine Inner.foldl _ (fun t c => ?_) _ s
  split
  · exact .refl _ t
  · exact closeClip_inner ..

theorem markIn_inner (p : Fin 4) (n : Nat) (y : Bool) (k : ClipSource) (s : State) :
    Inner [.clips, .chains, .link] s (markIn p n y k s) := by
  unfold markIn
  dsimp only
  have h := fun run lo f => ((((pinFrom_inner p run lo s).widen (ps := [.clips, .chains, .link])).andThen
    (setOpenClips_inner p 1 _)).andThen (modClips_inner _ f))
  exact .ite ((h _ _ _).andThen (raise_inner .clipTrimmed _ _)) (h _ _ _)

theorem markOut_inner (p : Fin 4) (c : Nat) (n : Option Nat) (s : State) :
    Inner [.clips, .sched, .chains] s (markOut p c n s) := by
  unfold markOut; split
  · exact .refl _ s
  · exact .ite (closeClip_inner ..) (((setOpenClips_inner p 0 s).widen).andThen (modClip_inner c _ _))

theorem releaseClip_inner (c : Nat) (s : State) : Inner [.clips, .sched, .chains] s (releaseClip c s) := by
  unfold releaseClip; split
  · exact .refl _ s
  · rename_i k _
    have h1 : Inner [.clips, .sched, .chains] s (if k.st == .opened then setOpenClips k.program 0 s else s) :=
      (Inner.ite (setOpenClips_inner _ _ s) (.refl _ s)).widen
    have h2 := fun f => h1.andThen (modClips_inner _ f)
    have h3 := fun f => Inner.ite (c := (k.st == .shipping) = true)
      ((h2 f).andThen (withdrawCursor_inner c _)) (h2 f)
    exact ((((h3 _).andThen (withdrawLabel_inner c _)).andThen (dropClip_inner c true _)).andThen
      (unpin_inner _ _ _)).andThen (modClips_inner _ _)

theorem yieldN_inner : ∀ n s, Inner [.clips, .sched, .chains, .store, .link] s (yieldN n s)
  | 0, s => .refl _ s
  | n + 1, s => by
    unfold yieldN; split
    · exact .refl _ s
    · split
      · exact .refl _ s
      · split
        · exact .refl _ s
        · exact (((((releaseClip_inner _ s).widen).andThen (modClips_inner _ _)).andThen
            (raise_inner .clipYielded _ _)).andThen (freeZero_inner _)).andThen (yieldN_inner n _)

theorem yieldRequest_inner (s : State) : Inner [.clips, .sched, .chains, .store, .link] s (yieldRequest s) :=
  .ite ((((modStore_inner s _).widen).andThen (yieldN_inner _ _)).andThen (freedTogether_inner s _)) (.refl _ s)

theorem homeRequest_inner (c n : Nat) (s : State) : Inner [.clips, .link] s (homeRequest c n s) := by
  unfold homeRequest
  dsimp only
  split
  · exact .ite (((queueShip_inner c s).andThen (modClips_inner _ _)).widen)
      (((modClips_inner s _).widen).andThen (raise_inner .homeRequestRefused _ _))
  · exact ((modClips_inner s _).widen).andThen (raise_inner .homeRequestRefused _ _)

/-! ### Allocator -/

theorem runAllocator_inner (cause : AllocCause) (s : State) :
    Inner [.alloc, .sched, .link] s (runAllocator cause s) := by
  have h : Inner [.alloc, .sched, .link] s
      { s with alloc := allocate cause s
               sched := { s.sched with bucket := min s.sched.bucket (100 * (allocate cause s).clipRate) } } := .plain
  exact .ite (h.andThen (raise_inner .starved _ _)) h

end Sys2Proof.Machine
end

