-- ==== Sys2Proof/Laws/EventOps.lean ====
section
/-! SUPPORT. What the operations of the writer, the coder, the programs, the paths, the scheduler, the intake and the
report receiver keep: one lemma for each (Laws/Inner.lean says what `Inner` means). -/

namespace Sys2Proof.Machine

set_option Elab.async false

/-! ### Takes and units -/

theorem reserveRule_inner (s : State) : Inner [.clips, .sched, .chains, .store, .link] s (reserveRule s) :=
  .ite (((setPressure_inner none s).widen).andThen (yieldRequest_inner _)) (.refl _ s)

theorem pinClosing_inner (p : Fin 4) (n : Nat) (s : State) : Inner [.clips, .chains] s (pinClosing p n s) := by
  unfold pinClosing
  exact Inner.foldl _ (fun t c => ((modSegs_inner p _ t fun g => by split <;> rfl).widen).andThen
    (modClip_inner c _ _)) _ s

theorem pinOpen_inner (p : Fin 4) (n : Nat) (s : State) : Inner [.clips] s (pinOpen p n s) := by
  unfold pinOpen; split
  · exact modClip_inner ..
  · exact .refl _ s

/-- The number that a take moves from the free list to a chain. -/
theorem takenNumbers (p : Fin 4) (s : State) (n : Nat) (rest : List Nat) (h : s.store.freeList = n :: rest)
    (f : Store → Store) (hf : (f s.store).freeList = rest) (g : Chain → Chain) (seg : Segment) (hn : seg.number = n)
    (hg : ∀ c, (g c).segs = c.segs ++ [seg]) :
    (allNumbers ((s.modStore f).modChain p g)).Perm (allNumbers s) := by
  have e : ∀ j, chainNumbers (((s.modStore f).modChain p g).chain j)
      = if p = j then chainNumbers (s.chain j) ++ [n] else chainNumbers (s.chain j) := fun j => by
    rw [modChain_chain]; unfold chainNumbers; split
    · subst_vars; simp [hg]
    · simp
  unfold allNumbers
  rw [e, e, e, e, h]
  simp only [modChain_store, modStore_store, hf]
  rw [List.perm_iff_count]
  intro x
  fin_cases p <;> simp [List.count_append, List.count_cons] <;> omega

theorem takeSegment_inner (p : Fin 4) (o : Nat) (s : State) :
    Inner [.clips, .sched, .chains, .store, .link] s (takeSegment p o s) := by
  unfold takeSegment; split
  · exact .refl _ s
  · rename_i n rest e
    have h : Inner [.chains, .store] s
        ((s.modStore fun t => { t with freeList := rest, takes := incWrap32 t.takes }).modChain p fun c =>
          { c with segs := c.segs ++ [newSegment n (s.prog p).run o (s.chain p).openClips]
                   takes := incWrap32 c.takes }) :=
      ⟨fun p hp => by cases p <;> first | rfl | trivial, id,
        takenNumbers p s n rest e _ rfl _ (newSegment n (s.prog p).run o (s.chain p).openClips) rfl fun _ => rfl,
        fun _ h => h, .refl _, fun _ => .refl _, fun _ _ h => h⟩
    exact (((h.widen (ps := [.clips, .sched, .chains, .store, .link])).andThen (pinOpen_inner p n _)).andThen
      (pinClosing_inner p n _)).andThen (reserveRule_inner _)

theorem refuseTake_inner (p : Fin 4) (n : Nat) (s : State) :
    Inner [.clips, .sched, .chains, .store, .link] s (refuseTake p n s) := by
  unfold refuseTake
  exact (((((modStore_inner s _).widen (ps := [.clips, .sched, .chains, .store, .link])).andThen
    (modChain_inner _ p _)).andThen (raise_inner .pictureCut _ _)).andThen
    (setPressure_inner _ _)).andThen (yieldRequest_inner _)

theorem takeAtRelease_inner (p : Fin 4) (n : Nat) (s : State) :
    Inner [.clips, .sched, .chains, .store, .link] s (takeAtRelease p n s) :=
  .ite (refuseTake_inner p n s) (takeSegment_inner p _ s)

theorem writePart_inner (p : Fin 4) (u : StreamUnit) (o : Nat) (b : List Byte) (x y : Bool) (s : State) :
    Inner [.mem, .chains] s (writePart p u o b x y s) := by
  unfold writePart; split
  · exact .refl _ s
  · rename_i g _
    dsimp only
    have k := fun f hf => ((modMem_inner s (fun m => memWriteBytes m (segAddress g.number g.fill) b)
      (memory_wf_write s.mem _ b)).widen (ps := [.mem, .chains])).andThen (modSegs_inner p f _ hf)
    exact .ite ((k _ fun g => by split <;> rfl).andThen (sealOpen_inner p _)) (k _ fun g => by split <;> rfl)

theorem afterWrite_inner (p : Fin 4) (u : StreamUnit) (s : State) :
    Inner [.progs, .lives, .clips, .sched] s (afterWrite p u s) := by
  unfold afterWrite
  exact ((((modProg_inner' s p _).widen).andThen (modLive_inner _ p _)).andThen
    (modClips_inner _ _)).andThen (letAsk_inner _)

/-- The parts that offering a unit may change. -/
abbrev offerParts : List Part := [.progs, .lives, .clips, .sched, .mem, .chains, .store, .link]

theorem offerUnit_inner (p : Fin 4) (u : StreamUnit) (s : State) : Inner offerParts s (offerUnit p u s).2 := by
  unfold offerUnit
  dsimp only
  split
  · exact .refl _ s
  · split
    · exact ((writePart_inner ..).widen).andThen (afterWrite_inner p u _)
    · split
      · exact (refuseTake_inner p _ s).widen
      · exact ((((Inner.ite (.refl _ s) (writePart_inner ..)).widen (ps := offerParts)).andThen
          (takeSegment_inner p _ _)).andThen (writePart_inner ..)).andThen (afterWrite_inner p u _)

/-! ### Coder (R46 to R51) -/

theorem popItem_inner (p : Fin 4) (s : State) : Inner [.coders] s (popItem p s) := modCoder_inner s p _

theorem coderCut_inner (p : Fin 4) (n : Nat) (s : State) : Inner [.coders] s (coderCut p n s) := modCoder_inner s p _

theorem callFor_inner (p : Fin 4) (items : List CoderItem) (s : State) : Inner [.coders] s (callFor p items s) :=
  modCoder_inner s p _

/-- The parts that a coder's work may change. -/
abbrev coderParts : List Part := [.coders, .loops, .progs, .lives, .clips, .sched, .mem, .chains, .store, .link]

theorem writeHead_inner (p : Fin 4) (n : Nat) (t : Timecode) (s : State) :
    Inner coderParts s (writeHead p n t s) := by
  unfold writeHead; split
  · exact .refl _ s
  · dsimp only
    have h := (offerUnit_inner p (headUnit n t (by assumption) (s.coder p).qi false) s).widen (ps := coderParts)
    exact .ite ((h.andThen (modLoop_inner _ p _)).andThen (modCoder_inner _ p _)) (h.andThen (coderCut_inner p n _))

theorem writeRepeat_inner (p : Fin 4) (n : Nat) (s : State) : Inner coderParts s (writeRepeat p n s) := by
  have h := (offerUnit_inner p (repeatUnit n) s).widen (ps := coderParts)
  exact .ite h (h.andThen (coderCut_inner p n _))

theorem writeSlateSlices_inner (p : Fin 4) (n qi e : Nat) (b : List Byte) :
    ∀ left i s, Inner coderParts s (writeSlateSlices p n qi e b left i s)
  | 0, _, s => .refl _ s
  | left + 1, i, s => by
    unfold writeSlateSlices
    have h := (offerUnit_inner p (sliceUnit n i qi (left == 0) b) s).widen (ps := coderParts)
    exact .ite ((h.andThen (modCoder_inner _ p _)).andThen (writeSlateSlices_inner p n qi e b left (i + 1) _))
      (h.andThen (coderCut_inner p n _))

theorem writeSlate_inner (p : Fin 4) (n : Nat) (t : Timecode) (s : State) :
    Inner coderParts s (writeSlate p n t s) := by
  unfold writeSlate; split
  · exact .refl _ s
  · dsimp only
    have h := (offerUnit_inner p (headUnit n t (by assumption) (s.coder p).qi true) s).widen (ps := coderParts)
    exact .ite (h.andThen (writeSlateSlices_inner ..)) (h.andThen (coderCut_inner p n _))

theorem beginSlice_inner (p : Fin 4) (n i : Nat) (s : State) : Inner coderParts s (beginSlice p n i s) := by
  unfold beginSlice; split
  · exact (popItem_inner p s).widen
  · dsimp only
    have h := fun f => (modCoder_inner s p f).widen (ps := coderParts)
    have k := fun f g => (h f).andThen (modLoop_inner _ p g)
    exact .ite (.ite (h _) (.ite (k _ _) ((k _ _).andThen (raise_inner .ceiling _ _)))) (h _)

theorem advanceN_inner (p : Fin 4) : ∀ n s, Inner coderParts s (advanceN p n s)
  | 0, s => .refl _ s
  | n + 1, s => by
    have pop := (popItem_inner p s).widen (ps := coderParts)
    unfold advanceN; split
    · exact .refl _ s
    · exact (pop.andThen (writeHead_inner ..)).andThen (advanceN_inner p n _)
    · exact (pop.andThen (writeRepeat_inner ..)).andThen (advanceN_inner p n _)
    · exact (pop.andThen (writeSlate_inner ..)).andThen (advanceN_inner p n _)
    · exact .ite (.refl _ s) (.ite (pop.andThen (advanceN_inner p n _)) (beginSlice_inner ..))

theorem advance_inner (p : Fin 4) (s : State) : Inner coderParts s (advance p s) := advanceN_inner p _ s

theorem loopTake_inner (p : Fin 4) (r : ProgramRecord) (b : Nat) (s : State) :
    Inner [.loops, .coders] s (loopTake p r b s) := by
  unfold loopTake
  exact ((modLoop_inner s p _).widen).andThen (modCoder_inner _ p _)

theorem pictureDone_inner (p : Fin 4) (s : State) : Inner [.loops, .coders] s (pictureDone p s) :=
  ((modCoder_inner s p _).widen).andThen (modLoop_inner _ p _)

theorem finishSlice_inner (p : Fin 4) (s : State) : Inner coderParts s (finishSlice p s) := by
  unfold finishSlice; split
  · dsimp only
    have h := fun u => ((popItem_inner p s).widen (ps := coderParts)).andThen (offerUnit_inner p u _)
    have k := fun u f r b => ((h u).andThen (modCoder_inner _ p f)).andThen (loopTake_inner p r b _)
    exact .ite (.ite ((k _ _ _ _).andThen (pictureDone_inner p _)) (k _ _ _ _)) ((h _).andThen (coderCut_inner p _ _))
  · exact .refl _ s

theorem sliceCoded_inner (p : Fin 4) (s : State) : Inner coderParts s (sliceCoded p s) :=
  .ite ((finishSlice_inner p s).andThen (advance_inner p _)) (.refl _ s)

theorem flushN_inner (p : Fin 4) : ∀ n s, Inner coderParts s (flushN p n s)
  | 0, s => .refl _ s
  | n + 1, s => .ite (((advance_inner p s).andThen (finishSlice_inner p _)).andThen (flushN_inner p n _))
      (advance_inner p s)

theorem flushCoder_inner (p : Fin 4) (s : State) : Inner coderParts s (flushCoder p s) := flushN_inner p _ s

/-! ### Sound at a tick (R98 to R100) -/

theorem checkDepth_inner (i : Fin 4) (s : State) : Inner [.slots, .link] s (checkDepth i s) :=
  .ite (((modSlot_inner s i _).widen).andThen (raise_inner .portUnaligned _ _)) (.refl _ s)

theorem writeSound_inner (p : Fin 4) (n c : Nat) (s : State) :
    Inner (.framers :: offerParts) s (writeSound p n c s) := by
  unfold writeSound; split
  · exact .refl _ s
  · exact .ite (.refl _ s) (((modFramer_inner s p _).widen).andThen (offerUnit_inner p _ _))

theorem endSound_inner (p : Fin 4) (n : Nat) (s : State) : Inner (.framers :: offerParts) s (endSound p n s) :=
  ((modProg_inner' s p _).widen).andThen (writeSound_inner p n _ _)

/-! ### Programs (R12 to R18) -/

theorem enterIdle_inner (p : Fin 4) (c : IdleCause) (s : State) :
    Inner [.progs, .link, .clips, .sched, .chains] s (enterIdle p c s) := by
  unfold enterIdle
  exact (((modProg_inner s p _ fun _ => rfl).widen).andThen (raise_inner .programIdle _ _)).andThen
    (closeAtIdle_inner p _)

theorem endWriting_inner (p : Fin 4) (s : State) : Inner [.progs, .chains] s (endWriting p s) :=
  .ite (((sealOpen_inner p s).widen).andThen (modProg_inner' _ p _)) (.refl _ s)

theorem completeDrain_inner (p : Fin 4) (s : State) :
    Inner [.progs, .link, .clips, .sched, .chains, .lives] s (completeDrain p s) :=
  .ite (((modLive_inner s p _).widen).andThen (enterIdle_inner p _ _)) (.refl _ s)

theorem settlePrograms_inner (s : State) :
    Inner [.progs, .link, .clips, .sched, .chains, .lives] s (settlePrograms s) :=
  .eachProgram _ (fun p t => ((endWriting_inner p t).widen).andThen (completeDrain_inner p _)) s

theorem clearCut_inner (p : Fin 4) (s : State) : Inner [.chains] s (clearCut p s) := modChain_inner s p _

theorem storeAbort_inner (p : Fin 4) (s : State) : Inner [.chains] s (storeAbort p s) :=
  ((sealOpen_inner p s).andThen (modSegs_inner p
    (fun g => if g.run == (s.prog p).run then { g with pendingSend := false } else g) _ fun g => by split <;> rfl)).andThen
    (clearCut_inner p _)

/-- The parts that leaving a run may change. -/
abbrev idleParts : List Part := [.coders, .intakes, .framers, .chains, .lives, .progs, .link, .clips, .sched]

theorem leaveRun_inner (p : Fin 4) (c : IdleCause) (s : State) : Inner idleParts s (leaveRun p c s) := by
  unfold leaveRun
  exact (((((((modCoder_inner s p _).widen (ps := idleParts)).andThen (modIntake_inner _ p _)).andThen
    (modFramer_inner _ p _)).andThen (storeAbort_inner p _)).andThen (modLive_inner _ p _)).andThen
    (modProg_inner' _ p _)).andThen (enterIdle_inner p c _)

theorem takeToIdle_inner (p : Fin 4) (c : IdleCause) (s : State) : Inner idleParts s (takeToIdle p c s) := by
  unfold takeToIdle; split
  · exact .refl _ s
  · exact ((clearCut_inner p s).widen).andThen (enterIdle_inner p c _)
  · exact leaveRun_inner p c s
  · exact leaveRun_inner p c s

theorem abortProgram_inner (p : Fin 4) (s : State) : Inner (.alloc :: idleParts) s (abortProgram p s) :=
  .ite (((takeToIdle_inner p _ s).widen).andThen (runAllocator_inner _ _)) (takeToIdle_inner p _ s).widen

theorem stopProgram_inner (p : Fin 4) (s : State) :
    Inner [.progs, .link, .clips, .sched, .chains, .alloc] s (stopProgram p s) := by
  unfold stopProgram
  split
  · exact .refl _ s
  · exact (enterIdle_inner p _ s).widen
  · rename_i e
    exact ((modProg_inner s p _ fun h => by rw [h] at e; cases e).widen).andThen (runAllocator_inner _ _)
  · exact .refl _ s

/-- The parts that a release may change. -/
abbrev releaseParts : List Part :=
  [.progs, .intakes, .coders, .loops, .framers, .lives, .chains, .clips, .mixer, .sched, .store, .link, .alloc]

theorem releaseProgram_inner (p : Fin 4) (s : State) : Inner releaseParts s (releaseProgram p s) := by
  unfold releaseProgram
  split
  · rename_i r e _
    dsimp only
    refine Inner.andThen ?_ (runAllocator_inner _ _)
    refine Inner.andThen ?_ (takeAtRelease_inner p _ _)
    refine Inner.andThen ?_ (modMixer_inner _ _)
    refine Inner.andThen ?_ (modClips_inner _ _)
    refine Inner.andThen ?_ (modChain_inner _ p _)
    refine Inner.andThen ?_ (modLive_inner _ p _)
    refine Inner.andThen ?_ (modFramer_inner _ p _)
    refine Inner.andThen ?_ (modLoop_inner _ p _)
    refine Inner.andThen ?_ (modCoder_inner _ p _)
    refine Inner.andThen ?_ (modIntake_inner _ p _)
    exact (modProg_inner s p _ fun h => by rw [h] at e; cases e).widen
  · exact .refl _ s

/-! ### Paths (R126 to R144) -/

/-- The parts that a path's change of state may change. -/
abbrev pathParts : List Part := [.paths, .chains, .sched, .link, .alloc]

theorem enterPath_inner (l : Fin 6) (st : PathState) (c : PathCause) (s : State) :
    Inner pathParts s (enterPath l st c s) := by
  unfold enterPath
  dsimp only
  have h1 := fun b : Bool => Inner.ite (c := b = true) (((modPath_inner s l outOfService).widen
    (ps := pathParts)).andThen (loseEntries_inner (fun e => e.path == l.1) _)) (Inner.refl pathParts s)
  have h2 := fun b d => ((h1 b).andThen (modPath_inner _ l (entered st))).andThen (raise_inner .pathState d _)
  exact (Inner.ite ((h2 _ _).andThen (letAskPath_inner l _)) (h2 _ _)).andThen (runAllocator_inner _ _)

/-- What entering a state does to the paths (R129, R131, R132). -/
theorem enterPath_path (l : Fin 6) (st : PathState) (c : PathCause) (s : State) (k : Fin 6) :
    (enterPath l st c s).path k = if l = k then
      entered st (if inService (s.path l) && (st == .down || st == .off) then outOfService (s.path l) else s.path l)
    else s.path k := by
  have e1 : ∀ u, (runAllocator .pathState u).path k = u.path k := fun u => by
    unfold State.path; rw [(runAllocator_inner _ u).same .paths (by decide)]
  have e2 : ∀ d u, (raise .pathState d u).path k = u.path k := fun d u => by
    unfold State.path; rw [(raise_inner .pathState d u).same .paths (by decide)]
  have e3 : ∀ f u i, (loseEntries f u).path i = u.path i := fun f u i => by
    unfold State.path; rw [(loseEntries_inner f u).same .paths (by decide)]
  have e4 : ∀ u, (letAskPath l u).path k = u.path k := fun u => by
    unfold State.path; rw [(letAskPath_inner l u).same .paths (by decide)]
  have e5 : ∀ (c : Prop) [Decidable c] (u v : State), (if c then u else v).path k = if c then u.path k else v.path k :=
    fun c _ u v => by split <;> rfl
  unfold enterPath
  dsimp only
  rw [e1, e5, e4, e2, ite_self, modPath_path, e5, e3, modPath_path]
  have e6 : ∀ (c : Prop) [Decidable c] (u v : State), (if c then u else v).path l = if c then u.path l else v.path l :=
    fun c _ u v => by split <;> rfl
  rw [e6, e3, modPath_path, if_pos rfl]
  by_cases h : l = k
  · simp [h]
  · simp [h]

theorem entered_figures (st : PathState) (p : Path) : (entered st p).st = st ∧ (entered st p).credit = p.credit
    ∧ (entered st p).estimate = p.estimate ∧ (entered st p).ceiling = p.ceiling
    ∧ (entered st p).probeRate = p.probeRate ∧ (entered st p).burst = p.burst := by
  unfold entered; dsimp only; split <;> exact ⟨rfl, rfl, rfl, rfl, rfl, rfl⟩

/-- A path out of service that enters any state but UP and DEGRADED keeps to its bounds. -/
theorem entered_bounded_of_zero (st : PathState) (p : Path) (hc : p.credit = 0) (he : p.estimate = 0)
    (h : 64 ≤ p.ceiling) : PathBounded (entered st p) := by
  obtain ⟨_, h2, h3, h4, _, _⟩ := entered_figures st p
  refine ⟨?_, ?_, ?_, fun _ => ?_⟩
  · rw [h2, hc]; exact Nat.zero_le _
  · rw [h3, he]; exact Nat.zero_le _
  · rw [h4]; exact h
  · rw [h3, he]

/-- A path that is not in service has no credit and no estimate. -/
theorem figures_of_out (p : Path) (h : PathBounded p) (hs : inService p = false) : p.credit = 0 ∧ p.estimate = 0 := by
  have hr : pathRate p = 0 := by unfold inService at hs; unfold pathRate; split <;> simp_all
  have hc : carries p = false := by unfold inService at hs; unfold carries; simp_all
  refine ⟨?_, h.2.2.2 hc⟩
  have := h.1
  unfold creditCap at this
  simpa [hr] using this

/-- Entering a state keeps paths to their bounds, but for PROBING to UP (R127, R131). -/
theorem enterPath_bounded (l : Fin 6) (st : PathState) (c : PathCause) (s : State) (h : PathsBounded s)
    (hs : inService (s.path l) = false ∨ st = .down ∨ st = .off ∨ (st = .degraded ∧ (s.path l).st = .up)
      ∨ (st = .up ∧ (s.path l).st = .degraded)) : PathsBounded (enterPath l st c s) := by
  intro k
  rw [enterPath_path]
  split
  · rename_i e
    subst e
    have hb := h l
    split
    · exact entered_bounded_of_zero st _ rfl rfl hb.2.2.1
    · rename_i hn
      by_cases hi : inService (s.path l) = false
      · obtain ⟨h1, h2⟩ := figures_of_out _ hb hi
        exact entered_bounded_of_zero st _ h1 h2 hb.2.2.1
      · obtain ⟨e1, e2, e3, e4, e5, e6⟩ := entered_figures st (s.path l)
        have hud : (st = .degraded ∧ (s.path l).st = .up) ∨ (st = .up ∧ (s.path l).st = .degraded) := by
          rcases hs with hs | hs | hs | hs | hs
          · exact absurd hs hi
          · simp [hs, hi] at hn
          · simp [hs, hi] at hn
          · exact Or.inl hs
          · exact Or.inr hs
        refine ⟨?_, by rw [e3, e4]; exact hb.2.1, by rw [e4]; exact hb.2.2.1, fun hc => ?_⟩
        · have := hb.1
          rcases hud with ⟨a, b⟩ | ⟨a, b⟩ <;> subst a <;> simpa [creditCap, pathRate, e1, e2, e3, e5, e6, b] using this
        · exfalso; unfold carries at hc; rw [e1] at hc; rcases hud with ⟨a, _⟩ | ⟨a, _⟩ <;> simp [a] at hc
  · exact h k

theorem answerProbe_inner (l : Fin 6) (s : State) : Inner pathParts s (answerProbe l s) :=
  (((modPath_inner s l _).widen (ps := pathParts)).andThen (enterPath_inner l _ _ _)).andThen (modPath_inner _ l _)

/-- A path whose credit is saturated to its cap. -/
theorem capCredit_bounded (p : Path) (h1 : p.estimate ≤ p.ceiling) (h2 : 64 ≤ p.ceiling)
    (h3 : carries p = false → p.estimate = 0) : PathBounded (capCredit p) := ⟨Nat.min_le_right _ _, h1, h2, h3⟩

theorem answerProbe_bounded (l : Fin 6) (s : State) (h : PathsBounded s) : PathsBounded (answerProbe l s) := by
  intro k
  unfold answerProbe
  rw [modPath_path]
  split
  · rename_i e
    subst e
    rw [enterPath_path, if_pos rfl, modPath_path, if_pos rfl, if_neg (by simp)]
    obtain ⟨e1, _, e3, e4, _, _⟩ := entered_figures .up
      { s.path l with estimate := min (s.path l).initial (s.path l).ceiling, good := 0, bad := 0 }
    refine capCredit_bounded _ ?_ ?_ fun hc => ?_
    · rw [e3, e4]; exact Nat.min_le_right _ _
    · rw [e4]; exact (h l).2.2.1
    · unfold carries at hc; rw [e1] at hc; simp at hc
  · rename_i e
    rw [enterPath_path, if_neg e, modPath_path, if_neg e]
    exact h k

theorem carrierGained_inner (l : Fin 6) (s : State) : Inner pathParts s (carrierGained l s) := by
  unfold carrierGained
  have h := fun f => (modPath_inner s l f).widen (ps := pathParts)
  exact .ite (.refl _ s) (.ite ((h _).andThen (enterPath_inner ..)) (h _))

theorem carrierGained_bounded (l : Fin 6) (s : State) (h : PathsBounded s) : PathsBounded (carrierGained l s) := by
  unfold carrierGained
  have hm : PathsBounded (s.modPath l fun p => { p with carrier := true }) := modPath_bounded s l _ h (h l)
  dsimp only
  split
  · exact h
  · split
    · rename_i e
      refine enterPath_bounded l _ _ _ hm (Or.inl ?_)
      simp [inService] at e ⊢; simp [e]
    · exact hm

theorem carrierLost_inner (l : Fin 6) (s : State) : Inner pathParts s (carrierLost l s) := by
  unfold carrierLost
  have h := fun f => (modPath_inner s l f).widen (ps := pathParts)
  exact .ite (.ite ((h _).andThen (enterPath_inner ..)) (h _)) (.refl _ s)

theorem carrierLost_bounded (l : Fin 6) (s : State) (h : PathsBounded s) : PathsBounded (carrierLost l s) := by
  unfold carrierLost
  have hm : PathsBounded (s.modPath l fun p =>
      { p with carrier := false, carrierLosses := if p.st == .off then p.carrierLosses else incSat16 p.carrierLosses }) :=
    modPath_bounded s l _ h (h l)
  dsimp only
  split
  · split
    · exact enterPath_bounded l _ _ _ hm (Or.inr (Or.inl rfl))
    · exact hm
  · exact h

theorem silenceExpiry_inner (l : Fin 6) (s : State) : Inner pathParts s (silenceExpiry l s) := by
  unfold silenceExpiry
  have h := ((modPath_inner s l fun p => { p with silences := incSat16 p.silences }).widen (ps := pathParts)).andThen
    (enterPath_inner l .down .silence _)
  exact .ite (h.andThen (enterPath_inner ..)) h

theorem silenceExpiry_bounded (l : Fin 6) (s : State) (h : PathsBounded s) : PathsBounded (silenceExpiry l s) := by
  unfold silenceExpiry
  have hm : PathsBounded (s.modPath l fun p => { p with silences := incSat16 p.silences }) :=
    modPath_bounded s l _ h (h l)
  have hd := enterPath_bounded l .down .silence _ hm (Or.inr (Or.inl rfl))
  dsimp only
  split
  · refine enterPath_bounded l _ _ _ hd (Or.inl ?_)
    rw [enterPath_path, if_pos rfl]
    simp [inService, entered]
  · exact hd

theorem silenceDue_inner (l : Fin 6) (s : State) : Inner pathParts s (silenceDue l s) :=
  .ite (silenceExpiry_inner l s) (.refl _ s)

theorem silenceDue_bounded (l : Fin 6) (s : State) (h : PathsBounded s) : PathsBounded (silenceDue l s) := by
  unfold silenceDue; split
  · exact silenceExpiry_bounded l s h
  · exact h

theorem refill_bounded (p : Path) (h : PathBounded p) : PathBounded (refill p) := by
  unfold refill
  split
  · exact h
  · exact h
  · exact ⟨Nat.min_le_right _ _, h.2⟩
  · exact ⟨Nat.min_le_right _ _, h.2⟩
  · exact ⟨Nat.min_le_right _ _, h.2⟩

theorem countSilence_bounded (p : Path) (h : PathBounded p) : PathBounded (countSilence p) := by
  unfold countSilence; split <;> exact h

theorem enablePath_inner (l : Fin 6) (s : State) : Inner pathParts s (enablePath l s) := by
  unfold enablePath
  dsimp only
  split
  · exact .ite (enterPath_inner ..) (enterPath_inner ..)
  · exact .ite (enterPath_inner ..) (.refl _ s)
  · exact .refl _ s
  · exact .refl _ s
  · exact .refl _ s

theorem enablePath_bounded (l : Fin 6) (s : State) (h : PathsBounded s) : PathsBounded (enablePath l s) := by
  unfold enablePath
  dsimp only
  split
  · rename_i e
    split <;> exact enterPath_bounded l _ _ s h (Or.inl (by simp [inService, e]))
  · rename_i e
    split
    · exact enterPath_bounded l _ _ s h (Or.inl (by simp [inService, e]))
    · exact h
  · exact h
  · exact h
  · exact h

theorem disablePath_inner (l : Fin 6) (s : State) : Inner pathParts s (disablePath l s) :=
  .ite (.refl _ s) (enterPath_inner ..)

theorem disablePath_bounded (l : Fin 6) (s : State) (h : PathsBounded s) : PathsBounded (disablePath l s) := by
  unfold disablePath; split
  · exact h
  · exact enterPath_bounded l _ _ s h (Or.inr (Or.inr (Or.inl rfl)))

end Sys2Proof.Machine
end

