-- ==== Sys2Proof/Laws/TickOps.lean ====
section
/-! SUPPORT. What the scheduler, the intake, the ticks and the report receiver keep: one lemma for each operation
(Laws/Inner.lean says what `Inner` means). -/

namespace Sys2Proof.Machine

set_option Elab.async false

/-! ### Hand-over (R134, R150) -/

theorem handOver_inner (l : Fin 6) (h : Header) (b : List Byte) (s : State) :
    Inner [.paths, .sched] s (handOver l h b s) := by
  unfold handOver
  exact (((modPath_inner s l _).widen).andThen (modPath_inner _ l _)).andThen (modSched_inner' _ _)

theorem charge_bounded (bits : Nat) (f : List Byte) (p : Path) (h : PathBounded p) : PathBounded (charge bits f p) :=
  ⟨(Nat.sub_le _ _).trans h.1, h.2⟩

theorem handOver_bounded (l : Fin 6) (h : Header) (b : List Byte) (s : State) (hc : PathsBounded s) :
    PathsBounded (handOver l h b s) := by
  unfold handOver
  have h1 : PathsBounded (s.modPath l stepSequence) := modPath_bounded s l _ hc (hc l)
  exact modPath_bounded _ l _ h1 (charge_bounded _ _ _ (h1 l))

/-- A hand-over leaves the window as it is. -/
theorem handOver_window (l : Fin 6) (h : Header) (b : List Byte) (s : State) :
    (handOver l h b s).sched.window = s.sched.window := rfl

theorem sendProbe_inner (l : Fin 6) (s : State) : Inner [.paths, .sched] s (sendProbe l s) := by
  unfold sendProbe
  exact .ite (((modPath_inner s l _).widen).andThen (modSched_inner' _ _)) (.refl _ s)

theorem sendProbe_bounded (l : Fin 6) (s : State) (hc : PathsBounded s) : PathsBounded (sendProbe l s) := by
  unfold sendProbe
  dsimp only
  split
  · refine (modSched_overfull _ _).bounded (modPath_bounded s l _ hc ?_)
    exact charge_bounded _ _ { s.path l with probeNumber := _, probeSince := _ } (hc l)
  · exact hc

/-! ### Live cursors (R153 to R156) -/

theorem moveCursor_inner (p : Fin 4) (run off : Nat) (s : State) :
    Inner [.lives, .chains] s (moveCursor p run off s) :=
  ((modLive_inner s p _).widen).andThen (clearPassed_inner p _)

theorem staleCheck_inner (p : Fin 4) (s : State) : Inner [.lives, .chains] s (staleCheck p s) := by
  unfold staleCheck
  split
  · exact .refl _ s
  · split
    · exact .refl _ s
    · exact .ite (((modLive_inner s p _).widen).andThen (moveCursor_inner ..)) (.refl _ s)

/-! ### Packets (R152, R160 to R167) -/

/-- The window with one entry more. -/
theorem enterWindow_inner (e : Entry) (s : State) : Inner [.overfull, .chains, .sched] s (enterWindow e s) :=
  ((placeAdds_inner e s).widen).andThen (modSched_overfull _ _)

theorem enterWindow_window (e : Entry) (s : State) :
    (enterWindow e s).sched.window = s.sched.window ++ [e] := by
  unfold enterWindow
  simp only [modSched_sched]
  rw [(placeAdds_inner e s).same .sched (by decide)]

theorem enterWindow_abandoned (e : Entry) (s : State) :
    (enterWindow e s).sched.abandoned = s.sched.abandoned := by
  unfold enterWindow
  simp only [modSched_sched]
  rw [(placeAdds_inner e s).same .sched (by decide)]

theorem bounded_append (w : List Entry) (e : Entry) (n m : Nat)
    (h : (w.filter Entry.isLive).length ≤ n ∧ (w.filter fun e => !e.isLive).length ≤ m)
    (k : if e.isLive then (w.filter Entry.isLive).length < n else (w.filter fun e => !e.isLive).length < m) :
    ((w ++ [e]).filter Entry.isLive).length ≤ n ∧ ((w ++ [e]).filter fun e => !e.isLive).length ≤ m := by
  by_cases he : e.isLive <;> simp_all

/-- An entry enters a window that has room for its class. -/
theorem enterWindow_bounded (e : Entry) (s : State) (h : WindowBounded s)
    (k : if e.isLive then (liveEntries s).length < 6144 else (reliableEntries s).length < 2048) :
    WindowBounded (enterWindow e s) := by
  rw [windowBounded_iff] at h ⊢
  rw [enterWindow_window, enterWindow_abandoned]
  have := bounded_append s.sched.window e _ _ ⟨h.1, h.2.1⟩ k
  exact ⟨this.1, this.2, h.2.2⟩

theorem windowBounded_congr {s t : State} (h : t.sched.window = s.sched.window)
    (k : t.sched.abandoned = s.sched.abandoned) : WindowBounded t ↔ WindowBounded s := by
  rw [windowBounded_iff, windowBounded_iff, h, k]

/-- The parts that a path's walk may change. -/
abbrev walkParts : List Part := [.paths, .sched, .chains, .clips, .lives]

theorem takeLabel_inner (l : Fin 6) (c : Nat) (k : Clip) (s : State)
    (h : (reliableEntries s).length < 2048) : Inner walkParts s (takeLabel l c k s) := by
  unfold takeLabel
  dsimp only
  refine Inner.andThen ?_ (labelSent_inner c k.revision _)
  have h1 := ((handOver_inner l (labelHeader c k false) (labelBody c k) s).widen (ps := walkParts)).andThen
    (modSched_inner' _ fun d => { d with labelQueue := d.labelQueue.tail })
  refine Inner.inBounds ((h1.widen (ps := .overfull :: walkParts) (by decide)).andThen (enterWindow_inner _ _)) fun w => ?_
  refine enterWindow_bounded _ _ (h1.window (by decide) w) ?_
  exact h

theorem filter_replace_length (w : List Entry) (e new : Entry) (p : Entry → Bool) (he : e ∈ w)
    (hp : p new = p e) : (((w ++ [new]).filter fun x => !(x.send == e.send)).filter p).length
      ≤ (w.filter p).length := by
  rw [List.filter_comm]
  by_cases hpe : p e = true
  · have hm : e ∈ w.filter p := List.mem_filter.mpr ⟨he, hpe⟩
    have hlt : ((w.filter p).filter fun x => !(x.send == e.send)).length < (w.filter p).length := by
      apply List.length_filter_lt_length_iff_exists.mpr
      exact ⟨e, hm, by simp⟩
    rw [List.filter_append, List.filter_append, List.length_append]
    have : (List.filter (fun x => !(x.send == e.send)) (List.filter p [new])).length ≤ 1 :=
      (List.length_filter_le _ _).trans (List.length_filter_le _ _)
    omega
  · rw [List.filter_append]
    have : List.filter p [new] = [] := by simp [hp, hpe]
    rw [this, List.append_nil]
    exact List.length_filter_le _ _

theorem reportLabel_inner (e : Entry) (s : State) : Inner [.clips] s (reportLabel e s) := by
  unfold reportLabel; split
  · exact labelSent_inner ..
  · exact .refl _ s
  · exact .refl _ s

theorem resentPlace_isLive (e : Entry) (s : State) (n p r : Nat) (q : Bool) :
    ({ e with send := n, place := resentPlace e s, path := p, resends := r, queued := q } : Entry).isLive = e.isLive := by
  unfold Entry.isLive resentPlace
  cases e.place <;> rfl

theorem takeResend_inner (l : Fin 6) (e : Entry) (s : State) (he : e ∈ s.sched.window) :
    Inner walkParts s (takeResend l e s) := by
  unfold takeResend
  dsimp only
  refine Inner.andThen ?_ (modSched_inner' _ _)
  refine Inner.andThen ?_ (reportLabel_inner _ _)
  have h1 := (handOver_inner l (resendPacket e s).1 (resendPacket e s).2 s).widen (ps := .overfull :: walkParts)
  refine Inner.inBounds ((h1.andThen (enterWindow_inner _ _)).andThen (removeEntries_inner _ _)) fun w => ?_
  rw [windowBounded_iff] at w ⊢
  rw [removeEntries_sched, enterWindow_window, enterWindow_abandoned]
  have hw := handOver_window l (resendPacket e s).1 (resendPacket e s).2 s
  dsimp only
  rw [hw]
  refine ⟨(filter_replace_length _ e _ _ he ?_).trans w.1, (filter_replace_length _ e _ _ he ?_).trans w.2.1, w.2.2⟩
  · exact resentPlace_isLive e s _ _ _ _
  · exact congrArg (!·) (resentPlace_isLive e s _ _ _ _)

theorem abandon_removes (s : State) (e : Entry) (he : e ∈ liveEntries s) :
    (liveEntries (abandon (fun x => x.send == e.send) s)).length < (liveEntries s).length := by
  have hs : (abandon (fun x => x.send == e.send) s).sched.window
      = s.sched.window.filter fun x => !(x.send == e.send) := by
    unfold abandon; simp only [modSched_sched]; rw [removeEntries_sched]
  unfold liveEntries at he ⊢
  rw [hs, List.filter_comm]
  exact List.length_filter_lt_length_iff_exists.mpr ⟨e, he, by simp⟩

/-- Room for a live entry, made where the window is full (R152). -/
theorem displace_room (s : State) (h : (liveEntries s).length ≤ 6144) :
    (liveEntries (if Config.maxLiveEntries ≤ (liveEntries s).length then displace s else s)).length < 6144 := by
  split
  · rename_i hf
    unfold displace
    split
    · rename_i e; rw [e]; show 0 < 6144; omega
    · rename_i x xs e
      have hx : x ∈ liveEntries s := by rw [e]; simp
      have k := lt_of_lt_of_le (abandon_removes s x hx) h
      unfold liveEntries at k ⊢
      simpa only [modSched_sched] using k
  · rename_i hn; simpa [Config.maxLiveEntries] using hn

theorem takeLive_inner (l : Fin 6) (p : Fin 4) (len : Nat) (s : State) : Inner walkParts s (takeLive l p len s) := by
  unfold takeLive
  split
  · exact .refl _ s
  · rename_i run off _
    dsimp only
    refine Inner.andThen ?_ (modSched_inner' _ _)
    refine Inner.andThen ?_ (modLive_inner _ p _)
    refine Inner.andThen ?_ (moveCursor_inner p run _ _)
    have h1 := fun h b => (handOver_inner l h b s).widen (ps := walkParts)
    have h2 : ∀ u, Inner walkParts u (if Config.maxLiveEntries ≤ (liveEntries u).length then displace u else u) :=
      fun u => (Inner.ite (displace_inner u) (.refl _ u)).widen
    refine Inner.inBounds ((((h1 _ _).andThen (h2 _)).widen (ps := .overfull :: walkParts) (by decide)).andThen
      (enterWindow_inner _ _)) fun w => ?_
    have key : ∀ (e : Entry) (u : State), e.isLive = true → WindowBounded u →
        WindowBounded (enterWindow e (if Config.maxLiveEntries ≤ (liveEntries u).length then displace u else u)) :=
      fun e u he w1 => enterWindow_bounded _ _ ((h2 u).window (by decide) w1) (by
        rw [if_pos he]; exact displace_room u w1.1)
    exact key _ _ rfl ((h1 _ _).window (by decide) w)

theorem takeClip_inner (l : Fin 6) (k : ClipCursor) (len : Nat) (s : State)
    (h : (reliableEntries s).length < 2048) : Inner walkParts s (takeClip l k len s) := by
  unfold takeClip
  dsimp only
  refine Inner.andThen ?_ (modClip_inner _ _ _)
  refine Inner.andThen ?_ (modSched_inner' _ _)
  have h1 := fun h b => (handOver_inner l h b s).widen (ps := walkParts)
  refine Inner.inBounds (((h1 _ _).widen (ps := .overfull :: walkParts) (by decide)).andThen
    (enterWindow_inner _ _)) fun w => ?_
  exact enterWindow_bounded _ _ ((h1 _ _).window (by decide) w) h

/-! ### The class order (R157 to R163) -/

/-- What a walk that began in `s` keeps: as `Inner` of its state, and credits within their caps. -/
def WalkKept (s : State) (w : Walk) : Prop :=
  Inner walkParts s w.state ∧ (PathsBounded s → PathsBounded w.state)

theorem WalkKept.andThen {s : State} {w : Walk} {f : State → Walk} (h : WalkKept s w)
    (k : ∀ t, WalkKept t (f t)) : WalkKept s (w.next f) := by
  cases w with
  | goOn t => exact ⟨h.1.andThen (k t).1, fun c => (k t).2 (h.2 c)⟩
  | ended t => exact h

theorem offer_kept (l : Fin 6) (bits : Nat) (take : State → State) (s : State)
    (h : Inner walkParts s (take s)) (k : PathsBounded s → PathsBounded (take s)) :
    WalkKept s (offer l bits take s) := by
  unfold offer
  split
  · exact ⟨.refl _ s, id⟩
  · exact ⟨.refl _ s, id⟩
  · exact ⟨h, k⟩

theorem takeLabel_bounded (l : Fin 6) (c : Nat) (k : Clip) (s : State) (hc : PathsBounded s) :
    PathsBounded (takeLabel l c k s) := by
  unfold takeLabel
  dsimp only
  refine (labelSent_inner c k.revision _).bounded ?_
  refine (enterWindow_inner _ _).bounded ?_
  exact (modSched_overfull _ _).bounded (handOver_bounded l _ _ s hc)

theorem labelStep_kept (l : Fin 6) (s : State) : WalkKept s (labelStep l s) := by
  unfold labelStep
  split
  · exact ⟨.refl _ s, id⟩
  · rename_i h
    have h' : (reliableEntries s).length < 2048 := by simpa [Config.maxReliableEntries] using h
    split
    · exact ⟨.refl _ s, id⟩
    · split
      · exact ⟨.refl _ s, id⟩
      · exact offer_kept l _ _ s (takeLabel_inner l _ _ s h') (takeLabel_bounded l _ _ s)

theorem takeResend_bounded (l : Fin 6) (e : Entry) (s : State) (hc : PathsBounded s) :
    PathsBounded (takeResend l e s) := by
  unfold takeResend
  dsimp only
  refine (modSched_overfull _ _).bounded ?_
  refine (reportLabel_inner _ _).bounded ?_
  refine (removeEntries_inner _ _).bounded ?_
  exact (enterWindow_inner _ _).bounded (handOver_bounded l _ _ s hc)

theorem offerResends_kept (l : Fin 6) : ∀ (es : List Entry) (s : State), (∀ e ∈ es, e ∈ s.sched.window) →
    WalkKept s (offerResends l es s)
  | [], s, _ => ⟨.refl _ s, id⟩
  | e :: es, s, h => by
    unfold offerResends offer
    split
    · exact offerResends_kept l es s fun x hx => h x (by simp [hx])
    · exact ⟨.refl _ s, id⟩
    · exact ⟨takeResend_inner l e s (h e (by simp)), takeResend_bounded l e s⟩

theorem resendCandidates_mem (l : Fin 6) (strict : Bool) (s : State) :
    ∀ e ∈ resendCandidates l strict s, e ∈ s.sched.window := by
  intro e he
  unfold resendCandidates at he
  dsimp only at he
  split at he
  · split at he
    · simp at he
    · exact (List.mem_filter.mp he).1
  · exact (List.mem_filter.mp (List.mem_filter.mp he).1).1

theorem repairStep_kept (l : Fin 6) (s : State) : WalkKept s (repairStep l s) := by
  unfold repairStep
  split
  · exact offerResends_kept l _ s (resendCandidates_mem l true s)
  · exact ⟨.refl _ s, id⟩

theorem resendStep_kept (l : Fin 6) (s : State) : WalkKept s (resendStep l s) :=
  offerResends_kept l _ s (resendCandidates_mem l false s)

theorem takeLive_bounded (l : Fin 6) (p : Fin 4) (len : Nat) (s : State) (hc : PathsBounded s) :
    PathsBounded (takeLive l p len s) := by
  unfold takeLive
  split
  · exact hc
  · dsimp only
    refine (modSched_overfull _ _).bounded ?_
    refine (modLive_inner _ p _).bounded ?_
    refine (moveCursor_inner p _ _ _).bounded ?_
    refine (enterWindow_inner _ _).bounded ?_
    refine (Inner.ite (displace_inner _) (.refl _ _)).bounded ?_
    exact handOver_bounded l _ _ s hc

theorem liveTurn_kept (l : Fin 6) (p : Fin 4) (s : State) : WalkKept s (liveTurn l p s) := by
  unfold liveTurn
  dsimp only
  have h1 := (staleCheck_inner p s).widen (ps := walkParts)
  have c1 := fun c => (staleCheck_inner p s).bounded c
  split
  · exact ⟨h1, c1⟩
  · have h := offer_kept l (packetBits (liveLength p (staleCheck p s))) _ _
      (takeLive_inner l p (liveLength p (staleCheck p s)) (staleCheck p s)) (takeLive_bounded l p _ _)
    exact ⟨h1.andThen h.1, fun c => h.2 (c1 c)⟩

theorem liveStep_kept (l : Fin 6) (s : State) : WalkKept s (liveStep l s) :=
  (((liveTurn_kept l _ s).andThen (liveTurn_kept l _)).andThen (liveTurn_kept l _)).andThen (liveTurn_kept l _)

theorem takeClip_bounded (l : Fin 6) (k : ClipCursor) (len : Nat) (s : State) (hc : PathsBounded s) :
    PathsBounded (takeClip l k len s) := by
  unfold takeClip
  dsimp only
  refine (modClip_inner _ _ _).bounded ?_
  refine (modSched_overfull _ _).bounded ?_
  exact (enterWindow_inner _ _).bounded (handOver_bounded l _ _ s hc)

theorem clipStep_kept (l : Fin 6) (s : State) : WalkKept s (clipStep l s) := by
  have z : WalkKept s (.goOn s) := ⟨.refl _ s, id⟩
  have z' : WalkKept s (.ended s) := ⟨.refl _ s, id⟩
  unfold clipStep
  split
  · exact z
  · rename_i h
    have h' : (reliableEntries s).length < 2048 := by simpa [Config.maxReliableEntries] using h
    split
    · exact z
    · dsimp only
      split
      · exact z
      · split
        · exact z
        · split
          · exact z'
          · exact offer_kept l _ _ s (takeClip_inner l _ _ s h') (takeClip_bounded l _ _ s)

theorem walk_kept (l : Fin 6) (s : State) : Inner walkParts s (walk l s) ∧ (PathsBounded s → PathsBounded (walk l s)) :=
  ((((labelStep_kept l s).andThen (repairStep_kept l)).andThen (liveStep_kept l)).andThen (resendStep_kept l)).andThen
    (clipStep_kept l)

theorem askPath_kept (l : Fin 6) (s : State) :
    Inner walkParts s (askPath l s) ∧ (PathsBounded s → PathsBounded (askPath l s)) := by
  unfold askPath; split
  · exact walk_kept l s
  · exact ⟨.refl _ s, id⟩

/-! ### The end of an event -/

theorem eachPath_bounded (f : Fin 6 → State → State) (h : ∀ l t, PathsBounded t → PathsBounded (f l t)) (s : State)
    (hc : PathsBounded s) : PathsBounded (eachPath f s) := h 5 _ (h 4 _ (h 3 _ (h 2 _ (h 1 _ (h 0 s hc)))))

theorem serve_kept (l : Fin 6) (b : Bool) (t : State) :
    Inner walkParts t (sendProbe l (if b then askPath l t else t))
      ∧ (PathsBounded t → PathsBounded (sendProbe l (if b then askPath l t else t))) := by
  have h : Inner walkParts t (if b then askPath l t else t)
      ∧ (PathsBounded t → PathsBounded (if b then askPath l t else t)) := by
    cases b
    · exact ⟨.refl _ t, id⟩
    · exact askPath_kept l t
  exact ⟨h.1.andThen (sendProbe_inner l _), fun c => sendProbe_bounded l _ (h.2 c)⟩

theorem servePaths_inner (s : State) : Inner walkParts s (servePaths s) := by
  unfold servePaths
  exact ((modSched_inner' s _).widen).andThen (.eachPath _ (fun l t => (serve_kept l _ t).1) _) fun _ h => h

theorem servePaths_bounded (s : State) (hc : PathsBounded s) : PathsBounded (servePaths s) := by
  unfold servePaths
  exact eachPath_bounded _ (fun l t => (serve_kept l _ t).2) _ hc

/-- The parts that the end of an event may change. -/
abbrev settleParts : List Part := [.paths, .sched, .chains, .store, .clips, .lives, .progs, .link]

theorem settleQuiet_inner (s : State) : Inner settleParts s (settleQuiet s) :=
  ((settlePrograms_inner s).widen).andThen (settleShip_inner _)

theorem settleQuiet_bounded (s : State) (hc : PathsBounded s) : PathsBounded (settleQuiet s) :=
  (settleShip_inner _).bounded ((settlePrograms_inner s).bounded hc)

theorem settleN_inner : ∀ n s, Inner settleParts s (settleN n s)
  | 0, s => (modSched_inner' s _).widen
  | n + 1, s => by
    have h := ((servePaths_inner s).widen (ps := settleParts)).andThen (settleQuiet_inner _)
    unfold settleN
    exact .ite h (h.andThen (settleN_inner n _))

theorem settleN_bounded : ∀ n s, PathsBounded s → PathsBounded (settleN n s)
  | 0, _, h => h
  | n + 1, s, h => by
    have k := settleQuiet_bounded _ (servePaths_bounded s h)
    unfold settleN
    dsimp only
    split
    · exact k
    · exact settleN_bounded n _ k

theorem settle_inner (s : State) : Inner settleParts s (settle s) :=
  ((settleQuiet_inner s).andThen (settleN_inner 16 _)).andThen (freeZero_inner _)

theorem settle_bounded (s : State) (h : PathsBounded s) : PathsBounded (settle s) :=
  (freeZero_inner _).bounded (settleN_bounded 16 _ (settleQuiet_bounded s h))

theorem endEvent_inner (start s : State) : Inner settleParts s (endEvent start s) :=
  (settle_inner s).andThen (freedTogether_inner start _)

theorem endEvent_bounded (start s : State) (h : PathsBounded s) : PathsBounded (endEvent start s) :=
  (freedTogether_inner start _).bounded (settle_bounded s h)

/-! ### Intake (R22 to R33) -/

theorem loseInput_inner (i : Fin 4) (s : State) : Inner [.ports, .link] s (loseInput i s) :=
  ((modPort_inner s i _).widen).andThen (raise_inner .inputLost _ _)

theorem portTick_inner (i : Fin 4) (s : State) : Inner [.ports, .link] s (portTick i s) := by
  unfold portTick
  have h := fun f => (modPort_inner s i f).widen (ps := [.ports, .link])
  exact .ite ((h _).andThen (loseInput_inner i _)) (h _)

/-- The parts that intake may change. -/
abbrev intakeParts : List Part := [.intakes, .coders, .loops, .progs, .lives, .clips, .sched, .mem, .chains, .store, .link]

theorem programLine_inner (p : Fin 4) (r : ProgramRecord) (x : Line) (s : State) :
    Inner intakeParts s (programLine p r x s) := by
  unfold programLine
  split
  · exact .refl _ s
  · have h := fun f => (modIntake_inner s p f).widen (ps := intakeParts)
    exact .ite (((h _).andThen (callFor_inner p _ _)).andThen (advance_inner p _)) (h _)

theorem lineTaken_inner (i : Fin 4) (y cb cr : List Sample10) (s : State) :
    Inner (.ports :: intakeParts) s (lineTaken i y cb cr s) := by
  unfold lineTaken
  refine .ite (.refl _ s) (((modPort_inner s i _).widen).andThen (Inner.eachProgram (ps := intakeParts) _
    (fun p t => ?_) _))
  split
  · exact .ite (programLine_inner ..) (.refl _ t)
  · exact .refl _ t

theorem closeShort_inner (p : Fin 4) (s : State) : Inner intakeParts s (closeShort p s) := by
  unfold closeShort
  split
  · exact (((modIntake_inner s p _).widen).andThen (callFor_inner p _ _)).andThen (flushCoder_inner p _)
  · exact .refl _ s

theorem closeLimit_inner (p : Fin 4) (n : Nat) (s : State) : Inner intakeParts s (closeLimit p n s) := by
  unfold closeLimit
  split
  · exact .ite (.refl _ s) (closeShort_inner p s)
  · exact .refl _ s

theorem accept_inner (p : Fin 4) (s : State) : Inner intakeParts s (accept p s) :=
  (((modIntake_inner s p _).widen).andThen (callFor_inner p _ _)).andThen (advance_inner p _)

theorem mismatch_inner (p i : Fin 4) (f : Format) (r : ProgramRecord) (s : State) :
    Inner intakeParts s (mismatch p i f r s) :=
  .ite (.refl _ s) (((modIntake_inner s p _).widen).andThen (raise_inner .formatMismatch _ _))

theorem decidePicture_inner (p i : Fin 4) (s : State) : Inner intakeParts s (decidePicture p i s) := by
  unfold decidePicture
  split
  · exact .refl _ s
  · refine .ite ?_ (.refl _ s)
    split
    · exact .ite (accept_inner p s) (mismatch_inner ..)
    · exact .refl _ s

theorem startOfPicture_inner (i : Fin 4) (s : State) : Inner (.ports :: intakeParts) s (startOfPicture i s) := by
  unfold startOfPicture
  dsimp only
  have h1 := (modPort_inner s i (markerPort s.tb.picture)).widen (ps := .ports :: intakeParts)
  have h2 := fun d => Inner.ite (c := locksNow (s.port i) = true) (h1.andThen (raise_inner .inputBack d _)) h1
  have h3 := fun d => (h2 d).andThen (Inner.eachProgram (ps := intakeParts)
    (fun p t => if feeds i p t then closeShort p t else t) (fun p t => .ite (closeShort_inner p t) (.refl _ t)) _)
  exact .ite (h3 _) ((h3 _).andThen (.eachProgram _ (fun p t => decidePicture_inner p i t) _))

theorem standIn_inner (p : Fin 4) (n : Nat) (t : Timecode) (s : State) : Inner intakeParts s (standIn p n t s) := by
  unfold standIn
  split
  · exact .refl _ s
  · dsimp only
    have h := fun f g items => ((((modIntake_inner s p f).widen (ps := intakeParts)).andThen
      (modIntake_inner _ p g)).andThen (callFor_inner p items _)).andThen (flushCoder_inner p _)
    exact .ite (.refl _ s) (.ite (h _ _ _) (h _ _ _))

/-! ### Ticks (R4, R7) -/

/-- The parts that the end of a period may change. -/
abbrev periodParts : List Part := .framers :: intakeParts

theorem endPeriod_inner (p : Fin 4) (n : Nat) (s : State) : Inner periodParts s (endPeriod p n s) := by
  unfold endPeriod
  dsimp only
  have h1 := (closeLimit_inner p n s).widen (ps := periodParts)
  have h2 := Inner.ite (c := periodOfRun p n s = true)
    ((h1.andThen (standIn_inner p n s.tb.endedLabel _)).andThen (endSound_inner p n _)) h1
  have h3 := Inner.ite (c := ((s.prog p).st == .draining && (s.prog p).drainPicture == some n) = true)
    (h2.andThen (modFramer_inner _ p framerStop)) h2
  exact (h3.andThen (periodEnd_inner p _)).andThen (modIntake_inner _ p _)

theorem retentionTick_inner (s : State) : Inner [.chains, .store] s (retentionTick s) :=
  ((retentionRelease_inner s).widen).andThen (freeZero_inner _)

theorem tickStale_inner (p : Fin 4) (s : State) : Inner [.lives, .chains] s (tickStale p s) :=
  .ite (staleCheck_inner p s) (.refl _ s)

/-- The parts that a picture tick may change. -/
abbrev tickParts : List Part :=
  [.tb, .progs, .ports, .intakes, .coders, .loops, .alloc, .slots, .mixer, .framers, .store, .chains, .mem, .paths,
    .sched, .lives, .clips, .link]

/-- What follows the timebase's own part of a picture tick. -/
theorem tickRest_inner (b : Bool) (n : Nat) (start s1 : State) :
    Inner (tickParts.drop 1) s1 (endEvent start (eachProgram tickStale
      (let s2 := if b then retentionTick s1 else s1
       let s3 := eachProgram (fun p t => endPeriod p n t) s2
       let s4 := eachProgram releaseProgram s3
       let s5 := eachProgram (fun i t => t.modSlot i releaseSlot) s4
       let s6 := s5.modMixer fun m => { m with buses := mapAll (fun _ => busAtTick) m.buses }
       if b then s6 else retentionTick s6))) := by
  dsimp only
  refine Inner.andThen ?_ (endEvent_inner start _)
  refine Inner.andThen ?_ (Inner.eachProgram (ps := [.lives, .chains]) _ tickStale_inner _)
  have h2 := (Inner.ite (c := b = true) (retentionTick_inner s1) (.refl _ s1)).widen (ps := tickParts.drop 1)
  have h6 := (((h2.andThen (Inner.eachProgram (ps := periodParts) _ (fun p t => endPeriod_inner p n t) _)).andThen
    (Inner.eachProgram (ps := releaseParts) _ releaseProgram_inner _)).andThen
    (Inner.eachProgram (ps := [.slots]) _ (fun i t => modSlot_inner t i releaseSlot) _)).andThen
    (modMixer_inner _ fun m => { m with buses := mapAll (fun _ => busAtTick) m.buses })
  exact .ite h6 (h6.andThen (retentionTick_inner _))

theorem tickTimebase_inner (time : Nat) (s : State) : Inner [.tb] s (tickTimebase time s) := modTb_inner s _

/-- A picture tick: the timebase's own part first (R4, R5), then what leaves the timebase alone. -/
theorem pictureTick_inner (time : Nat) (s : State) :
    Inner (tickParts.drop 1) (tickTimebase time s) (pictureTick time s) := by
  unfold pictureTick pictureTickWith
  exact ((Inner.eachProgram (ps := [.ports, .link]) _ portTick_inner _).widen).andThen
    (tickRest_inner _ s.tb.picture s _) fun _ h => h

/-- The timebase after a picture tick (R4, R5, R114). -/
theorem pictureTick_tb (time : Nat) (s : State) :
    (pictureTick time s).tb = { timebaseTick time s.tb with retentions := recordRetentions s } :=
  (pictureTick_inner time s).same .tb (by decide)

end Sys2Proof.Machine
end

