-- ==== Sys2Proof/Laws/RequestOps.lean ====
section
/-! SUPPORT. What the reference, the pacing tick, the report receiver and the requests keep: one lemma for each
operation (Laws/Inner.lean says what `Inner` means). -/

namespace Sys2Proof.Machine

set_option Elab.async false

/-! ### The reference (R2, R3) -/

theorem arrive_inner (t : Nat) (s : State) : Inner [.tb] s (arrive t s) := modTb_inner s _

theorem pictureTick_keeps (time : Nat) (s : State) : Inner tickParts s (pictureTick time s) :=
  ((tickTimebase_inner time s).widen).andThen (pictureTick_inner time s)

theorem referenceBack_inner (r : RefState) (s : State) : Inner [.flags, .link] s (referenceBack r s) :=
  .ite (raise_flags _ _ s) (.refl _ s)

theorem takePulse_inner (s : State) : Inner (.flags :: tickParts) s (takePulse s) := by
  unfold takePulse
  dsimp only
  have h := fun f => (modTb_inner s f).widen (ps := .flags :: tickParts)
  exact .ite (((h _).andThen (pictureTick_keeps _ _)).andThen (referenceBack_inner _ _))
    ((h _).andThen (referenceBack_inner _ _))

theorem takeDueTick_inner (s : State) : Inner tickParts s (takeDueTick s) := by
  unfold takeDueTick
  split
  · exact .refl _ s
  · exact ((modTb_inner s _).widen).andThen (pictureTick_keeps _ _)

theorem takeLossExpiry_inner (s : State) : Inner (.flags :: tickParts) s (takeLossExpiry s) := by
  unfold takeLossExpiry
  exact .ite ((((modTb_inner s _).widen).andThen (raise_flags _ _ _)).andThen (pictureTick_keeps _ _)) (.refl _ s)

/-! ### The pacing tick (R7) -/

theorem takeAllocationTick_inner (s : State) : Inner [.tb, .alloc, .sched, .link] s (takeAllocationTick s) :=
  .ite (((modTb_inner s _).widen).andThen (runAllocator_inner _ _)) (.refl _ s)

theorem expiries_inner (b : Bool) (s : State) : Inner pathParts s (expiries b s) := by
  unfold expiries
  exact .ite (((expireEntries_inner _ s).widen).andThen (.eachPath _ silenceDue_inner _) fun _ h => h)
    ((Inner.eachPath (ps := pathParts) _ silenceDue_inner s).andThen (expireEntries_inner _ _))

theorem expiries_bounded (b : Bool) (s : State) (h : PathsBounded s) : PathsBounded (expiries b s) := by
  unfold expiries
  split
  · exact eachPath_bounded _ silenceDue_bounded _ ((expireEntries_inner _ s).bounded h)
  · exact (expireEntries_inner _ _).bounded (eachPath_bounded _ silenceDue_bounded s h)

/-- The parts that a pacing tick may change. -/
abbrev pacingParts : List Part := [.tb, .alloc, .uplink, .paths, .sched, .chains, .store, .clips, .lives, .progs, .link]

theorem pacingTick_inner (s : State) : Inner pacingParts s (pacingTick s) := by
  unfold pacingTick pacingTickWith
  dsimp only
  refine Inner.andThen ?_ (settle_inner _)
  refine Inner.andThen ?_ (letAsk_inner _)
  refine Inner.andThen ?_ (expiries_inner _ _)
  refine Inner.andThen ?_ (modSched_inner' _ _)
  refine Inner.andThen ?_ (Inner.eachPath (ps := [.paths]) _ (fun l t => modPath_inner t l _) _)
  exact (((takeAllocationTick_inner s).widen).andThen (modTb_inner _ _)).andThen (modUplink_inner _ _)

theorem pacingTick_bounded (s : State) (h : PathsBounded s) : PathsBounded (pacingTick s) := by
  unfold pacingTick pacingTickWith
  dsimp only
  refine settle_bounded _ ((letAsk_inner _).bounded (expiries_bounded _ _ ((modSched_inner' _ _).bounded ?_)))
  refine eachPath_bounded _ (fun l t c => modPath_bounded t l (fun p => countSilence (refill p)) c
    (countSilence_bounded _ (refill_bounded _ (c l)))) _ ?_
  exact (modUplink_inner _ _).bounded ((modTb_inner _ _).bounded ((takeAllocationTick_inner s).bounded h))

/-! ### The report receiver (R137 to R143, R164 to R166) -/

theorem ackLabel_inner (e : Entry) (s : State) : Inner [.clips] s (ackLabel e s) := by
  unfold ackLabel; split
  · exact labelAcked_inner ..
  · exact .refl _ s
  · exact .refl _ s

theorem applyAck_inner (a : Nat) (s : State) : Inner [.clips, .sched, .chains] s (applyAck a s) := by
  unfold applyAck
  refine Inner.andThen ?_ (Inner.foldl (ps := [.clips]) _ (fun t e => ackLabel_inner e t) _ _)
  refine (((removeEntries_inner _ s).widen)).andThen (modSched_inner _ _ fun w => ?_)
  rw [windowBounded_iff] at w ⊢
  exact ⟨w.1, w.2.1, (List.length_filter_le _ _).trans w.2.2⟩

theorem applyLosses_inner (rs : List LossRange) (s : State) : Inner [.chains, .sched] s (applyLosses rs s) :=
  loseEntries_inner _ s

theorem countsAfter_same (c : EntryClass) (p : Path) :
    (countsAfter c p).st = p.st ∧ (countsAfter c p).credit = p.credit ∧ (countsAfter c p).estimate = p.estimate
      ∧ (countsAfter c p).probeRate = p.probeRate ∧ (countsAfter c p).burst = p.burst := by
  unfold countsAfter; cases c <;> exact ⟨rfl, rfl, rfl, rfl, rfl⟩

theorem countsAfter_bounded (c : EntryClass) (p : Path) (h : PathBounded p) : PathBounded (countsAfter c p) := by
  unfold countsAfter; cases c <;> exact h

theorem moveState_inner (l : Fin 6) (c : EntryClass) (s : State) : Inner pathParts s (moveState l c s) := by
  unfold moveState
  dsimp only
  have h := fun f => (modPath_inner s l f).widen (ps := pathParts)
  exact .ite (.ite ((h _).andThen (enterPath_inner ..)) (.ite ((h _).andThen (enterPath_inner ..)) (.refl _ s)))
    (.ite ((h _).andThen (enterPath_inner ..)) (.ite ((h _).andThen (enterPath_inner ..)) (h _)))

theorem moveState_bounded (l : Fin 6) (c : EntryClass) (s : State) (h : PathsBounded s)
    (hs : (s.path l).st = .up ∨ (s.path l).st = .degraded) : PathsBounded (moveState l c s) := by
  unfold moveState
  dsimp only
  have hm : ∀ g b, PathsBounded (s.modPath l fun p => { p with good := g, bad := b }) := fun g b =>
    modPath_bounded s l _ h (h l)
  split
  · rename_i hu
    have hu' : (s.path l).st = .up := by simpa using hu
    split
    · exact enterPath_bounded l _ _ _ (hm 0 1) (by simp [hu'])
    · split
      · exact enterPath_bounded l _ _ _ (hm 0 0) (by simp [hu'])
      · exact h
  · rename_i hu
    have hd : (s.path l).st = .degraded := by
      rcases hs with hs | hs
      · simp [hs] at hu
      · exact hs
    have hq := countsAfter_bounded c (s.path l) (h l)
    have hst := (countsAfter_same c (s.path l)).1
    split
    · refine enterPath_bounded l _ _ _ (modPath_bounded s l _ h ?_) ?_
      · exact hq
      · simp [hst, hd]
    · split
      · exact enterPath_bounded l _ _ _ (modPath_bounded s l _ h hq) (Or.inr (Or.inl rfl))
      · exact modPath_bounded s l _ h hq

theorem estimateAfter_st (c : EntryClass) (p : Path) : (estimateAfter c p).st = p.st := by
  unfold estimateAfter; cases c <;> rfl

theorem carries_of_st (p : Path) (hs : p.st = .up ∨ p.st = .degraded) : carries p = true := by
  unfold carries; rcases hs with hs | hs <;> rw [hs] <;> rfl

theorem estimateAfter_bounded (c : EntryClass) (p : Path) (h : PathBounded p)
    (hs : p.st = .up ∨ p.st = .degraded) : PathBounded (estimateAfter c p) := by
  have hc : carries p = true := carries_of_st p hs
  have fall : PathBounded (capCredit { p with
      estimate := max 64 (p.estimate - p.estimate / 4), badReports := incSat16 p.badReports }) :=
    capCredit_bounded _ (max_le h.2.2.1 ((Nat.sub_le _ _).trans h.2.1)) h.2.2.1 fun e => by
      have : carries p = false := e
      rw [hc] at this; cases this
  unfold estimateAfter
  cases c
  · exact fall
  · exact h
  · exact fall
  · refine ⟨h.1.trans ?_, Nat.min_le_left _ _, h.2.2.1, fun e => ?_⟩
    · have := h.2.1
      rcases hs with hs | hs <;> simp only [creditCap, pathRate, hs] <;>
        exact Nat.mul_le_mul_right _ (by omega)
    · have : carries p = false := e
      rw [hc] at this; cases this
  · exact h

theorem takeEntry_inner (l : Fin 6) (e : PathEntry) (s : State) : Inner pathParts s (takeEntry l e s) := by
  unfold takeEntry
  dsimp only
  have h1 := Inner.ite (c := inService (s.path l) = true)
    ((modPath_inner s l fun p => { p with silence := 0 }).widen (ps := pathParts)) (.refl _ s)
  split
  · exact .refl _ s
  · exact .refl _ s
  · exact .ite (h1.andThen (answerProbe_inner l _)) h1
  · exact (h1.andThen (modPath_inner _ l _)).andThen (moveState_inner l _ _)
  · exact (h1.andThen (modPath_inner _ l _)).andThen (moveState_inner l _ _)

theorem takeEntry_bounded (l : Fin 6) (e : PathEntry) (s : State) (h : PathsBounded s) :
    PathsBounded (takeEntry l e s) := by
  unfold takeEntry
  dsimp only
  have h1 : PathsBounded (if inService (s.path l) then s.modPath l fun p => { p with silence := 0 } else s)
      ∧ ((if inService (s.path l) then s.modPath l fun p => { p with silence := 0 } else s).path l).st = (s.path l).st := by
    split
    · exact ⟨modPath_bounded s l _ h (h l), by rw [modPath_path, if_pos rfl]⟩
    · exact ⟨h, rfl⟩
  generalize (if inService (s.path l) then s.modPath l fun p => { p with silence := 0 } else s) = u at h1
  have up : ∀ c, (s.path l).st = .up ∨ (s.path l).st = .degraded →
      PathsBounded (moveState l c (u.modPath l (estimateAfter c))) := fun c hs => by
    rw [← h1.2] at hs
    refine moveState_bounded l c _ (modPath_bounded u l _ h1.1 (estimateAfter_bounded c _ (h1.1 l) hs)) ?_
    rw [modPath_path, if_pos rfl, estimateAfter_st]; exact hs
  split
  · exact h
  · exact h
  · split
    · exact answerProbe_bounded l _ h1.1
    · exact h1.1
  · rename_i e; exact up _ (Or.inl e)
  · rename_i e; exact up _ (Or.inr e)

theorem applyEntries_inner (es : List PathEntry) (s : State) : Inner (.uplink :: pathParts) s (applyEntries es s) := by
  unfold applyEntries
  refine ((modUplink_inner s _).widen).andThen (Inner.eachPath (ps := pathParts) _ (fun l t => ?_) _)
  split
  · exact takeEntry_inner ..
  · exact .refl _ t

theorem applyEntries_bounded (es : List PathEntry) (s : State) (h : PathsBounded s) :
    PathsBounded (applyEntries es s) := by
  unfold applyEntries
  refine eachPath_bounded _ (fun l t c => ?_) _ ((modUplink_inner s _).bounded h)
  split
  · exact takeEntry_bounded l _ t c
  · exact c

/-- The parts that a report may change. -/
abbrev reportParts : List Part :=
  [.uplink, .paths, .chains, .sched, .link, .alloc, .clips, .store, .lives, .progs]

theorem acceptReport_inner (r : Report) (s : State) : Inner reportParts s (acceptReport r s) := by
  unfold acceptReport
  dsimp only
  refine Inner.andThen ?_ (settle_inner _)
  refine Inner.andThen ?_ (Inner.foldl (ps := [.clips, .link]) _ (fun t (q : ClipRequest) => homeRequest_inner q.clip q.creation t) _ _)
  refine Inner.andThen ?_ (Inner.eachPath (ps := [.paths]) _ (fun l t => modPath_inner t l _) _)
  refine Inner.andThen ?_ (applyEntries_inner _ _)
  refine Inner.andThen ?_ (settleShip_inner _)
  refine Inner.andThen ?_ (applyLosses_inner _ _)
  refine Inner.andThen ?_ (applyAck_inner _ _)
  exact (modUplink_inner s _).widen

theorem acceptReport_bounded (r : Report) (s : State) (h : PathsBounded s) : PathsBounded (acceptReport r s) := by
  unfold acceptReport
  dsimp only
  refine settle_bounded _ ?_
  refine (Inner.foldl (ps := [.clips, .link]) _ (fun t (q : ClipRequest) => homeRequest_inner q.clip q.creation t) _ _).bounded ?_
  refine eachPath_bounded _ (fun l t c => modPath_bounded t l restartInterval c (c l)) _ ?_
  refine applyEntries_bounded _ _ ((settleShip_inner _).bounded ((applyLosses_inner _ _).bounded ?_))
  exact (applyAck_inner _ _).bounded ((modUplink_inner s _).bounded h)

theorem takeFrame_inner (l : Fin 6) (f : List Byte) (s : State) : Inner reportParts s (takeFrame l f s) := by
  unfold takeFrame
  refine .ite (.refl _ s) ?_
  split
  · exact (modPath_inner s l _).widen
  · exact .ite (acceptReport_inner _ s) (modUplink_inner s _).widen

theorem takeFrame_bounded (l : Fin 6) (f : List Byte) (s : State) (h : PathsBounded s) :
    PathsBounded (takeFrame l f s) := by
  unfold takeFrame
  split
  · exact h
  · split
    · exact modPath_bounded s l _ h (h l)
    · split
      · exact acceptReport_bounded _ s h
      · exact (modUplink_inner s _).bounded h

/-! ### Picture ticks and the paths -/

theorem pictureTick_bounded (time : Nat) (s : State) (h : PathsBounded s) : PathsBounded (pictureTick time s) := by
  unfold pictureTick pictureTickWith
  dsimp only
  refine endEvent_bounded s _ ?_
  refine (Inner.eachProgram (ps := [.lives, .chains]) _ tickStale_inner _).bounded ?_
  have h1 := (tickTimebase_inner time s).bounded h
  have h2 : ∀ u, PathsBounded u → ∀ b : Bool, PathsBounded (if b then retentionTick u else u) := fun u hu b =>
    (Inner.ite (retentionTick_inner u) (.refl _ u)).bounded hu
  have h2' : ∀ u, PathsBounded u → ∀ b : Bool, PathsBounded (if b then u else retentionTick u) := fun u hu b =>
    (Inner.ite (.refl _ u) (retentionTick_inner u)).bounded hu
  refine h2' _ ((modMixer_inner _ _).bounded ?_) _
  refine (Inner.eachProgram (ps := [.slots]) _ (fun i t => modSlot_inner t i releaseSlot) _).bounded ?_
  refine (Inner.eachProgram (ps := releaseParts) _ releaseProgram_inner _).bounded ?_
  refine (Inner.eachProgram (ps := periodParts) _ (fun p t => endPeriod_inner p _ t) _).bounded ?_
  exact h2 _ ((Inner.eachProgram (ps := [.ports, .link]) _ portTick_inner _).bounded h1) _

theorem takePulse_bounded (s : State) (h : PathsBounded s) : PathsBounded (takePulse s) := by
  unfold takePulse
  dsimp only
  split
  · exact (referenceBack_inner _ _).bounded (pictureTick_bounded _ _ ((modTb_inner s _).bounded h))
  · exact (referenceBack_inner _ _).bounded ((modTb_inner s _).bounded h)

theorem takeDueTick_bounded (s : State) (h : PathsBounded s) : PathsBounded (takeDueTick s) := by
  unfold takeDueTick
  split
  · exact h
  · exact pictureTick_bounded _ _ ((modTb_inner s _).bounded h)

theorem takeLossExpiry_bounded (s : State) (h : PathsBounded s) : PathsBounded (takeLossExpiry s) := by
  unfold takeLossExpiry
  split
  · exact pictureTick_bounded _ _ ((raise_flags _ _ _).bounded ((modTb_inner s _).bounded h))
  · exact h

/-! ### Requests (R203) -/

/-- The parts that a request may change, with what SUBSCRIBE and STATUS do to the flags and START to the programs. -/
abbrev requestParts : List Part :=
  [.tb, .progs, .ports, .intakes, .coders, .loops, .tables, .alloc, .slots, .mixer, .framers, .store, .chains, .mem,
    .paths, .uplink, .sched, .lives, .clips, .lines, .link, .flags, .arming]

/-- A request that is checked first: refused, it keeps everything. -/
theorem checked_inner {ps : List Part} (cs : List Bool) (s : State) (act : Answer × State) (h : Inner ps s act.2) :
    Inner ps s (checked cs s act).2 := by
  unfold checked; split
  · exact .refl _ s
  · exact h

theorem checked_bounded (cs : List Bool) (s : State) (act : Answer × State) (h : PathsBounded s)
    (k : PathsBounded act.2) : PathsBounded (checked cs s act).2 := by
  unfold checked; split
  · exact h
  · exact k

theorem configured_inner {ps : List Part} (p : Nat) (s : State) (act : Answer × State) (h : Inner ps s act.2) :
    Inner ps s (configured p s act).2 := by
  unfold configured; split
  · exact h
  · exact .refl _ s

theorem modRecord_inner (p : Fin 4) (f : ProgramRecord → ProgramRecord) (s : State) :
    Inner [.progs] s (modRecord p f s) := modProg_inner' s p _

theorem modBus_inner (k : Fin 8) (f : Bus → Bus) (s : State) : Inner [.mixer] s (modBus k f s) := modMixer_inner s _

theorem applyReserve_inner (s : State) : Inner [.clips, .sched, .chains, .store, .link] s (applyReserve s) :=
  .ite (((setPressure_inner none s).widen).andThen (yieldRequest_inner _)) (clearPressure_inner s).widen

theorem overdueTick_inner (s : State) : Inner tickParts s (overdueTick s) := by
  unfold overdueTick
  split
  · exact .refl _ s
  · exact .ite (takeDueTick_inner s) (.refl _ s)

theorem overdueTick_bounded (s : State) (h : PathsBounded s) : PathsBounded (overdueTick s) := by
  unfold overdueTick
  split
  · exact h
  · split
    · exact takeDueTick_bounded s h
    · exact h

theorem armAll_inner (ps : List (Fin 4)) (s : State) : Inner [.arming, .progs] s (armAll ps s) := by
  unfold armAll
  exact Inner.foldl _ (fun t p => modProg_arming t p _) _ s

theorem restartPrograms_inner (s : State) : Inner (.mixer :: idleParts) s (restartPrograms s) := by
  unfold restartPrograms
  dsimp only
  refine Inner.andThen ?_ (modMixer_inner _ _)
  refine Inner.andThen ?_ (Inner.eachProgram (ps := [.progs, .coders, .intakes]) _ (fun p t =>
    (((modProg_inner' t p _).widen).andThen (modCoder_inner _ p _)).andThen (modIntake_inner _ p _)) _)
  exact (Inner.eachProgram (ps := idleParts) _ (fun p t =>
    (takeToIdle_inner p .restarted t).andThen (modProg_inner' _ p fun g =>
      { g with writingEnded := (t.prog p).st != .idle || g.writingEnded })) s).widen

theorem restartScheduler_inner (s : State) : Inner [.sched, .lives] s (restartScheduler s) := by
  unfold restartScheduler
  refine ((modSched_inner s _ fun _ => ?_).widen).andThen
    (Inner.eachProgram (ps := [.lives]) _ (fun p t => modLive_inner t p _) _)
  rw [windowBounded_iff]
  simp

theorem restartStore_inner (s : State) : Inner [.chains, .store] s (restartStore s) := by
  unfold restartStore
  exact (((Inner.eachProgram (ps := [.chains]) _ (fun p t => modChain_inner t p _ fun c => by
    simp [Function.comp_def]) s).widen).andThen (freeZero_inner _)).andThen (clearPressure_inner _)

theorem restartClips_inner (s : State) : Inner [.clips, .sched, .link] s (restartClips s) := by
  unfold restartClips
  dsimp only
  refine Inner.andThen ?_ (settleShip_inner _)
  refine Inner.andThen (qs := [.clips, .sched]) ?_ (Inner.foldl (ps := [.clips, .sched]) _ (fun t (x : Nat × Clip) =>
    ((modClip_inner x.1 _ t).widen).andThen (addLabel_inner x.1 _)) _ _)
  split
  · exact ((modClip_inner _ _ s).andThen (modClips_inner _ _)).widen
  · exact .refl _ s

theorem restartPaths_inner (s : State) : Inner [.paths] s (restartPaths s) :=
  .eachPath _ (fun l t => modPath_inner t l _) s

theorem restartPaths_bounded (s : State) (h : PathsBounded s) : PathsBounded (restartPaths s) :=
  eachPath_bounded _ (fun l t c => modPath_bounded t l (fun p => { restartInterval p with credit := 0, good := 0, bad := 0 })
    c ⟨Nat.zero_le _, (c l).2⟩) s h

theorem restartAllocator_inner (s : State) : Inner [.alloc, .sched, .link] s (restartAllocator s) :=
  ((modAlloc_inner s _).widen).andThen (runAllocator_inner _ _)

/-- The parts that RESTART may change. -/
abbrev restartParts : List Part :=
  [.mixer, .coders, .intakes, .framers, .chains, .lives, .progs, .link, .clips, .sched, .store, .paths, .alloc]

theorem restartAll_inner (s : State) : Inner restartParts s (restartAll s) := by
  unfold restartAll
  refine Inner.andThen ?_ (endEvent_inner s _)
  refine Inner.andThen ?_ (restartAllocator_inner _)
  refine Inner.andThen ?_ (restartPaths_inner _)
  refine Inner.andThen ?_ (restartClips_inner _)
  refine Inner.andThen ?_ (restartStore_inner _)
  refine Inner.andThen ?_ (restartScheduler_inner _)
  exact (restartPrograms_inner s).widen

theorem restartAll_bounded (s : State) (h : PathsBounded s) : PathsBounded (restartAll s) := by
  unfold restartAll
  refine endEvent_bounded s _ ((restartAllocator_inner _).bounded (restartPaths_bounded _ ?_))
  refine (restartClips_inner _).bounded ((restartStore_inner _).bounded ((restartScheduler_inner _).bounded ?_))
  exact (restartPrograms_inner s).bounded h

theorem shipClip_inner (clip : Nat) (k : Clip) (s : State) : Inner settleParts s (shipClip clip k s).2 := by
  have h := (((queueShip_inner clip s).widen (ps := settleParts)).andThen (modClips_inner _ fun l =>
    { l with shipQueued := incWrap32 l.shipQueued })).andThen (settle_inner _)
  unfold shipClip
  dsimp only
  split <;> dsimp only
  · exact .refl _ s
  · exact (modClip_inner _ _ s).widen
  · exact h
  · exact .refl _ s
  · exact .refl _ s
  · exact h

theorem cancelClip_inner (clip : Nat) (k : Clip) (s : State) : Inner settleParts s (cancelClip clip k s).2 := by
  unfold cancelClip
  dsimp only
  split <;> dsimp only
  · exact .refl _ s
  · exact (modClip_inner _ _ s).widen
  · exact .refl _ s
  · exact ((modClip_inner _ _ s).widen).andThen (modClips_inner _ _)
  · refine Inner.andThen ?_ (settle_inner _)
    exact (((withdrawCursor_inner _ s).widen).andThen (dropClip_inner _ _ _)).andThen (modClip_inner _ _ _)
  · exact .refl _ s

theorem reqSetStation_inner (rate drop : Nat) (s : State) :
    Inner tickParts s (reqSetStation rate drop s).2 := by
  unfold reqSetStation
  refine checked_inner _ s _ ?_
  split <;> dsimp only
  · exact .refl _ s
  · exact ((modTb_inner s _).widen).andThen (overdueTick_inner _)

theorem reqSetTimecode_inner (c : Timecode) (s : State) :
    Inner [.tb] s (reqSetTimecode c s).2 := by
  unfold reqSetTimecode
  refine checked_inner _ s _ ?_
  dsimp only
  exact modTb_inner s _

theorem reqReadTimebase_inner (s : State) :
    Inner [] s (reqReadTimebase s).2 := by
  exact .refl _ s

theorem reqConfigureProgram_inner (program : Nat) (r : ProgramRecord) (s : State) :
    Inner [.progs] s (reqConfigureProgram program r s).2 := by
  unfold reqConfigureProgram
  refine checked_inner _ s _ ?_
  dsimp only
  split <;> dsimp only
  · exact modProg_inner' s _ _
  · exact .refl _ s

theorem reqSetRateLimits_inner (program minRate maxRate weight : Nat) (s : State) :
    Inner [.progs, .alloc, .sched, .link] s (reqSetRateLimits program minRate maxRate weight s).2 := by
  unfold reqSetRateLimits
  refine checked_inner _ s _ ?_
  exact configured_inner _ s _ (((modRecord_inner _ _ s).widen).andThen (runAllocator_inner _ _))

theorem reqStart_inner (mask : Nat) (s : State) :
    Inner [.arming, .progs] s (reqStart mask s).2 := by
  unfold reqStart
  refine checked_inner _ s _ ?_
  split <;> dsimp only
  · exact .refl _ s
  · exact armAll_inner _ s

theorem reqStop_inner (program : Nat) (s : State) :
    Inner [.progs, .link, .clips, .sched, .chains, .alloc] s (reqStop program s).2 := by
  unfold reqStop
  refine checked_inner _ s _ ?_
  exact stopProgram_inner _ s

theorem reqAbort_inner (program : Nat) (s : State) :
    Inner (.store :: .paths :: .alloc :: idleParts) s (reqAbort program s).2 := by
  unfold reqAbort
  refine checked_inner _ s _ ?_
  dsimp only
  exact .ite (.refl _ s) (((abortProgram_inner _ s).widen).andThen (settle_inner _))

theorem reqProgramStatus_inner (program : Nat) (s : State) :
    Inner [] s (reqProgramStatus program s).2 := by
  unfold reqProgramStatus
  refine checked_inner _ s _ ?_
  exact .refl _ s

theorem reqSetSlate_inner (program y cb cr hold : Nat) (s : State) :
    Inner [.progs] s (reqSetSlate program y cb cr hold s).2 := by
  unfold reqSetSlate
  refine checked_inner _ s _ ?_
  exact configured_inner _ s _ (modRecord_inner _ _ s)

theorem reqReadPicturePort_inner (port : Nat) (s : State) :
    Inner [] s (reqReadPicturePort port s).2 := by
  unfold reqReadPicturePort
  refine checked_inner _ s _ ?_
  exact .refl _ s

theorem reqLoadTable_inner (table : Nat) (entries : List CodeEntry) (s : State) :
    Inner [.tables] s (reqLoadTable table entries s).2 := by
  unfold reqLoadTable
  split
  · dsimp only
    split
    · exact .refl _ s
    · split <;> dsimp only
      · exact .refl _ s
      · exact modTable_inner s _ _
  · exact .refl _ s

theorem reqSelectTable_inner (program table : Nat) (s : State) :
    Inner [.progs] s (reqSelectTable program table s).2 := by
  unfold reqSelectTable
  refine checked_inner _ s _ ?_
  refine configured_inner _ s _ ?_
  split
  · exact .refl _ s
  · split <;> dsimp only
    · exact modRecord_inner _ _ s
    · exact .refl _ s

theorem reqReadTable_inner (table : Nat) (s : State) :
    Inner [] s (reqReadTable table s).2 := by
  unfold reqReadTable
  refine checked_inner _ s _ ?_
  exact .refl _ s

theorem reqReadBudget_inner (s : State) :
    Inner [] s (reqReadBudget s).2 := by
  exact .refl _ s

theorem reqConfigureSlotPort_inner (port count : Nat) (s : State) :
    Inner [.slots] s (reqConfigureSlotPort port count s).2 := by
  unfold reqConfigureSlotPort
  refine checked_inner _ s _ ?_
  dsimp only
  split <;> dsimp only
  · exact modSlot_inner s _ _
  · exact .refl _ s

theorem reqEnableSlotPort_inner (port : Nat) (s : State) :
    Inner [.slots] s (reqEnableSlotPort port s).2 := by
  unfold reqEnableSlotPort
  refine checked_inner _ s _ ?_
  dsimp only
  exact modSlot_inner s _ _

theorem reqDisableSlotPort_inner (port : Nat) (s : State) :
    Inner [.slots] s (reqDisableSlotPort port s).2 := by
  unfold reqDisableSlotPort
  refine checked_inner _ s _ ?_
  dsimp only
  exact modSlot_inner s _ _

theorem reqReadSlotPort_inner (port : Nat) (s : State) :
    Inner [] s (reqReadSlotPort port s).2 := by
  unfold reqReadSlotPort
  refine checked_inner _ s _ ?_
  exact .refl _ s

theorem reqBindInput_inner (input : Nat) (binding : Option (Nat × Nat)) (s : State) :
    Inner [.mixer] s (reqBindInput input binding s).2 := by
  unfold reqBindInput
  refine checked_inner _ s _ ?_
  dsimp only
  exact modMixer_inner s _

theorem reqSetGain_inner (input bus gain ramp : Nat) (s : State) :
    Inner [.mixer] s (reqSetGain input bus gain ramp s).2 := by
  unfold reqSetGain
  refine checked_inner _ s _ ?_
  dsimp only
  exact modBus_inner _ _ s

theorem reqSetBus_inner (bus delay seed : Nat) (s : State) :
    Inner [.mixer] s (reqSetBus bus delay seed s).2 := by
  unfold reqSetBus
  refine checked_inner _ s _ ?_
  dsimp only
  exact modBus_inner _ _ s

theorem reqSetMonitor_inner (left right : Nat) (s : State) :
    Inner [.mixer] s (reqSetMonitor left right s).2 := by
  unfold reqSetMonitor
  refine checked_inner _ s _ ?_
  dsimp only
  exact modMixer_inner s _

theorem reqReadMixer_inner (bus clear : Nat) (s : State) :
    Inner [.mixer] s (reqReadMixer bus clear s).2 := by
  unfold reqReadMixer
  refine checked_inner _ s _ ?_
  dsimp only
  exact .ite (modBus_inner _ _ s) (.refl _ s)

theorem reqSetRetention_inner (program retention : Nat) (s : State) :
    Inner [.progs] s (reqSetRetention program retention s).2 := by
  unfold reqSetRetention
  refine checked_inner _ s _ ?_
  exact configured_inner _ s _ (modRecord_inner _ _ s)

theorem reqSetReserve_inner (reserve : Nat) (s : State) :
    Inner [.clips, .sched, .chains, .store, .link] s (reqSetReserve reserve s).2 := by
  unfold reqSetReserve
  refine checked_inner _ s _ ?_
  dsimp only
  exact ((modStore_inner s _).widen).andThen (applyReserve_inner _)

theorem reqReadStore_inner (s : State) :
    Inner [] s (reqReadStore s).2 := by
  exact .refl _ s

theorem reqReadSegment_inner (segment position : Nat) (s : State) :
    Inner [] s (reqReadSegment segment position s).2 := by
  unfold reqReadSegment
  refine checked_inner _ s _ ?_
  exact .refl _ s

theorem reqReadChain_inner (program position : Nat) (s : State) :
    Inner [] s (reqReadChain program position s).2 := by
  unfold reqReadChain
  refine checked_inner _ s _ ?_
  exact .refl _ s

theorem reqConfigurePath_inner (path ceiling initial burst repairShare probeRate : Nat) (s : State) :
    Inner [.paths] s (reqConfigurePath path ceiling initial burst repairShare probeRate s).2 := by
  unfold reqConfigurePath
  split <;> dsimp only
  · exact .refl _ s
  · exact modPath_inner s _ _

theorem reqEnablePath_inner (path : Nat) (s : State) :
    Inner pathParts s (reqEnablePath path s).2 := by
  unfold reqEnablePath
  refine checked_inner _ s _ ?_
  dsimp only
  exact enablePath_inner _ s

theorem reqDisablePath_inner (path : Nat) (s : State) :
    Inner (.alloc :: settleParts) s (reqDisablePath path s).2 := by
  unfold reqDisablePath
  refine checked_inner _ s _ ?_
  dsimp only
  exact .ite (.refl _ s) (((disablePath_inner _ s).widen).andThen (settle_inner _))

theorem reqSetUplink_inner (headroom labelReserve clipFloor silence threshold forget : Nat) (s : State) :
    Inner [.alloc, .uplink, .sched, .link] s (reqSetUplink headroom labelReserve clipFloor silence threshold forget s).2 := by
  unfold reqSetUplink
  refine checked_inner _ s _ ?_
  dsimp only
  exact (((modAlloc_inner s _).widen).andThen (modUplink_inner _ _)).andThen (runAllocator_inner _ _)

theorem reqReadPath_inner (path : Nat) (s : State) :
    Inner [] s (reqReadPath path s).2 := by
  unfold reqReadPath
  refine checked_inner _ s _ ?_
  exact .refl _ s

theorem reqReadUplink_inner (s : State) :
    Inner [] s (reqReadUplink s).2 := by
  exact .refl _ s

theorem reqSetDelivery_inner (deadline guardMs : Nat) (s : State) :
    Inner [.sched] s (reqSetDelivery deadline guardMs s).2 := by
  unfold reqSetDelivery
  refine checked_inner _ s _ ?_
  dsimp only
  exact modSched_inner' s _

theorem reqReadWindow_inner (s : State) :
    Inner [] s (reqReadWindow s).2 := by
  exact .refl _ s

theorem reqMarkIn_inner (program selector value yieldable : Nat) (s : State) :
    Inner [.clips, .chains, .link] s (reqMarkIn program selector value yieldable s).2 := by
  unfold reqMarkIn
  refine checked_inner _ s _ ?_
  dsimp only
  split <;> dsimp only
  · exact .refl _ s
  · exact markIn_inner ..

theorem reqMarkOut_inner (program selector value : Nat) (s : State) :
    Inner settleParts s (reqMarkOut program selector value s).2 := by
  unfold reqMarkOut
  refine checked_inner _ s _ ?_
  dsimp only
  split <;> dsimp only
  · exact .refl _ s
  · exact ((markOut_inner ..).widen).andThen (settle_inner _)

theorem reqSetMarkLine_inner (line : Nat) (binding : Option Nat) (preRoll yieldable : Nat) (s : State) :
    Inner [.lines] s (reqSetMarkLine line binding preRoll yieldable s).2 := by
  unfold reqSetMarkLine
  refine checked_inner _ s _ ?_
  dsimp only
  exact modLine_inner s _ _

theorem reqSetLabel_inner (clip : Nat) (text tags : List Byte) (rating yieldable : Nat) (s : State) :
    Inner settleParts s (reqSetLabel clip text tags rating yieldable s).2 := by
  unfold reqSetLabel
  refine checked_inner _ s _ ?_
  split
  · exact .refl _ s
  · dsimp only
    have h := fun c f => (modClip_inner c f s).widen (ps := settleParts)
    exact .ite (h _ _) (((h _ _).andThen (addLabel_inner _ _)).andThen (settle_inner _))

theorem reqShip_inner (clip : Nat) (s : State) :
    Inner settleParts s (reqShip clip s).2 := by
  unfold reqShip
  refine checked_inner _ s _ ?_
  split
  · exact .refl _ s
  · exact shipClip_inner _ _ s

theorem reqCancelShip_inner (clip : Nat) (s : State) :
    Inner settleParts s (reqCancelShip clip s).2 := by
  unfold reqCancelShip
  refine checked_inner _ s _ ?_
  split
  · exact .refl _ s
  · exact cancelClip_inner _ _ s

theorem reqRelease_inner (clip : Nat) (s : State) :
    Inner settleParts s (reqRelease clip s).2 := by
  unfold reqRelease
  refine checked_inner _ s _ ?_
  split <;> dsimp only
  · exact .refl _ s
  · refine Inner.andThen ?_ (settle_inner _)
    exact (releaseClip_inner _ s).widen

theorem reqReadClip_inner (clip : Nat) (s : State) :
    Inner [] s (reqReadClip clip s).2 := by
  unfold reqReadClip
  refine checked_inner _ s _ ?_
  exact .refl _ s

theorem reqListClips_inner (s : State) :
    Inner [] s (reqListClips s).2 := by
  exact .refl _ s

theorem reqStatus_inner (mask : Nat) (s : State) :
    Inner [.flags, .link] s (reqStatus mask s).2 := by
  unfold reqStatus
  refine checked_inner _ s _ ?_
  dsimp only
  exact modLink_flags s _ ⟨rfl, rfl, rfl, rfl, rfl, rfl, rfl, rfl, rfl, fun h => h⟩

theorem reqSubscribe_inner (mask : Nat) (s : State) :
    Inner [.flags, .link] s (reqSubscribe mask s).2 := by
  unfold reqSubscribe
  refine checked_inner _ s _ ?_
  dsimp only
  exact (modLink_flags s _ ⟨rfl, rfl, rfl, rfl, rfl, rfl, rfl, rfl, rfl, fun h => h⟩).andThen
    (noticeLostTest_inner _)

theorem reqIdentify_inner (s : State) :
    Inner [] s (reqIdentify s).2 := by
  exact .refl _ s

theorem reqRestart_inner (s : State) :
    Inner restartParts s (reqRestart s).2 := by
  unfold reqRestart
  dsimp only
  exact restartAll_inner s

/-- Every part but the queue of commands, and so every list that a request may change, is in `requestParts`. -/
theorem requestParts_all (p : Part) (h : p ≠ .pending ∧ p ≠ .overfull) : p ∈ requestParts := by
  cases p <;> simp at h ⊢

theorem widen_request {ps : List Part} {s t : State} (k : Inner ps s t)
    (h : Part.pending ∉ ps := by decide) (h' : Part.overfull ∉ ps := by decide) : Inner requestParts s t :=
  k.widen fun p hp => requestParts_all p ⟨fun e => h (e ▸ hp), fun e => h' (e ▸ hp)⟩

/-- What a request keeps. -/
theorem perform_inner (r : Request) (s : State) : Inner requestParts s (perform r s).2 := by
  cases r
  case unknownKind => exact .refl _ s
  case badLength => exact .refl _ s
  case setStation => exact widen_request (reqSetStation_inner ..)
  case setTimecode => exact widen_request (reqSetTimecode_inner ..)
  case readTimebase => exact widen_request (reqReadTimebase_inner s)
  case configureProgram => exact widen_request (reqConfigureProgram_inner ..)
  case setRateLimits => exact widen_request (reqSetRateLimits_inner ..)
  case start => exact widen_request (reqStart_inner ..)
  case stop => exact widen_request (reqStop_inner ..)
  case abort => exact widen_request (reqAbort_inner ..)
  case programStatus => exact widen_request (reqProgramStatus_inner ..)
  case setSlate => exact widen_request (reqSetSlate_inner ..)
  case readPicturePort => exact widen_request (reqReadPicturePort_inner ..)
  case loadTable => exact widen_request (reqLoadTable_inner ..)
  case selectTable => exact widen_request (reqSelectTable_inner ..)
  case readTable => exact widen_request (reqReadTable_inner ..)
  case readBudget => exact widen_request (reqReadBudget_inner s)
  case configureSlotPort => exact widen_request (reqConfigureSlotPort_inner ..)
  case enableSlotPort => exact widen_request (reqEnableSlotPort_inner ..)
  case disableSlotPort => exact widen_request (reqDisableSlotPort_inner ..)
  case readSlotPort => exact widen_request (reqReadSlotPort_inner ..)
  case bindInput => exact widen_request (reqBindInput_inner ..)
  case setGain => exact widen_request (reqSetGain_inner ..)
  case setBus => exact widen_request (reqSetBus_inner ..)
  case setMonitor => exact widen_request (reqSetMonitor_inner ..)
  case readMixer => exact widen_request (reqReadMixer_inner ..)
  case setRetention => exact widen_request (reqSetRetention_inner ..)
  case setReserve => exact widen_request (reqSetReserve_inner ..)
  case readStore => exact widen_request (reqReadStore_inner s)
  case readSegment => exact widen_request (reqReadSegment_inner ..)
  case readChain => exact widen_request (reqReadChain_inner ..)
  case configurePath => exact widen_request (reqConfigurePath_inner ..)
  case enablePath => exact widen_request (reqEnablePath_inner ..)
  case disablePath => exact widen_request (reqDisablePath_inner ..)
  case setUplink => exact widen_request (reqSetUplink_inner ..)
  case readPath => exact widen_request (reqReadPath_inner ..)
  case readUplink => exact widen_request (reqReadUplink_inner s)
  case setDelivery => exact widen_request (reqSetDelivery_inner ..)
  case readWindow => exact widen_request (reqReadWindow_inner s)
  case markIn => exact widen_request (reqMarkIn_inner ..)
  case markOut => exact widen_request (reqMarkOut_inner ..)
  case setMarkLine => exact widen_request (reqSetMarkLine_inner ..)
  case setLabel => exact widen_request (reqSetLabel_inner ..)
  case ship => exact widen_request (reqShip_inner ..)
  case cancelShip => exact widen_request (reqCancelShip_inner ..)
  case release => exact widen_request (reqRelease_inner ..)
  case readClip => exact widen_request (reqReadClip_inner ..)
  case listClips => exact widen_request (reqListClips_inner s)
  case status => exact widen_request (reqStatus_inner ..)
  case subscribe => exact widen_request (reqSubscribe_inner ..)
  case identify => exact widen_request (reqIdentify_inner s)
  case restart => unfold perform atOnce; dsimp only; exact widen_request (reqRestart_inner s)

theorem configuredPath_bounded (p : Path) (a b c d e : Nat) (h : PathBounded p) (ha : 64 ≤ a) :
    PathBounded (configuredPath a b c d e p) := by
  unfold configuredPath
  refine capCredit_bounded _ ?_ ha fun hc => ?_
  · dsimp only
    split
    · exact Nat.min_le_right _ _
    · rename_i hn; rw [h.2.2.2 (by simpa using hn)]; exact Nat.zero_le _
  · have hp : carries p = false := hc
    dsimp only
    rw [if_neg (by simp [hp])]
    exact h.2.2.2 hp

/-- What a request keeps of the paths' bounds. -/
theorem perform_bounded (r : Request) (s : State) (h : PathsBounded s) : PathsBounded (perform r s).2 := by
  cases r
  case setStation =>
    refine checked_bounded _ s _ h ?_
    split
    · exact h
    · exact overdueTick_bounded _ ((modTb_inner s _).bounded h)
  case configurePath =>
    unfold perform atOnce reqConfigurePath
    dsimp only
    split <;> try dsimp only
    · exact h
    · rename_i e
      refine modPath_bounded s _ _ h (configuredPath_bounded _ _ _ _ _ _ (h _) ?_)
      unfold pathOffence at e
      split at e
      · cases e
      · rename_i e'
        simp [offending, inRange, List.findIdx?_eq_none_iff] at e'
        omega
  case enablePath => exact checked_bounded _ s _ h (enablePath_bounded _ s h)
  case disablePath =>
    refine checked_bounded _ s _ h ?_
    dsimp only
    split <;> try dsimp only
    · exact h
    · exact settle_bounded _ (disablePath_bounded _ s h)
  case abort =>
    refine checked_bounded _ s _ h ?_
    dsimp only
    split <;> try dsimp only
    · exact h
    · exact settle_bounded _ ((abortProgram_inner _ s).bounded h)
  case markOut =>
    refine checked_bounded _ s _ h ?_
    dsimp only
    split <;> try dsimp only
    · exact h
    · exact settle_bounded _ ((markOut_inner ..).bounded h)
  case setLabel =>
    refine checked_bounded _ s _ h ?_
    split
    · exact h
    · have k := fun c f => (modClip_inner c f s).bounded h
      dsimp only
      split <;> try dsimp only
      · exact k _ _
      · exact settle_bounded _ ((addLabel_inner _ _).bounded (k _ _))
  case ship =>
    refine checked_bounded _ s _ h ?_
    split
    · exact h
    · have k := fun c => settle_bounded _ ((modClips_inner (queueShip c s) fun l =>
        { l with shipQueued := incWrap32 l.shipQueued }).bounded ((queueShip_inner c s).bounded h))
      unfold shipClip
      dsimp only
      split <;> try dsimp only
      · exact h
      · exact (modClip_inner _ _ s).bounded h
      · exact k _
      · exact h
      · exact h
      · exact k _
  case cancelShip =>
    refine checked_bounded _ s _ h ?_
    split
    · exact h
    · unfold cancelClip
      dsimp only
      split <;> try dsimp only
      · exact h
      · exact (modClip_inner _ _ s).bounded h
      · exact h
      · exact (modClips_inner _ _).bounded ((modClip_inner _ _ s).bounded h)
      · exact settle_bounded _ ((modClip_inner _ _ _).bounded ((dropClip_inner _ _ _).bounded
          ((withdrawCursor_inner _ s).bounded h)))
      · exact h
  case release =>
    refine checked_bounded _ s _ h ?_
    split <;> try dsimp only
    · exact h
    · exact settle_bounded _ ((releaseClip_inner _ s).bounded h)
  case restart => unfold perform atOnce reqRestart; dsimp only; exact restartAll_bounded s h
  case unknownKind => exact h
  case badLength => exact h
  case setTimecode => exact (reqSetTimecode_inner ..).bounded h
  case readTimebase => exact (reqReadTimebase_inner s).bounded h
  case configureProgram => exact (reqConfigureProgram_inner ..).bounded h
  case setRateLimits => exact (reqSetRateLimits_inner ..).bounded h
  case start => exact (reqStart_inner ..).bounded h
  case stop => exact (reqStop_inner ..).bounded h
  case programStatus => exact (reqProgramStatus_inner ..).bounded h
  case setSlate => exact (reqSetSlate_inner ..).bounded h
  case readPicturePort => exact (reqReadPicturePort_inner ..).bounded h
  case loadTable => exact (reqLoadTable_inner ..).bounded h
  case selectTable => exact (reqSelectTable_inner ..).bounded h
  case readTable => exact (reqReadTable_inner ..).bounded h
  case readBudget => exact (reqReadBudget_inner s).bounded h
  case configureSlotPort => exact (reqConfigureSlotPort_inner ..).bounded h
  case enableSlotPort => exact (reqEnableSlotPort_inner ..).bounded h
  case disableSlotPort => exact (reqDisableSlotPort_inner ..).bounded h
  case readSlotPort => exact (reqReadSlotPort_inner ..).bounded h
  case bindInput => exact (reqBindInput_inner ..).bounded h
  case setGain => exact (reqSetGain_inner ..).bounded h
  case setBus => exact (reqSetBus_inner ..).bounded h
  case setMonitor => exact (reqSetMonitor_inner ..).bounded h
  case readMixer => exact (reqReadMixer_inner ..).bounded h
  case setRetention => exact (reqSetRetention_inner ..).bounded h
  case setReserve => exact (reqSetReserve_inner ..).bounded h
  case readStore => exact (reqReadStore_inner s).bounded h
  case readSegment => exact (reqReadSegment_inner ..).bounded h
  case readChain => exact (reqReadChain_inner ..).bounded h
  case setUplink => exact (reqSetUplink_inner ..).bounded h
  case readPath => exact (reqReadPath_inner ..).bounded h
  case readUplink => exact (reqReadUplink_inner s).bounded h
  case setDelivery => exact (reqSetDelivery_inner ..).bounded h
  case readWindow => exact (reqReadWindow_inner s).bounded h
  case markIn => exact (reqMarkIn_inner ..).bounded h
  case setMarkLine => exact (reqSetMarkLine_inner ..).bounded h
  case readClip => exact (reqReadClip_inner ..).bounded h
  case listClips => exact (reqListClips_inner s).bounded h
  case status => exact (reqStatus_inner ..).bounded h
  case subscribe => exact (reqSubscribe_inner ..).bounded h
  case identify => exact (reqIdentify_inner s).bounded h

end Sys2Proof.Machine
end

