-- ==== Sys2Proof/Laws/LinkOps.lean ====
section
/-! SUPPORT. The control link: what a request that the processor can take leaves, said once, and what the link's
operations keep. -/

namespace Sys2Proof.Machine

set_option Elab.async false

/-! ### A request that the processor takes at once (R203) -/

/-- The processor carries out the request of a command at once when it is free. -/
theorem submit_free (tag : Byte) (r : Request) (s : State) (h : Free s) : submit tag r s = process ⟨tag, r⟩ s := by
  obtain ⟨h1, h2, h3⟩ := h
  have e : (s.modLink fun l => { l with requests := l.requests ++ [⟨tag, r⟩] }).modLink
      (fun l => { l with requests := [] }) = s := by
    unfold State.modLink
    dsimp only
    rw [← h2]
  unfold submit
  rw [if_pos h1]
  unfold acceptFrame
  rw [if_pos (by rw [h2]; simp [Config.maxRequests])]
  unfold pump
  simp only [modLink_link, h2, List.nil_append, List.length_singleton, pumpN]
  rw [if_pos (by simp [replyRoom, Config.maxReplies, h3])]
  rw [e]

/-- The state that an answered request leaves: its reply joins what carrying it out leaves of the state in which it is
counted. -/
theorem submit_answer (tag : Byte) (r : Request) (s t : State) (a : Answer) (h : Free s)
    (hp : perform r (counted s) = (.answer a, t)) : submit tag r s = replied tag r.kind a t := by
  have e : process ⟨tag, r⟩ s = pushReply (slotOf ⟨tag, r⟩ (perform r (counted s)).1) (perform r (counted s)).2 := rfl
  rw [submit_free tag r s h, e, hp]
  rfl

/-- The same, where the count stands in what the request leaves. -/
theorem submit_answered (tag : Byte) (r : Request) (s t : State) (a : Answer) (h : Free s)
    (hp : perform r (counted s) = (.answer a, counted t)) :
    submit tag r s = answered tag r.kind a.status a.detail a.detail2 a.body t := submit_answer tag r s _ a h hp

/-- A link that is not ready discards a request (R211; log entry 1). -/
theorem submit_not_ready (tag : Byte) (r : Request) (s : State) (h : s.link.ready = false) : submit tag r s = s := by
  unfold submit; rw [h]; rfl

/-! ### What the operations of the link keep -/

/-- What every command keeps: the queue of commands, and every invariant of Safety.lean but the timebase's. -/
structure Keeps (s t : State) : Prop where
  pending : t.pending = s.pending
  canonical : MemoryCanonical s → MemoryCanonical t
  segments : SegmentsConserved s → SegmentsConserved t
  window : WindowBounded s → WindowBounded t
  paths : PathsBounded s → PathsBounded t
  link : LinkBounded s → LinkBounded t

theorem Keeps.refl (s : State) : Keeps s s := ⟨rfl, id, id, id, id, id⟩

theorem Keeps.trans {s t u : State} (h : Keeps s t) (k : Keeps t u) : Keeps s u :=
  ⟨k.pending.trans h.pending, fun c => k.canonical (h.canonical c), fun c => k.segments (h.segments c),
    fun c => k.window (h.window c), fun c => k.paths (h.paths c), fun c => k.link (h.link c)⟩

theorem linkBounded_of_queues {s t : State} (k : LinkQueues s.link t.link) (h : LinkBounded s) : LinkBounded t :=
  ⟨by rw [k.requests]; exact h.1, by rw [k.replies]; exact h.2.1, k.notices h.2.2⟩

/-- An operation inside an event keeps what a command keeps, if the paths keep to their bounds. -/
theorem Inner.keeps {ps : List Part} {s t : State} (k : Inner ps s t) (hp : PathsBounded s → PathsBounded t)
    (h : Part.pending ∉ ps := by decide) (h' : Part.overfull ∉ ps := by decide) : Keeps s t :=
  ⟨k.same .pending h, k.canonical, fun c => k.numbers.trans c, k.window h', hp, linkBounded_of_queues k.queues⟩

theorem perform_keeps (r : Request) (s : State) : Keeps s (perform r s).2 :=
  (perform_inner r s).keeps (perform_bounded r s)

/-- A change of the link alone. -/
theorem modLink_keeps (s : State) (f : Link → Link) (h : LinkBounded s → LinkBounded (s.modLink f)) :
    Keeps s (s.modLink f) := ⟨rfl, id, id, id, id, h⟩

/-- The link's bounds after a change of it. -/
theorem linkBounded_modLink (s : State) (f : Link → Link) : LinkBounded (s.modLink f) ↔
    (f s.link).requests.length ≤ 16 ∧ (f s.link).replies.length ≤ 32 ∧ (f s.link).notices.length ≤ 32 := Iff.rfl

theorem process_keeps (w : Waiting) (s : State) (h : s.link.replies.length < 32) : Keeps s (process w s) := by
  have k := (modLink_keeps s countRequest id).trans (perform_keeps w.req _)
  have q := (perform_inner w.req (s.modLink countRequest)).queues
  refine ⟨k.pending, k.canonical, k.segments, k.window, k.paths, fun c => ⟨(k.link c).1, ?_, (k.link c).2.2⟩⟩
  have e : (process w s).link.replies = (perform w.req (s.modLink countRequest)).2.link.replies
      ++ [slotOf w (perform w.req (s.modLink countRequest)).1] := rfl
  rw [e, List.length_append, q.replies]
  exact Nat.succ_le_of_lt h

theorem pumpN_keeps : ∀ n s, Keeps s (pumpN n s)
  | 0, s => .refl s
  | n + 1, s => by
    unfold pumpN
    split
    · exact .refl s
    · rename_i w rest e
      split
      · rename_i hr
        refine Keeps.trans (t := s.modLink fun l => { l with requests := rest }) ?_ (Keeps.trans (process_keeps w _ ?_)
          (pumpN_keeps n _))
        · refine modLink_keeps s _ fun c => ⟨?_, c.2⟩
          have := c.1
          rw [e, List.length_cons] at this
          simp only [modLink_link]; omega
        · unfold replyRoom at hr; exact of_decide_eq_true hr
      · exact .refl s

theorem pump_keeps (s : State) : Keeps s (pump s) := pumpN_keeps _ s

theorem acceptFrame_keeps (w : Waiting) (s : State) : Keeps s (acceptFrame w s) := by
  unfold acceptFrame
  split
  · rename_i h
    refine Keeps.trans (modLink_keeps s _ fun c => ?_) (pump_keeps _)
    rw [linkBounded_modLink]
    refine ⟨?_, c.2⟩
    simp [Config.maxRequests] at h
    simp only [List.length_append, List.length_singleton]; omega
  · have h1 : Keeps s (s.modLink fun l => { l with queueFull := incWrap32 l.queueFull }) := modLink_keeps s _ id
    dsimp only
    split
    · rename_i h
      refine h1.trans (modLink_keeps _ _ fun c => ?_)
      rw [linkBounded_modLink]
      refine ⟨c.1, ?_, c.2.2⟩
      have h' : s.link.replies.length < 32 := of_decide_eq_true h
      simp only [List.length_append, List.length_singleton, modLink_link]; omega
    · exact h1.trans (modLink_keeps _ _ id)

theorem submit_keeps (tag : Byte) (r : Request) (s : State) : Keeps s (submit tag r s) := by
  unfold submit; split
  · exact acceptFrame_keeps _ s
  · exact .refl s

theorem endTableCheck_keeps (t : Fin 2) (s : State) : Keeps s (endTableCheck t s) := by
  unfold endTableCheck; split
  · refine ((modTable_inner s t endCheck).keeps fun h => h).trans (modLink_keeps _ _ fun c => ?_)
    rw [linkBounded_modLink]
    refine ⟨c.1, ?_, c.2.2⟩
    simp only [fillReserved, List.length_map]
    exact c.2.1
  · exact .refl s

theorem eraseIdx_length_le {α : Type} (l : List α) (i n : Nat) (h : l.length ≤ n) : (l.eraseIdx i).length ≤ n :=
  (List.length_eraseIdx_le l i).trans h

theorem frameDone_keeps (x : Sending) (s : State) : Keeps s (frameDone x s) := by
  unfold frameDone
  split
  · refine Keeps.trans (Keeps.trans (modLink_keeps s _ fun c => ?_)
      ((noticeLostTest_inner _).keeps fun h => (noticeLostTest_inner _).bounded h)) (pump_keeps _)
    exact (linkBounded_modLink ..).mpr ⟨c.1, c.2.1, eraseIdx_length_le _ _ _ c.2.2⟩
  · refine Keeps.trans (modLink_keeps s _ fun c => ?_) (pump_keeps _)
    exact (linkBounded_modLink ..).mpr ⟨c.1, eraseIdx_length_le _ _ _ c.2.1, c.2.2⟩

theorem clockOut_keeps (s : State) : Keeps s (clockOut s) := by
  unfold clockOut; split
  · split
    · exact .refl s
    · split
      · exact frameDone_keeps _ s
      · exact modLink_keeps s _ id
  · exact .refl s

theorem outboundFrameSent_keeps (s : State) : Keeps s (outboundFrameSent s) := by
  unfold outboundFrameSent; split
  · split
    · exact .refl s
    · exact frameDone_keeps _ s
  · exact .refl s

theorem huntByte_queues (a b : Bool) (x : Byte) (l : Link) : (huntByte a b x l).requests = l.requests
    ∧ (huntByte a b x l).replies = l.replies ∧ (huntByte a b x l).notices = l.notices := by
  unfold huntByte; repeat' split
  all_goals exact ⟨rfl, rfl, rfl⟩

theorem takeByte_keeps (b : Byte) (s : State) : Keeps s (takeByte b s) := by
  unfold takeByte
  split
  · rename_i x y _
    obtain ⟨h1, h2, h3⟩ := huntByte_queues x y b s.link
    refine modLink_keeps s _ fun c => ?_
    unfold LinkBounded
    simp only [modLink_link, h1, h2, h3]
    exact c
  · exact modLink_keeps s _ id
  · dsimp only
    split
    · exact modLink_keeps s _ id
    · exact modLink_keeps s _ id
  · split
    · exact modLink_keeps s _ id
    · exact modLink_keeps s _ id
  · exact modLink_keeps s _ id
  · unfold frameTaken
    split
    · split
      · exact (modLink_keeps s _ id).trans (acceptFrame_keeps _ _)
      · exact modLink_keeps s _ id
    · exact modLink_keeps s _ id

theorem exchangeByte_keeps (s : State) (b : Byte) : Keeps s (exchangeByte s b) := by
  unfold exchangeByte; split
  · exact (clockOut_keeps s).trans (takeByte_keeps b _)
  · exact .refl s

theorem exchange_keeps (bytes : List Byte) : ∀ s, Keeps s (exchange bytes s) := by
  unfold exchange
  induction bytes with
  | nil => exact fun s => .refl s
  | cons b bs ih => exact fun s => (exchangeByte_keeps s b).trans (ih _)

end Sys2Proof.Machine
end

