-- ==== Sys2Proof/Laws/CommandOps.lean ====
section
/-! SUPPORT. What the operations that single commands name keep: sound slots and sample ticks, ports that fall idle,
mark lines, and the start of the link. -/

namespace Sys2Proof.Machine

set_option Elab.async false

theorem takeSlot_inner (i : Fin 4) (m : Bool) (x : Sample24) (s : State) :
    Inner [.slots, .link] s (takeSlot i m x s) := ((modSlot_inner s i _).widen).andThen (checkDepth_inner i _)

theorem handFrames_inner (s : State) : Inner [.slots, .link] s (handFrames s) := by
  unfold handFrames
  exact Inner.eachProgram (ps := [.slots, .link]) _ (fun i t =>
    ((modSlot_inner t i _).widen).andThen (checkDepth_inner i _)) s

theorem raiseSaturation_inner (m : Mixer) (o : Vector BusOut 8) (k : Fin 8) (s : State) :
    Inner [.link] s (raiseSaturation m o k s) := .ite (raise_inner .busSaturation _ s) (.refl _ s)

theorem sampleTick_inner (s : State) : Inner [.slots, .link, .mixer, .framers] s (sampleTick s) := by
  unfold sampleTick
  dsimp only
  refine Inner.andThen ?_ (Inner.eachProgram (ps := [.framers]) _ (fun p t => ?_) _)
  · refine Inner.andThen ?_ (Inner.foldl (ps := [.link]) _ (fun t k => raiseSaturation_inner _ _ k t) _ _)
    exact ((handFrames_inner s).widen).andThen (modMixer_inner _ _)
  · split
    · exact modFramer_inner t p _
    · exact .refl _ t

theorem frameSent_inner (l : Fin 6) (s : State) : Inner settleParts s (frameSent l s) := by
  unfold frameSent
  refine .ite (.refl _ s) ?_
  refine Inner.andThen ?_ (settle_inner _)
  exact ((modPath_inner s l _).widen).andThen (letAskPath_inner l _)

theorem frameSent_bounded (l : Fin 6) (s : State) (h : PathsBounded s) : PathsBounded (frameSent l s) := by
  unfold frameSent; split
  · exact h
  · exact settle_bounded _ ((letAskPath_inner l _).bounded (modPath_bounded s l _ h (h l)))

theorem actOnPress_inner (m : Fin 2) (p : Fin 4) (s : State) : Inner (.lines :: settleParts) s (actOnPress m p s) := by
  unfold actOnPress
  split
  · refine Inner.andThen ?_ (settle_inner _)
    exact (markOut_inner ..).widen
  · split
    · exact (modLine_inner s m _).widen
    · exact (markIn_inner ..).widen

theorem actOnPress_bounded (m : Fin 2) (p : Fin 4) (s : State) (h : PathsBounded s) :
    PathsBounded (actOnPress m p s) := by
  unfold actOnPress
  split
  · exact settle_bounded _ ((markOut_inner ..).bounded h)
  · split
    · exact (modLine_inner s m _).bounded h
    · exact (markIn_inner ..).bounded h

theorem takePress_inner (m : Fin 2) (s : State) : Inner (.lines :: settleParts) s (takePress m s) := by
  unfold takePress
  split
  · exact (modLine_inner s m _).widen
  · exact .ite (((modLine_inner s m _).widen).andThen (actOnPress_inner m _ _)) (modLine_inner s m _).widen

theorem takePress_bounded (m : Fin 2) (s : State) (h : PathsBounded s) : PathsBounded (takePress m s) := by
  unfold takePress
  split
  · exact (modLine_inner s m _).bounded h
  · split
    · exact actOnPress_bounded m _ _ ((modLine_inner s m _).bounded h)
    · exact (modLine_inner s m _).bounded h

theorem becomeReady_keeps (s : State) : Keeps s (becomeReady s) := by
  unfold becomeReady; split
  · exact .refl s
  · exact (modLink_keeps s _ id).trans ((makeNotice_inner _ _ _).keeps fun h => (makeNotice_inner _ _ _).bounded h)

end Sys2Proof.Machine
end

