-- ==== Sys2Proof/Laws/Exec.lean ====
section
/-! SUPPORT. What each command answers, in one equation for each: the operation that it takes. -/

namespace Sys2Proof.Machine

set_option Elab.async false

theorem exec_hardReset (s : State) :
    exec .hardReset s = .next (afterHardReset s) := rfl
theorem exec_linkReady (s : State) :
    exec .linkReady s = .next (becomeReady s) := rfl
theorem exec_inboundFrame (t : Nat) (bytes : List Byte) (s : State) :
    exec (.inboundFrame t bytes) s = .next (exchange bytes (arrive t s)) := rfl
theorem exec_unknownKind (tag kind : Byte) (s : State) :
    exec (.unknownKind tag kind) s = .next (submit tag (.unknownKind kind) s) := rfl
theorem exec_outboundFrameSent (t : Nat) (s : State) :
    exec (.outboundFrameSent t) s = .next (outboundFrameSent (arrive t s)) := rfl
theorem exec_setStation (t : Nat) (tag : Byte) (rate : Nat) (drop : Nat) (s : State) :
    exec (.setStation t tag rate drop) s = .next (submit tag (.setStation rate drop) (arrive t s)) := rfl
theorem exec_setTimecode (tag : Byte) (label : Timecode) (s : State) :
    exec (.setTimecode tag label) s = .next (submit tag (.setTimecode label) s) := rfl
theorem exec_readTimebase (tag : Byte) (s : State) :
    exec (.readTimebase tag) s = .next (submit tag .readTimebase s) := rfl
theorem exec_configureProgram (tag : Byte) (program : Nat) (record : ProgramRecord) (s : State) :
    exec (.configureProgram tag program record) s = .next (submit tag (.configureProgram program record) s) := rfl
theorem exec_setRateLimits (tag : Byte) (program : Nat) (minRate : Nat) (maxRate : Nat) (weight : Nat) (s : State) :
    exec (.setRateLimits tag program minRate maxRate weight) s
      = .next (submit tag (.setRateLimits program minRate maxRate weight) s) := rfl
theorem exec_start (tag : Byte) (mask : Nat) (s : State) :
    exec (.start tag mask) s = .next (submit tag (.start mask) s) := rfl
theorem exec_stop (tag : Byte) (program : Nat) (s : State) :
    exec (.stop tag program) s = .next (submit tag (.stop program) s) := rfl
theorem exec_abort (tag : Byte) (program : Nat) (s : State) :
    exec (.abort tag program) s = .next (submit tag (.abort program) s) := rfl
theorem exec_programStatus (tag : Byte) (program : Nat) (s : State) :
    exec (.programStatus tag program) s = .next (submit tag (.programStatus program) s) := rfl
theorem exec_setSlate (tag : Byte) (program : Nat) (y : Nat) (cb : Nat) (cr : Nat) (hold : Nat) (s : State) :
    exec (.setSlate tag program y cb cr hold) s = .next (submit tag (.setSlate program y cb cr hold) s) := rfl
theorem exec_readPicturePort (tag : Byte) (port : Nat) (s : State) :
    exec (.readPicturePort tag port) s = .next (submit tag (.readPicturePort port) s) := rfl
theorem exec_loadTable (tag : Byte) (table : Nat) (entries : List CodeEntry) (s : State) :
    exec (.loadTable tag table entries) s = .next (submit tag (.loadTable table entries) s) := rfl
theorem exec_selectTable (tag : Byte) (program : Nat) (table : Nat) (s : State) :
    exec (.selectTable tag program table) s = .next (submit tag (.selectTable program table) s) := rfl
theorem exec_readTable (tag : Byte) (table : Nat) (s : State) :
    exec (.readTable tag table) s = .next (submit tag (.readTable table) s) := rfl
theorem exec_readBudget (tag : Byte) (s : State) :
    exec (.readBudget tag) s = .next (submit tag .readBudget s) := rfl
theorem exec_configureSlotPort (tag : Byte) (port : Nat) (count : Nat) (s : State) :
    exec (.configureSlotPort tag port count) s = .next (submit tag (.configureSlotPort port count) s) := rfl
theorem exec_enableSlotPort (tag : Byte) (port : Nat) (s : State) :
    exec (.enableSlotPort tag port) s = .next (submit tag (.enableSlotPort port) s) := rfl
theorem exec_disableSlotPort (tag : Byte) (port : Nat) (s : State) :
    exec (.disableSlotPort tag port) s = .next (submit tag (.disableSlotPort port) s) := rfl
theorem exec_readSlotPort (tag : Byte) (port : Nat) (s : State) :
    exec (.readSlotPort tag port) s = .next (submit tag (.readSlotPort port) s) := rfl
theorem exec_bindInput (tag : Byte) (input : Nat) (binding : Option (Nat × Nat)) (s : State) :
    exec (.bindInput tag input binding) s = .next (submit tag (.bindInput input binding) s) := rfl
theorem exec_setGain (tag : Byte) (input : Nat) (bus : Nat) (gain : Nat) (ramp : Nat) (s : State) :
    exec (.setGain tag input bus gain ramp) s = .next (submit tag (.setGain input bus gain ramp) s) := rfl
theorem exec_setBus (tag : Byte) (bus : Nat) (delay : Nat) (seed : Nat) (s : State) :
    exec (.setBus tag bus delay seed) s = .next (submit tag (.setBus bus delay seed) s) := rfl
theorem exec_setMonitor (tag : Byte) (left : Nat) (right : Nat) (s : State) :
    exec (.setMonitor tag left right) s = .next (submit tag (.setMonitor left right) s) := rfl
theorem exec_readMixer (tag : Byte) (bus : Nat) (clear : Nat) (s : State) :
    exec (.readMixer tag bus clear) s = .next (submit tag (.readMixer bus clear) s) := rfl
theorem exec_setRetention (tag : Byte) (program : Nat) (retention : Nat) (s : State) :
    exec (.setRetention tag program retention) s = .next (submit tag (.setRetention program retention) s) := rfl
theorem exec_setReserve (tag : Byte) (reserve : Nat) (s : State) :
    exec (.setReserve tag reserve) s = .next (submit tag (.setReserve reserve) s) := rfl
theorem exec_readStore (tag : Byte) (s : State) :
    exec (.readStore tag) s = .next (submit tag .readStore s) := rfl
theorem exec_readSegment (tag : Byte) (segment : Nat) (position : Nat) (s : State) :
    exec (.readSegment tag segment position) s = .next (submit tag (.readSegment segment position) s) := rfl
theorem exec_readChain (tag : Byte) (program : Nat) (position : Nat) (s : State) :
    exec (.readChain tag program position) s = .next (submit tag (.readChain program position) s) := rfl
theorem exec_configurePath (tag : Byte) (path : Nat) (ceiling : Nat) (initial : Nat) (burst : Nat)
    (repairShare : Nat) (probeRate : Nat) (s : State) :
    exec (.configurePath tag path ceiling initial burst repairShare probeRate) s
      = .next (submit tag (.configurePath path ceiling initial burst repairShare probeRate) s) := rfl
theorem exec_enablePath (tag : Byte) (path : Nat) (s : State) :
    exec (.enablePath tag path) s = .next (submit tag (.enablePath path) s) := rfl
theorem exec_disablePath (tag : Byte) (path : Nat) (s : State) :
    exec (.disablePath tag path) s = .next (submit tag (.disablePath path) s) := rfl
theorem exec_setUplink (tag : Byte) (headroom : Nat) (labelReserve : Nat) (clipFloor : Nat) (silence : Nat)
    (threshold : Nat) (forget : Nat) (s : State) :
    exec (.setUplink tag headroom labelReserve clipFloor silence threshold forget) s
      = .next (submit tag (.setUplink headroom labelReserve clipFloor silence threshold forget) s) := rfl
theorem exec_readPath (tag : Byte) (path : Nat) (s : State) :
    exec (.readPath tag path) s = .next (submit tag (.readPath path) s) := rfl
theorem exec_readUplink (tag : Byte) (s : State) :
    exec (.readUplink tag) s = .next (submit tag .readUplink s) := rfl
theorem exec_setDelivery (tag : Byte) (deadline : Nat) (guard : Nat) (s : State) :
    exec (.setDelivery tag deadline guard) s = .next (submit tag (.setDelivery deadline guard) s) := rfl
theorem exec_readWindow (tag : Byte) (s : State) :
    exec (.readWindow tag) s = .next (submit tag .readWindow s) := rfl
theorem exec_markIn (tag : Byte) (program : Nat) (selector : Nat) (value : Nat) (yieldable : Nat) (s : State) :
    exec (.markIn tag program selector value yieldable) s
      = .next (submit tag (.markIn program selector value yieldable) s) := rfl
theorem exec_markOut (tag : Byte) (program : Nat) (selector : Nat) (value : Nat) (s : State) :
    exec (.markOut tag program selector value) s = .next (submit tag (.markOut program selector value) s) := rfl
theorem exec_setMarkLine (tag : Byte) (line : Nat) (binding : Option Nat) (preRoll : Nat) (yieldable : Nat)
    (s : State) :
    exec (.setMarkLine tag line binding preRoll yieldable) s
      = .next (submit tag (.setMarkLine line binding preRoll yieldable) s) := rfl
theorem exec_setLabel (tag : Byte) (clip : Nat) (text : List Byte) (tags : List Byte) (rating : Nat)
    (yieldable : Nat) (s : State) :
    exec (.setLabel tag clip text tags rating yieldable) s
      = .next (submit tag (.setLabel clip text tags rating yieldable) s) := rfl
theorem exec_ship (tag : Byte) (clip : Nat) (s : State) :
    exec (.ship tag clip) s = .next (submit tag (.ship clip) s) := rfl
theorem exec_cancelShip (tag : Byte) (clip : Nat) (s : State) :
    exec (.cancelShip tag clip) s = .next (submit tag (.cancelShip clip) s) := rfl
theorem exec_release (tag : Byte) (clip : Nat) (s : State) :
    exec (.release tag clip) s = .next (submit tag (.release clip) s) := rfl
theorem exec_readClip (tag : Byte) (clip : Nat) (s : State) :
    exec (.readClip tag clip) s = .next (submit tag (.readClip clip) s) := rfl
theorem exec_listClips (tag : Byte) (s : State) :
    exec (.listClips tag) s = .next (submit tag .listClips s) := rfl
theorem exec_status (tag : Byte) (mask : Nat) (s : State) :
    exec (.status tag mask) s = .next (submit tag (.status mask) s) := rfl
theorem exec_subscribe (tag : Byte) (mask : Nat) (s : State) :
    exec (.subscribe tag mask) s = .next (submit tag (.subscribe mask) s) := rfl
theorem exec_identify (tag : Byte) (s : State) :
    exec (.identify tag) s = .next (submit tag .identify s) := rfl
theorem exec_restart (tag : Byte) (s : State) :
    exec (.restart tag) s = .next (submit tag .restart s) := rfl
theorem exec_referencePulse (t : Nat) (s : State) :
    exec (.referencePulse t) s = .next (takePulse (arrive t s)) := rfl
theorem exec_dueTick (s : State) :
    exec .dueTick s = .next (takeDueTick s) := rfl
theorem exec_referenceLossExpiry (s : State) :
    exec .referenceLossExpiry s = .next (takeLossExpiry s) := rfl
theorem exec_pacingTick (s : State) :
    exec .pacingTick s = .next (pacingTick s) := rfl
theorem exec_allocationTick (s : State) :
    exec .allocationTick s = .next (takeAllocationTick s) := rfl
theorem exec_startOfPictureMarker (port : Fin 4) (s : State) :
    exec (.startOfPictureMarker port) s = .next (endEvent s (startOfPicture port s)) := rfl
theorem exec_portLossExpiry (port : Fin 4) (s : State) :
    exec (.portLossExpiry port) s = .next (if inputLossDue (s.port port) then loseInput port s else s) := rfl
theorem exec_lineTaken (port : Fin 4) (y cb cr : List Sample10) (s : State) :
    exec (.lineTaken port y cb cr) s = .next (endEvent s (lineTaken port y cb cr s)) := rfl
theorem exec_closeLimit (program : Fin 4) (s : State) :
    exec (.closeLimit program) s = .next (endEvent s (closeLimit program s.tb.picture s)) := rfl
theorem exec_sliceCoded (program : Fin 4) (s : State) :
    exec (.sliceCoded program) s = .next (endEvent s (sliceCoded program s)) := rfl
theorem exec_tableCheckEnd (table : Fin 2) (s : State) :
    exec (.tableCheckEnd table) s = .next (endTableCheck table s) := rfl
theorem exec_slot (port : Fin 4) (marker : Bool) (sample : Sample24) (s : State) :
    exec (.slot port marker sample) s = .next (takeSlot port marker sample s) := rfl
theorem exec_slotSilenceExpiry (port : Fin 4) (s : State) :
    exec (.slotSilenceExpiry port) s = .next (s.modSlot port silentSlot) := rfl
theorem exec_sampleTick (s : State) :
    exec .sampleTick s = .next (sampleTick s) := rfl
theorem exec_retentionRelease (s : State) :
    exec .retentionRelease s = .next (retentionTick s) := rfl
theorem exec_endOfWriting (program : Fin 4) (s : State) :
    exec (.endOfWriting program) s = .next (settle (endWriting program s)) := rfl
theorem exec_drainComplete (program : Fin 4) (s : State) :
    exec (.drainComplete program) s = .next (settle (completeDrain program s)) := rfl
theorem exec_carrierGained (path : Fin 6) (s : State) :
    exec (.carrierGained path) s = .next (carrierGained path s) := rfl
theorem exec_carrierLost (path : Fin 6) (s : State) :
    exec (.carrierLost path) s = .next (settle (carrierLost path s)) := rfl
theorem exec_frameSent (path : Fin 6) (s : State) :
    exec (.frameSent path) s = .next (frameSent path s) := rfl
theorem exec_silenceExpiry (path : Fin 6) (s : State) :
    exec (.silenceExpiry path) s = .next (settle (silenceDue path s)) := rfl
theorem exec_report (path : Fin 6) (frame : List Byte) (s : State) :
    exec (.report path frame) s = .next (takeFrame path frame s) := rfl
theorem exec_entryAgeExpiry (send : Nat) (s : State) :
    exec (.entryAgeExpiry send) s = .next (freeZero (expireEntries (fun e => e.send == send) s)) := rfl
theorem exec_clipStartShipping (s : State) :
    exec .clipStartShipping s = .next (if shipCanStart s then settle (startShip s) else s) := rfl
theorem exec_shippingComplete (s : State) :
    exec .shippingComplete s = .next (if shipDone s then settle (completeShip s) else s) := rfl
theorem exec_periodEnd (program : Fin 4) (s : State) :
    exec (.periodEnd program) s = .next (settle (periodEnd program s)) := rfl
theorem exec_markLinePress (line : Fin 2) (s : State) :
    exec (.markLinePress line) s = .next (takePress line s) := rfl

end Sys2Proof.Machine
end

