-- ==== Sys2Proof/Laws/PerInstr.lean ====
section
/-! SUPPORT. What holds of every command by its syntax: the body that a host sends for a well-formed request command
fits a frame, whose body holds at most 1,024 bytes (R200, R209, R212). One lemma for each command. -/

namespace Sys2Proof.Laws

set_option Elab.async false

open Sys2Proof.Machine

/-! ### Lengths of the field encodings -/

theorem be_length (k n : Nat) : (be k n).length = k := by
  induction k with
  | zero => rfl
  | succ k ih => simp [be, ih]

@[simp] theorem u8_length (n : Nat) : (u8 n).length = 1 := be_length 1 n
@[simp] theorem u16_length (n : Nat) : (u16 n).length = 2 := be_length 2 n
@[simp] theorem u32_length (n : Nat) : (u32 n).length = 4 := be_length 4 n
@[simp] theorem twos_length (k : Nat) (x : Int) : (twos k x).length = k := be_length k _

@[simp] theorem encTimecode_length (t : Timecode) : (encTimecode t).length = 4 := by simp [encTimecode]

theorem encOpt_length {α : Type} (k : Nat) (f : α → List Byte) (hf : ∀ a, (f a).length = k) (o : Option α) :
    (encOpt k f o).length = k + 1 := by
  cases o <;> simp [encOpt, hf] <;> omega

theorem flatMap_length {α : Type} (k : Nat) (f : α → List Byte) (hf : ∀ a, (f a).length = k) (l : List α) :
    (l.flatMap f).length = k * l.length := by
  induction l with
  | nil => simp
  | cons a l ih => simp [List.flatMap_cons, hf, ih, Nat.mul_succ]; omega

theorem encList_length {α : Type} (k : Nat) (f : α → List Byte) (hf : ∀ a, (f a).length = k) (l : List α) :
    (encList f l).length = 1 + k * l.length := by
  simp [encList, flatMap_length k f hf]

theorem recordBody_length (r : ProgramRecord) : (recordBody r).length = 33 + r.buses.length := by
  simp [recordBody, encList_length 1 u8 u8_length]
  omega

end Sys2Proof.Laws

namespace Sys2Proof.Laws.BodyFitsFrame

set_option Elab.async false

open Sys2Proof.Machine

/-- The body of a well-formed request command is at most 1,024 bytes long. -/
def Statement (c : Instr) : Prop :=
  c.wf = true → ∀ tag r, requestOf c = some (tag, r) → r.body.length ≤ 1024

theorem of_none (c : Instr) (h : requestOf c = none) : Statement c := by
  intro _ tag r hr
  rw [h] at hr
  cases hr

theorem of_some (c : Instr) (tag : Byte) (r : Request) (h : requestOf c = some (tag, r))
    (hl : c.wf = true → r.body.length ≤ 1024) : Statement c := by
  intro hw tag' r' hr
  rw [h] at hr
  injection hr with hr
  injection hr with _ hr
  subst hr
  exact hl hw

theorem hardReset : Statement (.hardReset) :=
  of_none _ rfl

theorem linkReady : Statement (.linkReady) :=
  of_none _ rfl

theorem inboundFrame (t : Nat) (bytes : List Byte) : Statement (.inboundFrame t bytes) :=
  of_none _ rfl

theorem unknownKind (tag kind : Byte) : Statement (.unknownKind tag kind) :=
  of_some _ _ _ rfl fun _ => by simp [Request.body]

theorem outboundFrameSent (t : Nat) : Statement (.outboundFrameSent t) :=
  of_none _ rfl

theorem setStation (t : Nat) (tag : Byte) (rate drop : Nat) : Statement (.setStation t tag rate drop) :=
  of_some _ _ _ rfl fun _ => by simp [Request.body]

theorem setTimecode (tag : Byte) (label : Timecode) : Statement (.setTimecode tag label) :=
  of_some _ _ _ rfl fun _ => by simp [Request.body]

theorem readTimebase (tag : Byte) : Statement (.readTimebase tag) :=
  of_some _ _ _ rfl fun _ => by simp [Request.body]

theorem configureProgram (tag : Byte) (program : Nat) (record : ProgramRecord) :
    Statement (.configureProgram tag program record) :=
  of_some _ _ _ rfl fun hw => by
    have hn : record.buses.length < 256 := by
      simp only [Instr.wf, ProgramRecord.wf, fitsList, Bool.and_eq_true, decide_eq_true_eq] at hw
      have := hw.2
      tauto
    simp only [Request.body, List.length_append, u8_length, recordBody_length]
    omega

theorem setRateLimits (tag : Byte) (program minRate maxRate weight : Nat) :
    Statement (.setRateLimits tag program minRate maxRate weight) :=
  of_some _ _ _ rfl fun _ => by simp [Request.body]

theorem start (tag : Byte) (mask : Nat) : Statement (.start tag mask) :=
  of_some _ _ _ rfl fun _ => by simp [Request.body]

theorem stop (tag : Byte) (program : Nat) : Statement (.stop tag program) :=
  of_some _ _ _ rfl fun _ => by simp [Request.body]

theorem abort (tag : Byte) (program : Nat) : Statement (.abort tag program) :=
  of_some _ _ _ rfl fun _ => by simp [Request.body]

theorem programStatus (tag : Byte) (program : Nat) : Statement (.programStatus tag program) :=
  of_some _ _ _ rfl fun _ => by simp [Request.body]

theorem setSlate (tag : Byte) (program y cb cr hold : Nat) : Statement (.setSlate tag program y cb cr hold) :=
  of_some _ _ _ rfl fun _ => by simp [Request.body]

theorem readPicturePort (tag : Byte) (port : Nat) : Statement (.readPicturePort tag port) :=
  of_some _ _ _ rfl fun _ => by simp [Request.body]

theorem loadTable (tag : Byte) (table : Nat) (entries : List CodeEntry) :
    Statement (.loadTable tag table entries) :=
  of_some _ _ _ rfl fun hw => by
    have hn : entries.length = 130 := by
      simp only [Instr.wf, Bool.and_eq_true, beq_iff_eq] at hw
      exact hw.1.2
    simp only [Request.body, List.length_append, u8_length,
      flatMap_length 3 (fun e : CodeEntry => u8 e.length ++ u16 e.value) (fun _ => by simp), hn]
    decide

theorem selectTable (tag : Byte) (program table : Nat) : Statement (.selectTable tag program table) :=
  of_some _ _ _ rfl fun _ => by simp [Request.body]

theorem readTable (tag : Byte) (table : Nat) : Statement (.readTable tag table) :=
  of_some _ _ _ rfl fun _ => by simp [Request.body]

theorem readBudget (tag : Byte) : Statement (.readBudget tag) :=
  of_some _ _ _ rfl fun _ => by simp [Request.body]

theorem configureSlotPort (tag : Byte) (port count : Nat) : Statement (.configureSlotPort tag port count) :=
  of_some _ _ _ rfl fun _ => by simp [Request.body]

theorem enableSlotPort (tag : Byte) (port : Nat) : Statement (.enableSlotPort tag port) :=
  of_some _ _ _ rfl fun _ => by simp [Request.body]

theorem disableSlotPort (tag : Byte) (port : Nat) : Statement (.disableSlotPort tag port) :=
  of_some _ _ _ rfl fun _ => by simp [Request.body]

theorem readSlotPort (tag : Byte) (port : Nat) : Statement (.readSlotPort tag port) :=
  of_some _ _ _ rfl fun _ => by simp [Request.body]

theorem bindInput (tag : Byte) (input : Nat) (binding : Option (Nat × Nat)) :
    Statement (.bindInput tag input binding) :=
  of_some _ _ _ rfl fun _ => by
    simp only [Request.body, List.length_append, u8_length,
      encOpt_length 2 (fun b : Nat × Nat => u8 b.1 ++ u8 b.2) (fun _ => by simp)]
    decide

theorem setGain (tag : Byte) (input bus gain ramp : Nat) : Statement (.setGain tag input bus gain ramp) :=
  of_some _ _ _ rfl fun _ => by simp [Request.body]

theorem setBus (tag : Byte) (bus delay seed : Nat) : Statement (.setBus tag bus delay seed) :=
  of_some _ _ _ rfl fun _ => by simp [Request.body]

theorem setMonitor (tag : Byte) (left right : Nat) : Statement (.setMonitor tag left right) :=
  of_some _ _ _ rfl fun _ => by simp [Request.body]

theorem readMixer (tag : Byte) (bus clear : Nat) : Statement (.readMixer tag bus clear) :=
  of_some _ _ _ rfl fun _ => by simp [Request.body]

theorem setRetention (tag : Byte) (program retention : Nat) : Statement (.setRetention tag program retention) :=
  of_some _ _ _ rfl fun _ => by simp [Request.body]

theorem setReserve (tag : Byte) (reserve : Nat) : Statement (.setReserve tag reserve) :=
  of_some _ _ _ rfl fun _ => by simp [Request.body]

theorem readStore (tag : Byte) : Statement (.readStore tag) :=
  of_some _ _ _ rfl fun _ => by simp [Request.body]

theorem readSegment (tag : Byte) (segment position : Nat) : Statement (.readSegment tag segment position) :=
  of_some _ _ _ rfl fun _ => by simp [Request.body]

theorem readChain (tag : Byte) (program position : Nat) : Statement (.readChain tag program position) :=
  of_some _ _ _ rfl fun _ => by simp [Request.body]

theorem configurePath (tag : Byte) (path ceiling initial burst repairShare probeRate : Nat) :
    Statement (.configurePath tag path ceiling initial burst repairShare probeRate) :=
  of_some _ _ _ rfl fun _ => by simp [Request.body]

theorem enablePath (tag : Byte) (path : Nat) : Statement (.enablePath tag path) :=
  of_some _ _ _ rfl fun _ => by simp [Request.body]

theorem disablePath (tag : Byte) (path : Nat) : Statement (.disablePath tag path) :=
  of_some _ _ _ rfl fun _ => by simp [Request.body]

theorem setUplink (tag : Byte) (headroom labelReserve clipFloor silence threshold forget : Nat) :
    Statement (.setUplink tag headroom labelReserve clipFloor silence threshold forget) :=
  of_some _ _ _ rfl fun _ => by simp [Request.body]

theorem readPath (tag : Byte) (path : Nat) : Statement (.readPath tag path) :=
  of_some _ _ _ rfl fun _ => by simp [Request.body]

theorem readUplink (tag : Byte) : Statement (.readUplink tag) :=
  of_some _ _ _ rfl fun _ => by simp [Request.body]

theorem setDelivery (tag : Byte) (deadline guardMs : Nat) : Statement (.setDelivery tag deadline guardMs) :=
  of_some _ _ _ rfl fun _ => by simp [Request.body]

theorem readWindow (tag : Byte) : Statement (.readWindow tag) :=
  of_some _ _ _ rfl fun _ => by simp [Request.body]

theorem markIn (tag : Byte) (program selector value yieldable : Nat) :
    Statement (.markIn tag program selector value yieldable) :=
  of_some _ _ _ rfl fun _ => by simp [Request.body]

theorem markOut (tag : Byte) (program selector value : Nat) : Statement (.markOut tag program selector value) :=
  of_some _ _ _ rfl fun _ => by simp [Request.body]

theorem setMarkLine (tag : Byte) (line : Nat) (binding : Option Nat) (preRoll yieldable : Nat) :
    Statement (.setMarkLine tag line binding preRoll yieldable) :=
  of_some _ _ _ rfl fun _ => by
    simp only [Request.body, List.length_append, u8_length, u16_length, encOpt_length 1 u8 u8_length]
    decide

theorem setLabel (tag : Byte) (clip : Nat) (text : List Byte) (tags : List Byte) (rating yieldable : Nat) :
    Statement (.setLabel tag clip text tags rating yieldable) :=
  of_some _ _ _ rfl fun hw => by
    have hn : text.length < 256 ∧ tags.length < 256 := by
      simp only [Instr.wf, fitsList, Bool.and_eq_true, decide_eq_true_eq] at hw
      exact ⟨hw.1.1.1.2, hw.1.1.2⟩
    simp only [Request.body, List.length_append, u8_length, encList_length 1 (fun b => [b]) (fun _ => rfl)]
    omega

theorem ship (tag : Byte) (clip : Nat) : Statement (.ship tag clip) :=
  of_some _ _ _ rfl fun _ => by simp [Request.body]

theorem cancelShip (tag : Byte) (clip : Nat) : Statement (.cancelShip tag clip) :=
  of_some _ _ _ rfl fun _ => by simp [Request.body]

theorem release (tag : Byte) (clip : Nat) : Statement (.release tag clip) :=
  of_some _ _ _ rfl fun _ => by simp [Request.body]

theorem readClip (tag : Byte) (clip : Nat) : Statement (.readClip tag clip) :=
  of_some _ _ _ rfl fun _ => by simp [Request.body]

theorem listClips (tag : Byte) : Statement (.listClips tag) :=
  of_some _ _ _ rfl fun _ => by simp [Request.body]

theorem status (tag : Byte) (mask : Nat) : Statement (.status tag mask) :=
  of_some _ _ _ rfl fun _ => by simp [Request.body]

theorem subscribe (tag : Byte) (mask : Nat) : Statement (.subscribe tag mask) :=
  of_some _ _ _ rfl fun _ => by simp [Request.body]

theorem identify (tag : Byte) : Statement (.identify tag) :=
  of_some _ _ _ rfl fun _ => by simp [Request.body]

theorem restart (tag : Byte) : Statement (.restart tag) :=
  of_some _ _ _ rfl fun _ => by simp [Request.body]

theorem referencePulse (t : Nat) : Statement (.referencePulse t) :=
  of_none _ rfl

theorem dueTick : Statement (.dueTick) :=
  of_none _ rfl

theorem referenceLossExpiry : Statement (.referenceLossExpiry) :=
  of_none _ rfl

theorem pacingTick : Statement (.pacingTick) :=
  of_none _ rfl

theorem allocationTick : Statement (.allocationTick) :=
  of_none _ rfl

theorem startOfPictureMarker (port : Fin 4) : Statement (.startOfPictureMarker port) :=
  of_none _ rfl

theorem portLossExpiry (port : Fin 4) : Statement (.portLossExpiry port) :=
  of_none _ rfl

theorem lineTaken (port : Fin 4) (y cb cr : List Sample10) : Statement (.lineTaken port y cb cr) :=
  of_none _ rfl

theorem closeLimit (program : Fin 4) : Statement (.closeLimit program) :=
  of_none _ rfl

theorem sliceCoded (program : Fin 4) : Statement (.sliceCoded program) :=
  of_none _ rfl

theorem tableCheckEnd (table : Fin 2) : Statement (.tableCheckEnd table) :=
  of_none _ rfl

theorem slot (port : Fin 4) (marker : Bool) (sample : Sample24) : Statement (.slot port marker sample) :=
  of_none _ rfl

theorem slotSilenceExpiry (port : Fin 4) : Statement (.slotSilenceExpiry port) :=
  of_none _ rfl

theorem sampleTick : Statement (.sampleTick) :=
  of_none _ rfl

theorem retentionRelease : Statement (.retentionRelease) :=
  of_none _ rfl

theorem endOfWriting (program : Fin 4) : Statement (.endOfWriting program) :=
  of_none _ rfl

theorem drainComplete (program : Fin 4) : Statement (.drainComplete program) :=
  of_none _ rfl

theorem carrierGained (path : Fin 6) : Statement (.carrierGained path) :=
  of_none _ rfl

theorem carrierLost (path : Fin 6) : Statement (.carrierLost path) :=
  of_none _ rfl

theorem frameSent (path : Fin 6) : Statement (.frameSent path) :=
  of_none _ rfl

theorem silenceExpiry (path : Fin 6) : Statement (.silenceExpiry path) :=
  of_none _ rfl

theorem report (path : Fin 6) (frame : List Byte) : Statement (.report path frame) :=
  of_none _ rfl

theorem entryAgeExpiry (send : Nat) : Statement (.entryAgeExpiry send) :=
  of_none _ rfl

theorem clipStartShipping : Statement (.clipStartShipping) :=
  of_none _ rfl

theorem shippingComplete : Statement (.shippingComplete) :=
  of_none _ rfl

theorem periodEnd (program : Fin 4) : Statement (.periodEnd program) :=
  of_none _ rfl

theorem markLinePress (line : Fin 2) : Statement (.markLinePress line) :=
  of_none _ rfl

end Sys2Proof.Laws.BodyFitsFrame
end

