-- ==== Sys2Proof/Tests/Slice0.lean ====
section
/-! SUPPORT. Tests: ill-formed commands that the well-formedness check refuses, worked examples of the manual, and a
witness for the hypotheses of each statement. Every expected value is taken from the manual's rules, tables and worked
examples, or worked out by hand from them. -/

namespace Sys2Proof.Tests

set_option Elab.async false

open Sys2Proof Sys2Proof.Machine

/-! ### States for the tests -/

/-- The state that a command leaves. -/
def after (c : Instr) (s : State) : State :=
  match exec c s with
  | .next t => t
  | .fault _ => s
  | .refused _ => s

/-- The part after LINK_READY, its READY notice sent. -/
def up : State := { State.reset with link := { Link.reset with ready := true } }

/-- A record in range: 1,920 by 1,080, two buses at width 24. -/
def record : ProgramRecord :=
  { port := 0, width := 1920, height := 1080, table := 0, chromaOffset := 2, qmin := 4, qstart := 20, qmax := 44,
    buffer := 20, ceiling := 4, minRate := 4000, maxRate := 20000, weight := 3, buses := [0, 1], soundWidth := 24,
    retention := 50, hold := 3, slateY := 64, slateCb := 512, slateCr := 512 }

/-- `up` with program `p` given. -/
def withProgram (p : Fin 4) (g : Program) (s : State) : State := { s with progs := Vec.put s.progs p g }

/-- `s` with a path given. -/
def withPath (l : Fin 6) (p : Path) (s : State) : State := { s with paths := Vec.put s.paths l p }

/-- A configured program in a state. -/
def program (st : ProgState) : Program := { Program.reset with st := st, record := some record }

/-- The replies waiting. -/
def replies (s : State) : List ReplySlot := s.link.replies

/-! ### Ill-formed commands -/

/-- Every command of a list is ill-formed. -/
def illFormed (l : List Instr) : Bool := l.all fun c => !c.wf

theorem test_wf_unknown_kind :
    illFormed [.unknownKind 0 1, .unknownKind 0 50] = true := by
  decide +kernel

theorem test_wf_set_station :
    illFormed [.setStation 0 0 256 0, .setStation 0 0 0 256] = true := by
  decide +kernel

theorem test_wf_set_timecode :
    illFormed [.setTimecode 0 ⟨256, 0, 0, 0⟩, .setTimecode 0 ⟨0, 256, 0, 0⟩, .setTimecode 0 ⟨0, 0, 256, 0⟩,
      .setTimecode 0 ⟨0, 0, 0, 256⟩] = true := by
  decide +kernel

theorem test_wf_configure_program :
    illFormed [.configureProgram 0 256 record, .configureProgram 0 0 { record with port := 256 },
      .configureProgram 0 0 { record with width := 65536 }, .configureProgram 0 0 { record with height := 65536 },
      .configureProgram 0 0 { record with table := 256 }, .configureProgram 0 0 { record with chromaOffset := 128 },
      .configureProgram 0 0 { record with chromaOffset := -129 }, .configureProgram 0 0 { record with qmin := 256 },
      .configureProgram 0 0 { record with qstart := 256 }, .configureProgram 0 0 { record with qmax := 256 },
      .configureProgram 0 0 { record with buffer := 65536 }, .configureProgram 0 0 { record with ceiling := 256 },
      .configureProgram 0 0 { record with minRate := 4294967296 },
      .configureProgram 0 0 { record with maxRate := 4294967296 },
      .configureProgram 0 0 { record with weight := 256 },
      .configureProgram 0 0 { record with buses := List.replicate 256 0 },
      .configureProgram 0 0 { record with buses := [256] }, .configureProgram 0 0 { record with soundWidth := 256 },
      .configureProgram 0 0 { record with retention := 65536 }, .configureProgram 0 0 { record with hold := 256 },
      .configureProgram 0 0 { record with slateY := 65536 }, .configureProgram 0 0 { record with slateCb := 65536 },
      .configureProgram 0 0 { record with slateCr := 65536 }] = true := by
  decide +kernel

theorem test_wf_set_rate_limits :
    illFormed [.setRateLimits 0 256 0 0 0, .setRateLimits 0 0 4294967296 0 0, .setRateLimits 0 0 0 4294967296 0,
      .setRateLimits 0 0 0 0 256] = true := by
  decide +kernel

theorem test_wf_program_requests :
    illFormed [.start 0 256, .stop 0 256, .abort 0 256, .programStatus 0 256, .readPicturePort 0 256] = true := by
  decide +kernel

theorem test_wf_set_slate :
    illFormed [.setSlate 0 256 0 0 0 0, .setSlate 0 0 65536 0 0 0, .setSlate 0 0 0 65536 0 0,
      .setSlate 0 0 0 0 65536 0, .setSlate 0 0 0 0 0 256] = true := by
  decide +kernel

theorem test_wf_load_table :
    illFormed [.loadTable 0 256 (List.replicate 130 ⟨1, 0⟩), .loadTable 0 0 (List.replicate 129 ⟨1, 0⟩),
      .loadTable 0 0 (⟨256, 0⟩ :: List.replicate 129 ⟨1, 0⟩),
      .loadTable 0 0 (⟨1, 65536⟩ :: List.replicate 129 ⟨1, 0⟩)] = true := by
  decide +kernel

theorem test_wf_tables :
    illFormed [.selectTable 0 256 0, .selectTable 0 0 256, .readTable 0 256] = true := by
  decide +kernel

theorem test_wf_slot_ports :
    illFormed [.configureSlotPort 0 256 1, .configureSlotPort 0 0 256, .enableSlotPort 0 256, .disableSlotPort 0 256,
      .readSlotPort 0 256] = true := by
  decide +kernel

theorem test_wf_bind_input :
    illFormed [.bindInput 0 256 none, .bindInput 0 256 (some (0, 0)), .bindInput 0 0 (some (256, 0)),
      .bindInput 0 0 (some (0, 256))] = true := by
  decide +kernel

theorem test_wf_set_gain :
    illFormed [.setGain 0 256 0 0 0, .setGain 0 0 256 0 0, .setGain 0 0 0 65536 0,
      .setGain 0 0 0 0 65536] = true := by
  decide +kernel

theorem test_wf_mixer :
    illFormed [.setBus 0 256 0 0, .setBus 0 0 65536 0, .setBus 0 0 0 65536, .setMonitor 0 256 0, .setMonitor 0 0 256,
      .readMixer 0 256 0, .readMixer 0 0 256] = true := by
  decide +kernel

theorem test_wf_store :
    illFormed [.setRetention 0 256 0, .setRetention 0 0 65536, .setReserve 0 65536, .readSegment 0 65536 0,
      .readSegment 0 0 65536, .readChain 0 256 0, .readChain 0 0 65536] = true := by
  decide +kernel

theorem test_wf_configure_path :
    illFormed [.configurePath 0 256 0 0 0 0 0, .configurePath 0 0 4294967296 0 0 0 0,
      .configurePath 0 0 0 4294967296 0 0 0, .configurePath 0 0 0 0 256 0 0, .configurePath 0 0 0 0 0 256 0,
      .configurePath 0 0 0 0 0 0 65536] = true := by
  decide +kernel

theorem test_wf_paths :
    illFormed [.enablePath 0 256, .disablePath 0 256, .readPath 0 256] = true := by
  decide +kernel

theorem test_wf_set_uplink :
    illFormed [.setUplink 0 256 0 0 0 0 0, .setUplink 0 0 65536 0 0 0 0, .setUplink 0 0 0 4294967296 0 0 0,
      .setUplink 0 0 0 0 65536 0 0, .setUplink 0 0 0 0 0 256 0, .setUplink 0 0 0 0 0 0 256] = true := by
  decide +kernel

theorem test_wf_delivery_and_age :
    illFormed [.setDelivery 0 65536 0, .setDelivery 0 0 65536, .entryAgeExpiry 4294967296] = true := by
  decide +kernel

theorem test_wf_marks :
    illFormed [.markIn 0 256 0 0 0, .markIn 0 0 256 0 0, .markIn 0 0 0 4294967296 0, .markIn 0 0 0 0 256,
      .markOut 0 256 0 0, .markOut 0 0 256 0, .markOut 0 0 0 4294967296] = true := by
  decide +kernel

theorem test_wf_set_mark_line :
    illFormed [.setMarkLine 0 256 none 0 0, .setMarkLine 0 0 none 65536 0, .setMarkLine 0 0 none 0 256,
      .setMarkLine 0 256 (some 0) 0 0, .setMarkLine 0 0 (some 256) 0 0, .setMarkLine 0 0 (some 0) 65536 0,
      .setMarkLine 0 0 (some 0) 0 256] = true := by
  decide +kernel

theorem test_wf_set_label :
    illFormed [.setLabel 0 256 [] [] 0 0, .setLabel 0 0 (List.replicate 256 0) [] 0 0,
      .setLabel 0 0 [] (List.replicate 256 0) 0 0, .setLabel 0 0 [] [] 256 0, .setLabel 0 0 [] [] 0 256] = true := by
  decide +kernel

theorem test_wf_clips :
    illFormed [.ship 0 256, .cancelShip 0 256, .release 0 256, .readClip 0 256] = true := by
  decide +kernel

theorem test_wf_masks :
    illFormed [.status 0 4294967296, .subscribe 0 4294967296] = true := by
  decide +kernel

theorem test_wf_line_taken :
    illFormed [.lineTaken 0 [0, 0] [0] [], .lineTaken 0 [0, 0] [] [0], .lineTaken 0 [0] [0] [0]] = true := by
  decide +kernel

theorem test_wf_holds :
    Instr.wf (.configureProgram 0 3 record) = true ∧ Instr.wf (.loadTable 0 1 (List.replicate 130 ⟨1, 0⟩)) = true ∧
      Instr.wf (.unknownKind 0 51) = true ∧ Instr.wf (.lineTaken 0 [0, 0] [0] [0]) = true ∧
      Instr.wf (.lineTaken 0 [0, 0, 0] [0] [0]) = true := by
  decide +kernel

/-! ### Station timebase and programs: worked examples of chapter 1 -/

/-- Ticks 2 to 3 and k to k + 1 of "Drop-frame labels at 30000/1001". -/
theorem test_advance_drop_frame :
    advanceLabel (rateRow 3) true ⟨0, 0, 59, 29⟩ = ⟨0, 1, 0, 2⟩ ∧
      advanceLabel (rateRow 3) true ⟨0, 9, 59, 29⟩ = ⟨0, 10, 0, 0⟩ ∧
      advanceLabel (rateRow 6) true ⟨23, 59, 59, 59⟩ = ⟨0, 0, 0, 0⟩ := by decide

/-- `up` at 30000/1001 with drop-frame. -/
def dropStation : State := { up with tb := { Timebase.reset with rate := 3, drop := true } }

/-- The two requests named at the end of that example. -/
theorem test_set_timecode_drop_frame :
    replies (after (.setTimecode 7 ⟨0, 1, 0, 1⟩) dropStation) = [.made ⟨7, 2, .outOfRange, 1, 0, []⟩] ∧
      (after (.setTimecode 7 ⟨0, 10, 0, 1⟩) dropStation).tb.load = some ⟨0, 10, 0, 1⟩ := by decide +kernel

/-- R1: a first due tick moved to one new P (6,256,250 units) after the reset. -/
theorem test_set_station_moves_due_tick :
    (after (.setStation 0 7 6 1) up).tb.due = some 6256250 ∧
      replies (after (.setStation 0 7 2 1) up) = [.made ⟨7, 1, .outOfRange, 2, 0, []⟩] := by decide +kernel

/-- Times of the example of the reference at 25, in units: 1 ms is 375,000. -/
def ms (n : Nat) : Nat := n * 375000

/-- `up` in FREE_RUN after the due tick at 1,160 ms. -/
def freeRun1160 : State :=
  { up with tb := { Timebase.reset with now := ms 1160, lastTick := ms 1160, due := some (ms 1200), picture := 503 } }

/-- The pulse at 1,175 ms: a re-phase, with REFERENCE_BACK. -/
theorem test_reference_pulse_rephases :
    (after (.referencePulse (ms 1175)) freeRun1160).tb.due = some (ms 1215) ∧
      (after (.referencePulse (ms 1175)) freeRun1160).tb.ref = .locked ∧
      (after (.referencePulse (ms 1175)) freeRun1160).tb.picture = 503 ∧
      (after (.referencePulse (ms 1175)) freeRun1160).link.latches.get 1 = true := by decide +kernel

/-- A tick, in either order of its retention release: the number, the label and the next due tick (R4, R5). -/
theorem test_picture_tick :
    ∀ b, (pictureTickWith b 15000000 up).tb.picture = 1 ∧ (pictureTickWith b 15000000 up).tb.label = ⟨0, 0, 0, 0⟩ ∧
      (pictureTickWith b 15000000 up).tb.load = none := by decide +kernel

/-- R7: the step that returns the divider to 0 makes an allocation tick. -/
theorem test_pacing_tick :
    ∀ b, (pacingTickWith b { up with tb := { up.tb with divider := 99, pacing := 4294967295 } }).tb.allocDue = true ∧
      (pacingTickWith b { up with tb := { up.tb with divider := 99, pacing := 4294967295 } }).tb.pacing = 0 := by
  decide +kernel

/-- Counts and accumulators of "Cadence counts at the two fractional rates". -/
def cadence (row : RateRow) (a : Nat) : List (Nat × Nat) :=
  (List.range 5).map fun i =>
    let b := (a + i * row.cadenceN) % row.cadenceD
    (cadenceCount row { Program.reset with accumulator := b }, (b + row.cadenceN) % row.cadenceD)

theorem test_cadence_counts :
    cadence (rateRow 6) 0 = [(800, 4), (801, 3), (801, 2), (801, 1), (801, 0)] ∧
      cadence (rateRow 3) 0 = [(1601, 3), (1602, 1), (1601, 4), (1602, 2), (1602, 0)] := by decide +kernel

/-- `up` with programs 0 and 2 configured on a READY table, and program 1 not. -/
def group : State :=
  withProgram 0 (program .idle) (withProgram 2 (program .idle)
    { up with tables := Vec.put up.tables 0 { CodeTable.reset with st := .ready } })

/-- "Two replies" of chapter 11: NOT_READY naming program 1, and its 12-byte frame. -/
theorem test_start_not_ready :
    replies (after (.start 9 7) group) = [.made ⟨9, 6, .notReady, 1, 0, []⟩] ∧
      (Reply.frame ⟨9, 6, .notReady, 1, 0, []⟩).take 10 = [0xC3, 0, 7, 9, 6, 7, 0, 1, 0, 0] ∧
      (Reply.frame ⟨9, 6, .notReady, 1, 0, []⟩).length = 12 := by decide +kernel

theorem test_start_arms :
    ((after (.start 9 5) group).prog 0).st = .armed ∧ ((after (.start 9 5) group).prog 2).st = .armed ∧
      ((after (.start 9 5) group).prog 1).st = .idle := by decide +kernel

/-- R10: a width that 8 does not divide is field 3; the last field is accepted at its end of range. -/
theorem test_configure_program :
    replies (after (.configureProgram 1 3 { record with width := 724 }) up) =
        [.made ⟨1, 4, .outOfRange, 3, 0, []⟩] ∧
      ((after (.configureProgram 1 3 { record with slateCr := 1023 }) up).prog 3).record =
        some { record with slateCr := 1023 } := by decide +kernel

/-- R12, R15: STOP in RUNNING drains, in the present period. -/
theorem test_stop_drains :
    ((after (.stop 1 2) (withProgram 2 (program .running) up)).prog 2).st = .draining ∧
      replies (after (.stop 1 2) (withProgram 2 (program .running) up)) = [.made ⟨1, 7, .accepted, 0, 0, []⟩] := by
  decide +kernel

theorem test_abort_idles :
    ((after (.abort 1 2) (withProgram 2 (program .running) up)).prog 2).st = .idle ∧
      (after (.abort 1 2) (withProgram 2 (program .running) up)).link.latches.get 5 = true := by decide +kernel

/-! ### Tile coding: the worked tiles of chapter 3 -/

/-- Table A of the worked tiles, with the entries that the example does not name left at code 0000000000000000. -/
def tableA : List CodeEntry :=
  (List.range 130).map fun i =>
    if i = 0 then ⟨2, 3⟩ else if i = 1 then ⟨4, 4⟩ else if i = 10 then ⟨6, 13⟩ else if i = 32 then ⟨5, 14⟩
    else if i = 128 then ⟨6, 1⟩ else if i = 129 then ⟨2, 2⟩ else ⟨16, 0⟩

/-- A tile of equal rows. -/
def rowsOf (a b c d : Int) : Quad (Quad Int) := ⟨⟨a, b, c, d⟩, ⟨a, b, c, d⟩, ⟨a, b, c, d⟩, ⟨a, b, c, d⟩⟩

theorem test_flat_luma_tile :
    coefficients (rowsOf 88 88 88 88) = ⟨⟨1408, 0, 0, 0⟩, ⟨0, 0, 0, 0⟩, ⟨0, 0, 0, 0⟩, ⟨0, 0, 0, 0⟩⟩ ∧
      runPairs 0 (scanLevels (quantStep 20) (rowsOf 88 88 88 88)) = [(0, 29)] ∧
      (tileBits tableA [(0, 29)]).length = 24 := by decide +kernel

theorem test_edge_luma_tile :
    runPairs 0 (scanLevels (quantStep 20) (rowsOf 8 8 (-8) (-8))) = [(1, 3)] ∧
      tileBits tableA [(1, 3)] = [false, false, true, true, false, true, false, true, false] := by decide +kernel

theorem test_chroma_tile_with_offset :
    chromaIndex 18 2 = 20 ∧
      runPairs 0 (scanLevels (quantStep 20) (rowsOf 48 44 36 32)) = [(0, 13), (0, 2), (4, 1)] ∧
      runPairs 0 (scanLevels (quantStep 20) (rowsOf (-48) (-44) (-36) (-32))) = [(0, -13), (0, -2), (4, -1)] ∧
      (tileBits tableA [(0, 13), (0, 2), (4, 1)]).length = 35 ∧
      (tileBits tableA [(0, -13), (0, -2), (4, -1)]).length = 35 ∧
      runPairs 0 (dcLevels (quantStep 42) (rowsOf 48 44 36 32)) = [(0, 2)] ∧
      (tileBits tableA [(0, 2)]).length = 7 := by decide +kernel

/-- The tiles of "A slate slice at width 1,920": 24 bits for a Y tile, 2 for a chroma tile. -/
theorem test_slate_tiles :
    runPairs 0 (dcLevels (quantStep 20) (rowsOf (-448) (-448) (-448) (-448))) = [(0, -149)] ∧
      (tileBits tableA [(0, -149)]).length = 24 ∧ (tileBits tableA []).length = 2 ∧
      escapedPairs [[(0, -149)], []] = 1 := by decide +kernel

/-- The faults of "A load that fails three times", on the entries that the example names. -/
theorem test_table_checks :
    checkTable [⟨4, 4⟩, ⟨4, 19⟩, ⟨3, 2⟩] = .outOfRange 1 ∧ checkTable [⟨4, 4⟩, ⟨4, 3⟩, ⟨3, 2⟩] = .ambiguous 0 2 ∧
      checkTable [⟨4, 4⟩, ⟨5, 12⟩, ⟨7, 9⟩, ⟨7, 9⟩] = .ambiguous 2 3 ∧
      checkTable [⟨4, 4⟩, ⟨5, 12⟩, ⟨7, 9⟩, ⟨7, 10⟩] = .pass := by decide +kernel

/-! ### The budget and the rate loop: the worked runs of chapter 4 -/

/-- A path in a state with an estimate. -/
def pathIn (st : PathState) (estimate : Nat) : Path := { Path.reset with st := st, estimate := estimate }

/-- Programs A and B of the worked run, RUNNING. -/
def programA : Program := program .running
def programB : Program :=
  { programA with
    record := some { record with minRate := 3000, maxRate := 8000, weight := 1, buses := [2, 3], soundWidth := 16 } }

/-- The state of the worked run, its allocation tick due. -/
def worked : State :=
  withProgram 0 programA (withProgram 1 programB (withPath 0 (pathIn .up 18000) (withPath 1 (pathIn .up 12000)
    (withPath 2 (pathIn .up 6000) (withPath 3 (pathIn .probing 0)
      { up with tb := { Timebase.reset with allocDue := true } })))))

theorem test_run_above_the_minima :
    let a := (after .allocationTick worked).alloc
    (a.usable, a.sound, a.video, a.minSum) = (31500, 3840, 27404, 7000) ∧ a.shares.get 0 = 19303 ∧
      a.shares.get 1 = 8000 ∧ a.shares.get 2 = 0 ∧ a.spare = 101 ∧ a.clipRate = 101 ∧ a.starved = false := by
  decide +kernel

theorem test_run_below_the_minima :
    let s := after .allocationTick (withPath 0 (pathIn .down 0) (withPath 1 (pathIn .down 0)
      (withPath 2 (pathIn .up 8000) worked)))
    s.alloc.video = 2904 ∧ s.alloc.shares.get 0 = 1659 ∧ s.alloc.shares.get 1 = 1244 ∧ s.alloc.spare = 1 ∧
      s.alloc.starved = true ∧ s.link.latches.get 7 = true := by decide +kernel

/-- "The rate loop at the run above the minima": the picture start and the first slice. -/
theorem test_rate_loop_start :
    let l := loopStart 19303 (rateRow 6) record RateLoop.reset
    (l.target, l.sliceTarget, l.bound, l.cmax) = (322038, 2385, 386060, 1288152) ∧
      fullnessAfter { l with fullness := 47900 } 2900 = 48415 ∧ indexAfter record 386060 48415 20 = 21 ∧
      fullnessAfter { l with fullness := 48645 } 1900 = 48160 ∧ indexAfter record 386060 48160 23 = 23 := by
  decide +kernel

/-- "The rate loop when the share falls": the fullness saturates and the index climbs by two, up to qmax. -/
theorem test_rate_loop_share_falls :
    let l := loopStart 1659 (rateRow 6) record { RateLoop.reset with fullness := 40000 }
    (l.target, l.sliceTarget, l.bound, l.cmax) = (27677, 205, 33180, 110708) ∧ l.fullness = 33180 ∧
      fullnessAfter l 2500 = 33180 ∧ indexAfter record 33180 33180 23 = 25 ∧ indexAfter record 33180 33180 43 = 44 := by
  decide +kernel

/-! ### Sound: the worked examples of chapter 5 -/

/-- A slot port in a state, with a position and a lock count. -/
def slotAt (st : SlotState) (position : Option Nat) (lock : Nat) : SlotPort :=
  { SlotPort.reset with st := st, position := position, lock := lock }

/-- The three markers of "Locking and drifting" at slot count 8. -/
theorem test_slot_markers_lock :
    slotStep true 5 (slotAt .seeking none 0) = slotAt .seeking (some 0) 0 ∧
      slotStep true 5 (slotAt .seeking (some 7) 0) = slotAt .seeking (some 0) 1 ∧
      slotStep true 5 (slotAt .seeking (some 7) 1) = { slotAt .pending (some 0) 2 with partFrame := [5] } := by decide

/-- An ALIGNED port of one slot to a frame with 14 frames. -/
def fullSlots : State :=
  up.modSlot 1 fun q =>
    { q with st := .aligned, count := 1, position := some 0, lock := 2, buffer := List.replicate 14 [0] }

/-- R85: the append that brings the depth to 15, here by a marker, the one slot of its frame. -/
theorem test_slot_drifts_out :
    ((after (.slot 1 true 3) fullSlots).slot 1).st = .unaligned ∧
      ((after (.slot 1 true 3) fullSlots).slot 1).buffer.length = 15 ∧
      (after (.slot 1 true 3) fullSlots).link.latches.get 8 = true := by decide +kernel

/-- R84: the release keeps the 8 newest frames. -/
theorem test_slot_release :
    (releaseSlot { slotAt .pending (some 0) 2 with buffer := (List.range 16).map fun i => [BitVec.ofNat 24 i] }).buffer =
      [[8], [9], [10], [11], [12], [13], [14], [15]] := by decide +kernel

/-- "Two ramps". -/
theorem test_ramps :
    ((List.range 5).map fun n => (rampStep^[n] ⟨16384, 0, 4⟩).current) = [16384, 12288, 8192, 4096, 0] ∧
      ((List.range 5).map fun n => (rampStep^[n] ⟨0, 10, 4⟩).current) = [0, 2, 4, 7, 10] ∧
      ((List.range 3).map fun n => (rampStep^[n] (setCell 0 2 ⟨4, 10, 2⟩)).current) = [4, 2, 0] := by decide +kernel

/-- Inputs 0 and 1 with two samples, and cells 0 and 1 with two gains. -/
def twoInputs (x y : Int) : Vector Int 32 := Vec.put (Vec.put (Vector.replicate 32 0) 0 x) 1 y
def twoGains (x y : Nat) : Vector GainCell 32 :=
  Vec.put (Vec.put (Vector.replicate 32 GainCell.reset) 0 ⟨x, x, 0⟩) 1 ⟨y, y, 0⟩

/-- "Rounding and saturation". -/
theorem test_bus_sums :
    busSum (twoInputs 4000000 1000000) (twoGains 16384 16384) = 5000000 ∧
      busSum (twoInputs (-3) 0) (twoGains 8192 0) = -1 ∧ busSum (twoInputs (-1) 0) (twoGains 8192 0) = 0 ∧
      busSum (twoInputs 1 0) (twoGains 8192 0) = 1 ∧
      saturate min24 max24 (busSum (twoInputs 4000000 6000000) (twoGains 16384 24576)) = 8388607 := by decide +kernel

/-- "The first two dither values of bus 0 with seed 0". -/
theorem test_dither :
    (eightSteps stepA (loadA 0)).1 = 0 ∧ (eightSteps stepB (loadB 0 0)).1 = 66 ∧
      (eightSteps stepA (eightSteps stepA (loadA 0)).2).1 = 4 ∧
      (eightSteps stepB (eightSteps stepB (loadB 0 0)).2).1 = 0 ∧ narrow 1000000 (-66) = 3906 ∧
      narrow 1000000 4 = 3906 := by decide +kernel

/-- A sample tick on one bound input: half of 1,000 on bus 0, on the monitor at once. -/
theorem test_sample_tick :
    let s := (up.modSlot 0 fun q =>
      { q with st := .aligned, buffer := List.replicate 8 [1000, 0, 0, 0, 0, 0, 0, 0] }).modMixer fun m =>
        { m with
          bindings := Vec.put m.bindings 3 (some (0, 0))
          buses := Vec.put m.buses 0 { m.buses.get 0 with cells := Vec.put (m.buses.get 0).cells 3 ⟨8192, 8192, 0⟩ } }
    (after .sampleTick s).mixer.monOut = (500, 0) ∧ ((after .sampleTick s).slot 0).buffer.length = 7 := by
  decide +kernel

/-- The framer's take with 5 of 3 samples held, and with 8 held (R98, counts made small). -/
theorem test_framer_take :
    let f := fun l : List Int => { Framer.reset with filling := true, buffers := [l], lasts := [9] }
    (framerTake 5 (f [1, 2, 3])).1 = [[1, 2, 3, 3, 3]] ∧ (framerTake 5 (f [1, 2, 3])).2.holds = 1 ∧
      (framerTake 5 (f [1, 2, 3])).2.buffers = [List.replicate 16 3] ∧
      (framerTake 2 (f [1, 2, 3, 4, 5, 6, 7, 8])).2.buffers = [[5, 6, 7, 8]] ∧
      (framerTake 2 (f [1, 2, 3, 4, 5, 6, 7, 8])).2.slips = 1 := by decide +kernel

/-! ### The segment store: the worked examples of chapter 6 -/

/-- A SEALED segment of run 3 in retention alone. -/
def sealedSegment (n : Nat) (last : Option Nat) : Segment :=
  { newSegment n 3 0 0 with
    fill := 262144, isSealed := true, writer := false, pendingSend := false, retention := true, lastPicture := last }

/-- `up` at picture `n` with segment 17 in the chain of program 0, whose record's retention was 250 at the last tick and
has since been lowered. -/
def retaining (n : Nat) : State :=
  { withProgram 0 { program .running with record := some { record with retention := 1 } } up with
    tb := { Timebase.reset with picture := n, retentions := Vec.put Timebase.reset.retentions 0 (some 250) }
    store := { Store.reset with freeList := [19, 20] }
    chains := Vec.put up.chains 0 { Chain.reset with segs := [sealedSegment 17 (some 1006)] } }

/-- The two last rows of "One segment from take to free", by the retention of the last tick (R114). -/
theorem test_retention_release :
    ((after .retentionRelease (retaining 1256)).chain 0).segs = [sealedSegment 17 (some 1006)] ∧
      ((after .retentionRelease (retaining 1257)).chain 0).segs = [] ∧
      (after .retentionRelease (retaining 1257)).store.freeList = [19, 20, 17] ∧
      (tickTimebase 5 (retaining 1256)).tb.retentions.get 0 = some 1 := by decide +kernel

/-- "The store runs dry", takes 1 and 2: the second leaves the free count below the reserve of 2. -/
theorem test_take_below_reserve :
    let s := { up with store := { Store.reset with freeList := [40, 41, 42], reserve := 2 } }
    let t := takeSegment 1 0 s
    t.store.pressure = false ∧ t.store.freeList = [41, 42] ∧ (takeSegment 1 262144 t).store.pressure = true ∧
      (takeSegment 1 262144 t).link.latches.get 10 = true ∧ (takeSegment 1 262144 t).store.yields = 1 := by
  decide +kernel

/-- Its step 5: a take from an empty list cuts the picture, and the rest of the picture is refused without a take. -/
theorem test_cut_picture :
    let s := { up with store := { Store.reset with freeList := [] } }
    let t := (offerUnit 1 (repeatUnit 3210) s).2
    (offerUnit 1 (repeatUnit 3210) s).1 = false ∧ (t.chain 1).cut = some 3210 ∧ (t.chain 1).cuts = 1 ∧
      t.link.latches.get 11 = true ∧ (offerUnit 1 (repeatUnit 3210) t).2.store.refused = 1 := by decide +kernel

/-- A REPEAT unit of picture 7 in a segment whose room ends inside it (R110, R215): 9 bytes, kind 3, 4 of them in the
old segment. -/
def nearlyFull : State :=
  { withProgram 0 { program .running with run := 3, streamOffset := 262140 } up with
    chains := Vec.put up.chains 0 { Chain.reset with segs := [{ newSegment 5 3 0 0 with fill := 262140 }] } }

theorem test_unit_crosses_segments :
    let t := (offerUnit 0 (repeatUnit 7) nearlyFull).2
    streamBytes 0 3 262140 9 t = [3, 0, 0, 0, 9, 0, 0, 0, 7] ∧ ((t.chain 0).segs.map Segment.fill) = [262144, 5] ∧
      ((t.chain 0).segs.map Segment.isSealed) = [true, false] ∧ (t.prog 0).streamOffset = 262149 ∧
      (marksOf (t.chain 0).segs) = [⟨.repeated, 7, 262140⟩] := by decide +kernel

/-- R117, R122: a reserve above the free count sets the pressure flag. -/
theorem test_set_reserve :
    (after (.setReserve 1 3) { up with store := { Store.reset with freeList := [1, 2] } }).store.pressure = true ∧
      (after (.setReserve 1 2) { up with store := { Store.reset with freeList := [1, 2], pressure := true } }).store.pressure
        = false := by decide +kernel

/-! ### Uplink paths: the worked examples of chapter 7 -/

/-- "The first probe of path L2": its first three payload bytes. -/
theorem test_probe_payload :
    probeSeed 1 2 = 10 ∧ probeBytes 3 (BitVec.ofNat 23 (probeSeed 1 2)) = [0, 2, 148] := by decide +kernel

/-- R126, R129, R130: ENABLE_PATH without and with a carrier, and carrier gained in DOWN. -/
theorem test_enable_path :
    ((after (.enablePath 1 4) up).path 4).st = .down ∧
      ((after (.carrierGained 4) (after (.enablePath 1 4) up)).path 4).st = .probing ∧
      ((after (.enablePath 1 4) (withPath 4 { Path.reset with carrier := true } up)).path 4).st = .probing := by
  decide +kernel

/-- Rows 1, 2 and 5 of "An estimate falls and recovers". -/
theorem test_estimate_falls_and_recovers :
    let up1 := fun (sent granted : Nat) (p : Path) =>
      withPath 1 { p with carrier := true, packetsSent := 900, bitsSent := sent, bitsGranted := granted } up
    let r1 := (takeEntry 1 ⟨1, 950, 40⟩ (up1 1000000 1200000 (pathIn .up 12000))).path 1
    let r2 := (takeEntry 1 ⟨1, 900, 80⟩ (up1 0 0 { pathIn .up 12375 with credit := 120000 })).path 1
    let r5 := (takeEntry 1 ⟨1, 450, 5⟩ (up1 500000 987100 { pathIn .degraded 9871 with good := 2 })).path 1
    (r1.estimate, r1.st) = (12375, .up) ∧ (r2.estimate, r2.st, r2.good, r2.bad) = (9282, .degraded, 0, 0) ∧
      r2.credit = 92820 ∧ (r5.estimate, r5.st, r5.good) = (9871, .up, 0) := by decide +kernel

/-- "A modem that holds carrier and carries nothing", reports 1 and 3. -/
theorem test_empty_reports :
    let s := fun p : Path => withPath 4 { p with carrier := true, packetsSent := 5 } up
    let r1 := (takeEntry 4 ⟨4, 0, 0⟩ (s (pathIn .up 3000))).path 4
    let r3 := (takeEntry 4 ⟨4, 0, 0⟩ (s { pathIn .degraded 1688 with bad := 2 })).path 4
    (r1.estimate, r1.st, r1.bad) = (2250, .degraded, 1) ∧ (r3.estimate, r3.st, r3.credit) = (0, .down, 0) := by
  decide +kernel

/-- A report of number 1 and ack 88,060 with no other part, and its address and type (R216). -/
def reportFrame : List Byte :=
  List.replicate 12 0 ++ u16 0x88B5 ++ ([1, 4] ++ u16 1 ++ u32 88060 ++ [0, 0, 0])
    ++ u16 (crc16 ([1, 4] ++ u16 1 ++ u32 88060 ++ [0, 0, 0]))

/-- R138, R216: a report is taken once; a frame cut short is malformed. -/
theorem test_report :
    let s := withPath 2 (pathIn .down 0) up
    let t := after (.report 2 reportFrame) s
    t.uplink.lastReport = some 1 ∧ t.uplink.accepted = 1 ∧ (after (.report 2 reportFrame) t).uplink.stale = 1 ∧
      ((after (.report 2 (reportFrame.take 26)) s).path 2).malformed = 1 := by decide +kernel

/-! ### The scheduler and the resend window: the worked examples of chapter 8 -/

/-- `up` with entry 7,000 of "One live packet's history" in the window, at a pacing count. -/
def history (send pacing resends : Nat) (queued : Bool) : State :=
  { up with
    tb := { Timebase.reset with pacing := pacing }
    sched := { Scheduler.reset with
      nextSend := 8000, window := [⟨send, .live 0 1 17 0 1280, 2, 10000, resends, queued⟩] } }

/-- The reports at 10,120 and 10,360. -/
theorem test_lost_entries :
    (applyLosses [⟨6990, 7003⟩] (history 7000 10120 0 false)).sched.window.map Entry.queued = [true] ∧
      (applyLosses [⟨7690, 7690⟩] (history 7690 10360 2 false)).sched.window = [] ∧
      (applyLosses [⟨7690, 7690⟩] (history 7690 10360 2 false)).sched.abandoned = [7690] ∧
      (applyLosses [⟨7690, 7690⟩] (history 7690 10360 2 false)).sched.byLoss = 1 := by decide +kernel

/-- The age expiry that the pacing tick at 10,400 would have taken, and not the one at 10,399; a deadline lowered since
the last tick acts at the next one. -/
theorem test_entry_age_expiry :
    (after (.entryAgeExpiry 7690) (history 7690 10400 2 false)).sched.byAge = 1 ∧
      (after (.entryAgeExpiry 7690) (history 7690 10399 2 false)).sched.window.length = 1 ∧
      (let s := (history 7690 10100 2 false).modSched fun c => { c with deadline := 100 }
      (after (.entryAgeExpiry 7690) s).sched.window.length = 1 ∧
        ∀ b, (pacingTickWith b s).sched.window.length = 0) := by decide +kernel

/-- The report at 10,380: a late ack. -/
theorem test_late_ack :
    let s := up.modSched fun c => { c with abandoned := [7690, 7701] }
    (applyAck 7700 s).sched.lateAcks = 1 ∧ (applyAck 7700 s).sched.abandoned = [7701] := by decide

/-- "Skipping with every path down": 10 pictures of 40 ms are not stale at 400 ms, 11 are. -/
theorem test_staleness :
    isStale { up with tb := { Timebase.reset with picture := 2015 } } 2005 = false ∧
      isStale { up with tb := { Timebase.reset with picture := 2016 } } 2005 = true := by decide

/-- The lengths of "Shipping a clip from the bucket", and of R134. -/
theorem test_packet_bits : packetBits 1280 = 10464 ∧ packetBits 320 = 2784 ∧ packetBits probePayload = 8416 := by decide

/-- The header, the check and the addressing of a packet (R214): 14 bytes before it, and no padding at 60 bytes. -/
theorem test_ethernet_frame :
    let h : Header :=
      { cls := 2, program := 1, clip := 255, run := 6, path := 3, flags := 1, revision := 0, sequence := 258, send := 7,
        reference := 1280, picture := 9 }
    ((ethernetFrame 3 (packetBytes h (List.replicate 18 5))).take 40) =
        [255, 255, 255, 255, 255, 255, 2, 0, 0, 70, 0, 3, 0x88, 0xB5, 1, 2, 1, 255, 6, 3, 1, 0, 1, 2, 0, 0, 0, 7, 0, 0, 0,
          0, 5, 0, 0, 18, 0, 0, 0, 9] ∧
      (ethernetFrame 3 (packetBytes h (List.replicate 18 5))).length = 60 ∧
      (ethernetFrame 3 (packetBytes h [])).length = 60 := by decide +kernel

/-! ### The clip log: rules and worked examples of chapter 9 -/

/-- A clip of program 0, run 6. -/
def clipIn (st : ClipState) : Clip :=
  { st := st, program := 0, run := 6, creation := 5, source := .host, inPicture := 3000, inTimecode := timecodeZero,
    inOffset := 100, outPicture := none, outTimecode := none, outOffset := none, requestedOut := none,
    shipAtClose := false, text := [], tags := [], rating := 0, yieldable := true, trimmed := false, revision := 255,
    label := .confirmed, shipCursor := none, pinned := [] }

/-- `up` at picture 3,050 with program 0 RUNNING in run 6 and clip 9 given. -/
def withClip (k : Clip) : State :=
  { withProgram 0 { program .running with run := 6, streamOffset := 500, firstPicture := some 2900 } up with
    tb := { Timebase.reset with picture := 3050 }
    clips := { ClipLog.reset with recs := Vec.put ClipLog.reset.recs 9 (some k) } }

/-- R177 to R179 in a run without a segment: the current picture at the stream offset, TRIMMED as the picture asked
for is older; the lowest FREE record is 0. -/
theorem test_mark_in :
    let t := after (.markIn 1 0 1 60 0) (withClip (clipIn .closed))
    (t.clips.recs.get 0).map (fun k => (k.st, k.inPicture, k.inOffset, k.trimmed)) = some (.opened, 3050, 500, true) ∧
      t.link.latches.get 13 = true ∧ (t.chain 0).openClips = 1 := by decide +kernel

theorem test_mark_in_refused :
    replies (after (.markIn 1 0 0 3000 0) (withClip (clipIn .opened))) = [.made ⟨1, 38, .clipOpen, 9, 0, []⟩] ∧
      replies (after (.markIn 1 1 0 3000 0) (withClip (clipIn .opened))) = [.made ⟨1, 38, .wrongState, 1, 0, []⟩] := by
  decide +kernel

/-- R180, R182: MARK_OUT with now waits for the end of the period. -/
theorem test_mark_out_now :
    let t := after (.markOut 1 0 1 0) (withClip (clipIn .opened))
    (t.clips.recs.get 9).map (fun k => (k.st, k.requestedOut)) = some (.closing, some 3050) ∧
      replies t = [.made ⟨1, 39, .done, 0, 0, [9, 0, 0, 11, 234, 2]⟩] := by decide +kernel

/-- R181: a picture whose period has ended, without SOUND unit or later head: the end of the stream. -/
theorem test_mark_out_ended :
    let t := after (.markOut 1 0 0 3049) (withClip (clipIn .opened))
    (t.clips.recs.get 9).map (fun k => (k.st, k.outPicture, k.outOffset)) = some (.closed, some 3049, some 500) := by
  decide +kernel

/-- R182: the period end of picture 3,049. -/
theorem test_period_end :
    let t := after (.periodEnd 0) (withClip { clipIn .closing with requestedOut := some 3049 })
    (t.clips.recs.get 9).map (fun k => (k.st, k.outPicture, k.outOffset)) = some (.closed, some 3049, some 500) := by
  decide +kernel

/-- R187, R188: the revision wraps from 255 to 0, and the label is PENDING in the queue. -/
theorem test_set_label :
    let t := after (.setLabel 1 9 [65, 126] [3, 17] 5 0) (withClip (clipIn .closed))
    (t.clips.recs.get 9).map (fun k => (k.revision, k.label, k.rating)) = some (0, .pending, 5) ∧
      t.sched.labelQueue = [9] ∧
      replies (after (.setLabel 1 9 [31] [] 0 0) (withClip (clipIn .closed))) = [.made ⟨1, 41, .outOfRange, 2, 0, []⟩] := by
  decide +kernel

/-- R189, R190: a CLOSED clip ships at once; an empty range is complete in the same event. -/
theorem test_ship :
    let s := fun out => withClip { clipIn .closed with outOffset := some out }
    ((after (.ship 1 9) (s 400)).clips.recs.get 9).map Clip.st = some .shipping ∧
      (after (.ship 1 9) (s 400)).sched.clipCursor = some ⟨9, 0, 6, 400, 100⟩ ∧
      ((after (.ship 1 9) (s 100)).clips.recs.get 9).map Clip.st = some .shipped ∧
      (after (.ship 1 9) (s 100)).link.latches.get 14 = true := by decide +kernel

/-- R192. -/
theorem test_cancel_ship :
    let s := after (.ship 1 9) (withClip { clipIn .closed with outOffset := some 400 })
    ((after (.cancelShip 1 9) s).clips.recs.get 9).map Clip.st = some .closed ∧
      (after (.cancelShip 1 9) s).sched.clipCursor = none ∧
      replies (after (.cancelShip 1 9) (withClip (clipIn .shipped))) = [.made ⟨1, 43, .wrongState, 9, 0, []⟩] := by
  decide +kernel

/-- R193. -/
theorem test_release :
    (after (.release 1 9) (withClip (clipIn .queued))).clips.recs.get 9 = none ∧
      (after (.release 1 9) (withClip (clipIn .queued))).clips.released = 1 := by decide +kernel

/-- R186: a press on an unbound line is refused, and one within 200 pacing ticks is a bounce. -/
theorem test_mark_line_press :
    ((after (.markLinePress 1) up).line 1).refused = 1 ∧
      ((after (.markLinePress 1) ((withClip (clipIn .opened)).modLine 1 fun m =>
        { m with binding := some 0, lastPress := some 4294967096 })).line 1).bounces = 1 ∧
      ((after (.markLinePress 1) ((withClip (clipIn .opened)).modLine 1 fun m =>
        { m with binding := some 0, lastPress := some 4294967095 })).line 1).presses = 1 := by decide +kernel

/-! ### The control link: rules and worked examples of chapter 10 -/

/-- R209, R211: the READY notice takes number 1 and carries the names and limits. -/
theorem test_ready_notice :
    (after .linkReady State.reset).link.notices =
      [⟨1, 255, 0, 0, [7, 87, 101, 122, 109, 105, 114, 97, 6, 65, 78, 45, 52, 54, 48, 1, 16, 32, 32, 4, 0]⟩] := by
  decide +kernel

/-- R200: the check of the nine bytes "123456789" is AEE7 for this code with this start (PRESUMED: the catalogued check
value of CRC-16/CMS; the manual gives no example). -/
theorem test_check_code : crc16 [49, 50, 51, 52, 53, 54, 55, 56, 57] = 0xAEE7 := by decide +kernel

/-- R201: a stray run, a start byte, a bad length, and a run right after it: two LINK_ERRORs. -/
theorem test_link_errors :
    (after (.inboundFrame 0 [1, 2, 0, 0xC3, 0, 1, 9, 9]) up).link.linkErrors = 2 ∧
      (after (.inboundFrame 0 [0, 0, 0]) up).link.linkErrors = 0 := by decide +kernel

/-- R200 to R203: the frame of STOP for program 3 is carried out; with a wrong check it is not. -/
theorem test_inbound_frame :
    replies (after (.inboundFrame 0 (frameBytes 5 7 [3])) up) = [.made ⟨5, 7, .done, 0, 0, []⟩] ∧
      replies (after (.inboundFrame 0 [0xC3, 0, 3, 5, 7, 3, 0, 0]) up) = [] := by decide +kernel

/-- R203: a body of the wrong length, and a kind that names no request. -/
theorem test_bad_requests :
    replies (after (.inboundFrame 0 (frameBytes 5 7 [])) up) = [.made ⟨5, 7, .badLength, 0, 0, []⟩] ∧
      replies (after (.unknownKind 5 255) up) = [.made ⟨5, 255, .unknownKind, 255, 0, []⟩] := by decide +kernel

/-- `up` with `r` made replies and `q` requests waiting, as in "A burst that overruns the queues". -/
def burst (r q : Nat) : State :=
  up.modLink fun l =>
    { l with replies := List.replicate r (.made ⟨1, 46, .done, 0, 0, []⟩), requests := List.replicate q ⟨2, .listClips⟩ }

/-- Its rows 33 and 49, and a reply sent whole, which lets the processor take a request. -/
theorem test_burst :
    (after (.listClips 33) (burst 32 0)).link.requests.length = 1 ∧
      (after (.listClips 49) (burst 32 16)).link.queueFull = 1 ∧
      (after (.listClips 49) (burst 32 16)).link.droppedReplies = 1 ∧
      (after (.outboundFrameSent 0) (burst 32 16)).link.requests.length = 15 ∧
      (after (.outboundFrameSent 0) (burst 32 16)).link.replies.length = 32 := by decide +kernel

/-- R208: "Polling and notices together", the last two rows. -/
theorem test_status :
    let s := raise .storePressure [] (raise .pathState [] (raise .pathState [] up))
    (after (.status 1 1024) s).link.latches.get 10 = false ∧ (after (.status 1 1024) s).link.latches.get 12 = true ∧
      (after (.status 1 4096) s).link.raises.get 12 = 2 := by decide +kernel

/-- R211; log entry 3: a hard reset keeps the carrier inputs. -/
theorem test_hard_reset :
    ((after .hardReset (withPath 3 { pathIn .up 900 with carrier := true } up)).path 3).carrier = true ∧
      ((after .hardReset (withPath 3 { pathIn .up 900 with carrier := true } up)).path 3).st = .off ∧
      (after .hardReset up).link.ready = false := by decide +kernel

/-- R210: RESTART takes a RUNNING program to IDLE and keeps the path's estimate. -/
theorem test_restart :
    let t := after (.restart 1) (withPath 3 { pathIn .up 900 with credit := 9 } (withClip (clipIn .opened)))
    (t.prog 0).st = .idle ∧ (t.path 3).estimate = 900 ∧ (t.path 3).credit = 0 ∧
      (t.clips.recs.get 9).map Clip.st = some .closed ∧ t.alloc.cause = some .restart := by decide +kernel

/-! ### Witnesses: a state and operands that meet the hypotheses of each statement, clause by clause -/

theorem up_free : Free up := ⟨rfl, rfl, by decide +kernel⟩

/-- A state with one command waiting, and the state after it. -/
def waiting : State := { up with pending := [.linkReady] }

theorem witness_StepRunsFrontCommand : waiting.pending = .linkReady :: [] ∧ up.pending = [] := ⟨rfl, rfl⟩

theorem waiting_step : step waiting = .next up := rfl

theorem waiting_segments : SegmentsConserved waiting := by
  show (Store.reset.freeList ++ _).Perm _
  have h : ∀ p, chainNumbers (waiting.chain p) = [] := by decide +kernel
  rw [h 0, h 1, h 2, h 3]
  simp [Store.reset, Config.segmentCount]

theorem waiting_bounds : WindowBounded waiting ∧ PathsBounded waiting ∧ LinkBounded waiting := by
  refine ⟨?_, ?_, ?_⟩
  · unfold WindowBounded; decide +kernel
  · unfold PathsBounded PathBounded; decide +kernel
  · unfold LinkBounded; decide +kernel

theorem up_times : TimebaseOrdered up := by
  refine ⟨by decide +kernel, fun d hd => ?_, ?_⟩
  · cases hd
    decide +kernel
  · decide +kernel

theorem witness_MemoryStaysCanonical : MemoryCanonical waiting ∧ step waiting = .next up := ⟨rfl, rfl⟩

theorem witness_SegmentsStayConserved : SegmentsConserved waiting ∧ step waiting = .next up :=
  ⟨waiting_segments, rfl⟩

theorem witness_BoundsAreKept :
    step waiting = .next up ∧ WindowBounded waiting ∧ PathsBounded waiting ∧ LinkBounded waiting ∧
      TimebaseOrdered waiting :=
  ⟨rfl, waiting_bounds.1, waiting_bounds.2.1, waiting_bounds.2.2, up_times⟩

theorem witness_IdleProgramsAreArmedFirst : (waiting.prog 2).st = .idle ∧ step waiting = .next up :=
  ⟨by decide +kernel, rfl⟩

/-- `up` in LOCKED, without a due tick, last tick at 1,000 ms. -/
def lockedAt : State :=
  { up with tb := { Timebase.reset with ref := .locked, due := none, now := ms 1000, lastTick := ms 1000, rate := 6 } }

theorem witness_SetStationSetsTheRate :
    Free up ∧ Free (withProgram 1 (program .armed) up) ∧ Free lockedAt ∧
      (7 < 8 ∧ (rateRow (Fin.ofNat 8 2)).dropAllowed = false ∧ 1 < 2 ∧ (rateRow (Fin.ofNat 8 6)).dropAllowed = true ∧
        ((withProgram 1 (program .armed) up).prog 1).st ≠ .idle ∧
        (∀ q : Fin 4, q < 1 → ((withProgram 1 (program .armed) up).prog q).st = .idle) ∧
        (∀ p : Fin 4, (up.prog p).st = .idle) ∧ lockedAt.tb.ref = .locked ∧
        (∀ p : Fin 4, (lockedAt.prog p).st = .idle) ∧ up.tb.ref = .freeRun ∧
        max up.tb.now 6256249 < up.tb.lastTick + nominalPeriod (rateRow 6) ∧
        up.tb.lastTick + nominalPeriod (rateRow 6) ≤ max up.tb.now 6256250) :=
  ⟨up_free, up_free, up_free, by decide +kernel⟩

theorem witness_SetTimecodePlacesLoad :
    Free dropStation ∧ (dropStation.tb.drop = true → dropStation.tb.rate = 3 ∨ dropStation.tb.rate = 6) ∧
      labelAllowed dropStation.tb ⟨23, 59, 59, 29⟩ = true ∧ labelAllowed dropStation.tb ⟨23, 59, 59, 30⟩ = false ∧
      labelAllowed dropStation.tb ⟨0, 1, 0, 2⟩ = true ∧ labelAllowed dropStation.tb ⟨0, 1, 0, 1⟩ = false ∧
      ({ Timebase.reset with load := some ⟨0, 1, 0, 2⟩ } : Timebase).load = some ⟨0, 1, 0, 2⟩ :=
  ⟨⟨rfl, rfl, by decide +kernel⟩, by decide +kernel⟩

theorem witness_ReferencePulseTicksOrRephases :
    let P := nominalPeriod (rateRow lockedAt.tb.rate)
    P ≤ 2 * (max lockedAt.tb.now (ms 1000 + 3128125) - lockedAt.tb.lastTick) ∧
      2 * (max lockedAt.tb.now (ms 1000 + 3128124) - lockedAt.tb.lastTick) < P := by decide +kernel

theorem witness_DueTickMakesATick : up.tb.due = some 15000000 ∧ lockedAt.tb.due = none := ⟨rfl, rfl⟩

theorem witness_ReferenceLossTicksAndRunsFree : lockedAt.tb.ref = .locked ∧ lockedAt.tb.due = none := ⟨rfl, rfl⟩

theorem locked_times : TimebaseOrdered lockedAt := by
  refine ⟨by decide +kernel, fun d hd => ?_, by decide +kernel⟩
  cases hd

theorem witness_NoPeriodShorterThanHalf :
    let content : List Byte := [9, 1, 6, 1]
    TimebaseOrdered lockedAt ∧ (∃ t, exec .referenceLossExpiry lockedAt = .next t) ∧
      (∀ b, (pictureTickWith b 5 lockedAt).tb.picture ≠ lockedAt.tb.picture) ∧
      content ++ u16 (crc16 (u16 4 ++ content)) <:+: frameBytes 9 1 [6, 1] ∧ readRequest 1 [6, 1] = .setStation 6 1 :=
  ⟨locked_times, ⟨_, rfl⟩, by decide +kernel⟩

/-- A path in UP with a frame going out and credit one tick below its cap. -/
def busyPath : Path := { pathIn .up 900 with credit := 8100, port := some [], silence := 998, carrier := true }

/-- Paths 4 and 5 PROBING, one with a busy port and one idle and one bit short of a probe after the tick. -/
def pacing : State :=
  withPath 4 { pathIn .probing 0 with probeRate := 1000, credit := 7000, port := some [] }
    (withPath 5 { pathIn .probing 0 with probeRate := 1000, credit := 7415 } (withPath 3 busyPath up))

theorem witness_PacingTickCountsAndRefills :
    pacing.tb.allocDue = false ∧ (pacing.path 2).st = .off ∧ (pacing.path 3).st = .up ∧ (pacing.path 3).port ≠ none ∧
      (pacing.path 4).st = .probing ∧ (pacing.path 4).port ≠ none ∧ (pacing.path 5).st = .probing ∧
      min ((pacing.path 5).credit + 1000) (1000 * (pacing.path 5).burst) < 8416 ∧
      (∀ l, (pacing.path l).silence + 1 < pacing.uplink.silenceTimeout) ∧
      (∀ q, (pacing.live q).cursor = none ∧ (pacing.prog q).st ≠ .draining) ∧ pacing.sched.window = [] ∧
      pacing.sched.labelQueue = [] ∧ pacing.sched.clipCursor = none ∧ pacing.clips.shipQueue = [] := by decide +kernel

theorem record_in_range : RecordInRange record where
  port := by decide
  width := by decide
  height := by decide
  table := by decide
  chromaOffset := by decide
  indices := by decide
  buffer := by decide
  ceiling := by decide
  rates := by decide
  weight := by decide
  buses := by decide
  soundWidth := by decide
  retention := by decide
  hold := by decide
  slate := by decide

theorem record_out_of_range : ¬RecordInRange { record with minRate := 20001 } := fun h => by
  have := h.rates
  revert this
  decide

theorem witness_RecordRequestsWriteOneRecord :
    Free group ∧ RecordInRange record ∧ ¬RecordInRange { record with minRate := 20001 } ∧
      ((group.prog 0).record = some record ∧ (group.prog 0).st = .idle ∧ (group.prog 1).record = none ∧
        ((withProgram 0 (program .draining) group).prog 0).st ≠ .idle ∧ (group.table 0).st = .ready ∧
        (group.table 1).st ≠ .ready ∧ 3 < 4 ∧ 1 < 2 ∧ 255 < 256 ∧ 1023 < 1024 ∧ 65535 < 65536) :=
  ⟨⟨rfl, rfl, by decide +kernel⟩, record_in_range, record_out_of_range, by decide +kernel⟩

theorem witness_SetRateLimitsRunsTheAllocator :
    Free group ∧ (3 ≤ 3 ∧ 500 ≤ 500 ∧ 500 ≤ 400000 ∧ 400000 ≤ 400000 ∧ 1 ≤ 15 ∧ 15 ≤ 15) ∧ ¬(501 ≤ 500) ∧
      (group.prog (Fin.ofNat 4 3)).record = none ∧ (group.prog (Fin.ofNat 4 2)).record = some record :=
  ⟨⟨rfl, rfl, by decide +kernel⟩, by decide +kernel⟩

theorem witness_StartArmsTheGroup :
    Free group ∧ 15 < 16 ∧ (7 : Nat).testBit 1 = true ∧ startOffence 1 group = some .notReady ∧
      (∀ q : Fin 4, q < 1 → (7 : Nat).testBit q.1 = true → startOffence q group = none) ∧
      ∀ p : Fin 4, (5 : Nat).testBit p.1 = true → startOffence p group = none :=
  ⟨⟨rfl, rfl, by decide +kernel⟩, by decide +kernel⟩

/-- Program 3 ARMED with buses 0 and 1, and slot ports with 8 frames and with 7. -/
def releasing : State :=
  let port := fun n (q : SlotPort) => { q with st := SlotState.unaligned, buffer := List.replicate n [0] }
  ((withProgram 3 { program .armed with run := 255 } up).modSlot 1 (port 8)).modSlot 2 (port 7)

theorem witness_TickReleasesArmedPrograms :
    releasing.tb.due = some 15000000 ∧ (releasing.prog 3).st = .armed ∧ (releasing.prog 3).record = some record ∧
      ((releasing.slot 1).st = .unaligned ∧ 8 ≤ (releasing.slot 1).buffer.length) ∧
      ¬(8 ≤ (releasing.slot 2).buffer.length) ∧ 1 ∈ record.buses ∧ 2 ∉ record.buses ∧
      ∀ p, (releasing.prog p).st = .armed → p = 3 := by decide +kernel

theorem witness_StopAndAbortLeaveTheRun :
    Free up ∧ Free (withProgram 0 (program .running) up) ∧ (up.prog 0).st = .idle ∧
      ((withProgram 0 (program .draining) up).prog 0).st = .draining ∧
      ((withProgram 0 (program .armed) up).prog 0).st = .armed ∧
      ((withProgram 0 (program .running) up).prog 0).st = .running :=
  ⟨up_free, up_free, by decide +kernel⟩

/-- A DRAINING program of run 2, 40 bytes long. -/
def draining (ended : Bool) : State :=
  { withProgram 1
      { program .draining with run := 2, streamOffset := 40, drainPicture := some 4294967295, writingEnded := ended } up with
    lives := Vec.put up.lives 1 { Live.reset with cursor := some (2, 40) } }

theorem witness_DrainEndsInIdle :
    ((draining false).prog 1).st = .draining ∧ ((draining false).prog 1).writingEnded = false ∧
      ((draining false).prog 1).drainPicture ≠ some (draining false).tb.picture ∧ ((draining false).coder 1).list = [] ∧
      ((draining false).intake 1).taking = none ∧ ((draining true).prog 1).writingEnded = true ∧
      ((draining true).live 1).cursor = some (((draining true).prog 1).run, ((draining true).prog 1).streamOffset) := by
  decide +kernel

/-- Program 0 alone RUNNING, its OPEN segment empty, and `m` samples of each of its two buses in the framer. -/
def ending (i : Intake) (m : Nat) : State :=
  { withProgram 0 { program .running with record := some { record with width := 8, height := 8 }, run := 3 } up with
    intakes := Vec.put up.intakes 0 i
    tables := Vec.put up.tables 0 ⟨.ready, (List.range 130).map fun i => ⟨8, i⟩, some .pass⟩
    framers := Vec.put up.framers 0
      { Framer.reset with filling := true, buffers := [List.replicate m 5, List.replicate m (-6)], lasts := [5, -6] }
    chains := Vec.put up.chains 0 { Chain.reset with segs := [newSegment 5 3 0 0] } }

theorem witness_TickEndsThePeriod :
    let r := { record with width := 8, height := 8 }
    let coded := { Intake.reset with codedInRun := true, missing := 2 }
    let flat : List Line := List.replicate 8 ⟨List.replicate 8 64, List.replicate 4 512, List.replicate 4 512⟩
    let s := ending Intake.reset 1920
    let payload := slicePayload (s.table 0).entries (slicePairs flat 0 2 true)
    s.tb.due = some 15000000 ∧ (s.prog 0).st = .running ∧ (s.prog 0).record = some r ∧
      (s.intake 0).accepted = false ∧ ¬((s.intake 0).codedInRun = true ∧ min ((s.intake 0).missing + 1) 65535 ≤ 3) ∧
      (coded.codedInRun = true ∧ min (coded.missing + 1) 65535 ≤ 3) ∧ coded.accepted = false ∧
      ({ Intake.reset with accepted := true } : Intake).accepted = true ∧
      (∀ q, q ≠ 0 → (s.prog q).st = .idle ∧ (s.intake q).taking = none) ∧ (s.intake 0).taking = none ∧
      (s.coder 0).list = [] ∧ (s.coder 0).coding = none ∧ (s.chain 0).cut ≠ some s.tb.picture ∧
      openSeg 0 s = some (newSegment 5 3 0 0) ∧ (newSegment 5 3 0 0).writer = true ∧ (s.framer 0).buffers.length = 2 ∧
      (s.framer 0).lasts.length = 2 ∧ (∀ b ∈ (s.framer 0).buffers, b.length = 1920) ∧ (s.coder 0).qi = 0 ∧
      0 + 1920 ≤ 1920 ∧ (∀ b ∈ ((ending coded 1919).framer 0).buffers, b.length = 1919) ∧ 1919 < 1920 ∧
      0 + ((21 + (16 + payload.length)) + (13 + 1920 * 2 * 3)) ≤ 262144 := by decide +kernel

theorem witness_AllocationTickDividesTheBudget :
    (worked.tb.allocDue = true ∧ up.tb.allocDue = false ∧ (worked.prog 1).st = .running ∧
        (worked.prog 0).record = some record ∧ (worked.prog 2).st ≠ .running) ∧
      (∃ c k, (withClip (clipIn .queued)).clips.recs.get c = some k ∧ (k.st = .queued ∨ k.st = .shipping)) ∧
      ¬∃ c k, up.clips.recs.get c = some k ∧ (k.st = .queued ∨ k.st = .shipping) := by
  have h : ∀ c, up.clips.recs.get c = none := by decide +kernel
  refine ⟨by decide +kernel, ⟨9, clipIn .queued, by decide +kernel⟩, ?_⟩
  rintro ⟨c, k, hk, _⟩
  rw [h c] at hk
  cases hk

/-- The only configured program of a state. -/
theorem only_program (p : Fin 4) (g : Program) (s : State) (hs : ∀ j, (s.prog j).record = none) (j : Fin 4)
    (r : ProgramRecord) (hj : j ≠ p) (h : ((withProgram p g s).prog j).record = some r) : False := by
  have : (withProgram p g s).prog j = s.prog j := by
    simp only [withProgram, State.prog, Vec.put, Vector.get]
    exact Vector.getElem_set_ne _ _ (fun h => hj (Fin.ext h.symm))
  rw [this, hs j] at h
  cases h

theorem up_unconfigured : ∀ j, (up.prog j).record = none := by decide +kernel

theorem witness_SharesMakeUpTheVideoBudget :
    ∀ p r, ((withProgram 0 programA up).prog p).st = .running →
      ((withProgram 0 programA up).prog p).record = some r → r.minRate ≤ r.maxRate := by
  intro p r _ h
  by_cases hp : p = 0
  · subst hp
    have : ((withProgram 0 programA up).prog 0).record = some record := by decide +kernel
    rw [this] at h
    cases h
    decide
  · exact (only_program 0 programA up up_unconfigured p r hp h).elim

/-- `up` with a picture port given. -/
def withPort (i : Fin 4) (q : PicturePort) (s : State) : State := { s with ports := Vec.put s.ports i q }

/-- A port in a state, with its candidate, its locked format and its open picture. -/
def portIn (st : PortState) (candidate locked : Option Format) (m : Option Measure) : PicturePort :=
  { PicturePort.reset with st := st, candidate := candidate, locked := locked, opened := m }

theorem witness_MarkersMoveThePort :
    let f : Format := ⟨4095, 2047⟩
    let q := fun st c l m => (withPort 2 (portIn st c l (some m)) up).port 2
    (up.port 2).opened = none ∧ (up.port 2).st = .noSignal ∧
      ((q .locking (some f) none ⟨2047, 4095, true⟩).st = .locking ∧
        (q .locking (some f) none ⟨2047, 4095, true⟩).candidate = some ⟨4095, 2047⟩) ∧
      (q .locking (some f) none ⟨1, 0, true⟩).candidate ≠ some ⟨0, 1⟩ ∧
      ¬(1 ≤ 2048 ∧ 2048 ≤ 2047 ∧ true = true ∧ 4095 ≤ 4095) ∧ ¬(1 ≤ 1 ∧ 1 ≤ 2047 ∧ true = true ∧ 4096 ≤ 4095) ∧
      (q .locked none (some f) ⟨2047, 4095, true⟩).locked = some ⟨4095, 2047⟩ ∧
      (q .locked none (some f) ⟨1, 4095, true⟩).locked ≠ some ⟨4095, 1⟩ ∧
      (q .locked none (some f) ⟨5, 4095, false⟩).st = .locked := by decide +kernel

/-- A state in which a marker at port 0 ends a picture of the format of program 0, which then accepts one; the OPEN
segment has room for 21 bytes. -/
def accepting (q : PicturePort) : State :=
  withProgram 0 { program .running with run := 3, streamOffset := 262123 } (withPort 0 q
    { up with
      chains := Vec.put up.chains 0 { Chain.reset with segs := [{ newSegment 5 3 0 0 with fill := 262123 }] } })

theorem accepting_others (q : PicturePort) (j : Fin 4) (r : ProgramRecord) (hj : j ≠ 0)
    (h : ((accepting q).prog j).record = some r) : r.port ≠ 0 :=
  (only_program 0 _ _ (fun _ => up_unconfigured _) j r hj h).elim

theorem witness_AcceptedPictureStartsTheLoop :
    let f : Format := ⟨1920, 1080⟩
    let m : Measure := ⟨1080, 1920, true⟩
    let a := accepting (portIn .locked none (some f) (some m))
    let b := accepting (portIn .locking (some f) none (some m))
    (a.prog 0).st = .running ∧ (a.prog 0).record = some record ∧ record.port = 0 ∧ (a.port 0).startSeen = false ∧
      (a.port 0).opened = some m ∧ m.samples = record.width ∧ m.lines = record.height ∧
      ((a.port 0).st = .locked ∧ (a.port 0).locked = some f) ∧
      ((b.port 0).st = .locking ∧ (b.port 0).candidate = some f) ∧ (a.intake 0).taking = none ∧
      (a.coder 0).list = [] ∧ (a.coder 0).coding = none ∧ (a.chain 0).cut ≠ some a.tb.picture ∧ 21 ≤ room 0 a := by
  decide +kernel

/-- A program whose taking stands at a line, of a port with an open picture. -/
def takingAt (n : Nat) (c : Coder) : State :=
  { withProgram 0 (program .running) (withPort 0 (portIn .locked none (some ⟨1920, 1080⟩) (some ⟨n, 1920, true⟩)) up) with
    intakes := Vec.put up.intakes 0 { Intake.reset with taking := some ⟨7, n, []⟩, accepted := true }
    coders := Vec.put up.coders 0 c }

theorem takingAt_others (n : Nat) (c : Coder) (j : Fin 4) (r : ProgramRecord) (hj : j ≠ 0)
    (h : ((takingAt n c).prog j).record = some r) : r.port ≠ 0 :=
  (only_program 0 _ up up_unconfigured j r hj h).elim

theorem witness_LinesBecomeSlices :
    let s := takingAt 1079 Coder.reset
    let busy := takingAt 7 { Coder.reset with list := [.slice 7 0 []], coding := some ⟨4, false⟩ }
    (s.prog 0).record = some record ∧ record.port = 0 ∧ (s.port 0).opened = some ⟨1079, 1920, true⟩ ∧
      (s.intake 0).taking = some ⟨7, 1079, []⟩ ∧ (1079 + 1) % 8 = 0 ∧ ¬(1079 + 1 < record.height) ∧ (6 + 1) % 8 ≠ 0 ∧
      (s.coder 0).list = [] ∧ (s.coder 0).coding = none ∧
      ¬((s.coder 0).cut = some 7 ∨ (s.chain 0).cut = some 7) ∧
      ((takingAt 1079 { Coder.reset with cut := some 7 }).coder 0).cut = some 7 ∧
      (s.coder 0).bitCount ≤ (s.loop 0).cmax ∧ (busy.coder 0).list = [.slice 7 0 []] ∧
      (busy.coder 0).coding = some ⟨4, false⟩ ∧
      (let above := takingAt 1079 { Coder.reset with bitCount := 1 }
      (above.loop 0).cmax < (above.coder 0).bitCount ∧ (above.loop 0).struck = false ∧ (above.loop 0).held = false) := by
  decide +kernel

/-- R50: a SOUND unit refused first cuts the picture for the coder too; the next slice is dropped and none begun. -/
theorem test_sound_cut_drops_slices :
    let s := takingAt 1079 { Coder.reset with bitCount := 1 }
    let cut := s.modChain 0 fun c => { c with cut := some 7 }
    ((after (.lineTaken 0 [] [] []) cut).coder 0).dcSlices = 0 ∧ ((after (.lineTaken 0 [] [] []) cut).coder 0).list = [] ∧
      ((after (.lineTaken 0 [] [] []) s).coder 0).dcSlices = 1 ∧
      (after (.lineTaken 0 [] [] []) s).link.latches.get 6 = true := by decide +kernel

theorem witness_InputLimits :
    let s := fun quiet => withPort 3 { portIn .locked none none none with quiet := quiet } up
    let t := takingAt 8 Coder.reset
    (((s 1).port 3).st ≠ .noSignal ∧ ((s 1).port 3).startSeen = false ∧ 1 ≤ ((s 1).port 3).quiet) ∧
      ¬(1 ≤ ((s 0).port 3).quiet) ∧ (t.prog 0).record = some record ∧ (t.intake 0).taking = some ⟨7, 8, []⟩ ∧
      7 ≠ t.tb.picture ∧ 7 = ({ t with tb := { t.tb with picture := 7 } } : State).tb.picture := by decide +kernel

theorem witness_CoefficientsAndLevelsKeepRange :
    (∀ u v, -512 ≤ quadGet (quadGet (rowsOf (-512) (-512) 511 511) u) v ∧
        quadGet (quadGet (rowsOf (-512) (-512) 511 511) u) v ≤ 511) ∧
      (47 ≤ 47 ∧ (0 : Int) ≤ 8184 ∧ (8184 : Int) ≤ 8184) ∧ 2 * (239 : Int).natAbs < quantStep 47 ∧
      ¬(2 * (240 : Int).natAbs < quantStep 47) ∧ (-8192 : Int) ≤ -8192 := by decide +kernel

/-- 130 entries of eight bits each, none the beginning of another. -/
def flatTable : List CodeEntry := (List.range 130).map fun i => ⟨8, i⟩

theorem witness_TileBitsTellTheirPairs :
    flatTable.length = 130 ∧ checkTable flatTable = .pass ∧
      (∀ x ∈ [((15 : Nat), (-1024 : Int)), (0, 1023)] ++ [((15 : Nat), (-1024 : Int)), (0, 1023)],
        x.1 ≤ 15 ∧ x.2 ≠ 0 ∧ -1024 ≤ x.2 ∧ x.2 ≤ 1023) ∧
      tileBits flatTable [(15, -1024), (0, 1023)] ++ [true] = tileBits flatTable [(15, -1024), (0, 1023)] ++ [true] := by
  decide +kernel

/-- `up` with table 1 given. -/
def withTable (c : CodeTable) (s : State) : State := { s with tables := Vec.put s.tables 1 c }

/-- LOAD_TABLE of a wrong length: with a letter of 0 or 1, or none, the length alone is at fault. -/
theorem test_load_table_length :
    readRequest 12 [] = .badLength 12 0 ∧ readRequest 12 [1, 2, 3] = .badLength 12 3 := by decide +kernel

theorem witness_LoadTableStartsTheCheck :
    let s := withTable { CodeTable.reset with st := .checking } up
    let used := withProgram 2 { program .armed with record := some { record with table := 1 } } up
    Free up ∧ Free s ∧ 1 < 2 ∧ (s.table (Fin.ofNat 2 1)).st = .checking ∧ (up.table (Fin.ofNat 2 1)).st ≠ .checking ∧
      ((used.prog 2).st ≠ .idle ∧ (used.prog 2).record = some { record with table := 1 }) ∧
      (∀ q : Fin 4, q < 2 → (used.prog q).st = .idle) ∧ (∀ p, (up.prog p).st = .idle) ∧
      ([] : List Byte).length ≠ 391 ∧ [2#8].length ≠ 391 ∧ 1 < (2#8).toNat :=
  ⟨up_free, up_free, by decide +kernel⟩

/-- `up` with table 1 CHECKING some entries. -/
def checking (es : List CodeEntry) : State := withTable ⟨.checking, es, none⟩ up

theorem witness_CheckPassesPrefixFreeTables :
    let fits := fun e : CodeEntry => 1 ≤ e.length ∧ e.length ≤ 16 ∧ e.value < 2 ^ e.length
    let clash := fun (es : List CodeEntry) (x y : Nat) => codeBits es x <+: codeBits es y ∨ codeBits es y <+: codeBits es x
    let good : List CodeEntry := [⟨1, 1⟩, ⟨16, 0⟩]
    let bad : List CodeEntry := [⟨1, 1⟩, ⟨17, 0⟩]
    let twice : List CodeEntry := [⟨1, 1⟩, ⟨2, 3⟩]
    (up.table 1).st ≠ .checking ∧ ((checking good).table 1).st = .checking ∧ ((checking good).table 1).entries = good ∧
      (∀ e ∈ good, fits e) ∧ (∀ y < 2, ∀ x < y, ¬clash good x y) ∧ (bad[1]? = some ⟨17, 0⟩ ∧ ¬fits ⟨17, 0⟩) ∧
      fits ⟨1, 1⟩ ∧ (∀ e ∈ twice, fits e) ∧ clash twice 0 1 := by decide +kernel

/-- A coder with one slice coding, the last of a picture of 8 lines of 8 samples, in a segment with room. -/
def codingSlice : State :=
  { withProgram 0 { program .running with record := some { record with height := 480 }, run := 3, streamOffset := 100 }
      { up with tables := Vec.put up.tables 0 ⟨.ready, flatTable, some .pass⟩ } with
    chains := Vec.put up.chains 0 { Chain.reset with segs := [{ newSegment 5 3 0 0 with fill := 100 }] }
    coders := Vec.put up.coders 0
      { Coder.reset with
        list := [.slice 7 59 (List.replicate 8 ⟨List.replicate 8 512, List.replicate 4 512, List.replicate 4 512⟩)]
        coding := some ⟨20, false⟩ } }

theorem witness_SliceCodedMovesTheLoop :
    let lines : List Line := List.replicate 8 ⟨List.replicate 8 512, List.replicate 4 512, List.replicate 4 512⟩
    (codingSlice.prog 0).record = some { record with height := 480 } ∧
      (codingSlice.coder 0).list = [.slice 7 59 lines] ∧ (codingSlice.coder 0).coding = some ⟨20, false⟩ ∧
      (codingSlice.chain 0).cut ≠ some 7 ∧ 59 + 1 = 480 / 8 ∧
      16 + (slicePayload (codingSlice.table 0).entries (slicePairs lines 20 2 false)).length ≤ room 0 codingSlice := by
  decide +kernel

theorem witness_SlotPortRequestsMoveThePort :
    Free up ∧ Free fullSlots ∧ (1 ≤ 1 ∧ 1 ≤ 16) ∧ (1 ≤ 16 ∧ 16 ≤ 16) ∧ ((0 : Nat) = 0 ∨ 16 < 0) ∧ ((17 : Nat) = 0 ∨ 16 < 17) ∧
      (up.slot 2).st = .off ∧ (fullSlots.slot 1).st ≠ .off :=
  ⟨up_free, up_free, by decide +kernel⟩

/-- The place of the next slot of a port (R81, R83). -/
def nextPlace (q : SlotPort) : Nat :=
  match q.position with
  | none => 0
  | some n => if q.count ≤ n + 1 then 0 else n + 1

theorem witness_SlotsKeepFrameLock :
    let p := fun st position lock => slotAt st position lock
    let held := fun n => { slotAt .aligned (some 6) 2 with buffer := List.replicate n [0] }
    SlotPort.reset.st = .off ∧ (nextPlace (p .seeking (some 7) 0) = 0 ∧ (p .seeking (some 7) 1).lock = 1) ∧
      1 < SlotPort.reset.count ∧ nextPlace (p .seeking (some 0) 0) ≠ 0 ∧ (p .seeking none 0).position = none ∧
      nextPlace (p .pending (some 7) 2) = 0 ∧ nextPlace (p .pending (some 3) 2) ≠ 0 ∧
      nextPlace (p .pending (some 3) 2) + 1 ≠ SlotPort.reset.count ∧
      (nextPlace (held 13) + 1 = (held 13).count ∧ 1 ≤ (held 13).buffer.length ∧ (held 13).buffer.length ≤ 13) ∧
      (held 14).buffer.length = 14 ∧ (held 14).st = .aligned ∧ (2 ≤ 2 ∧ 2 ≤ 14) := by decide +kernel

theorem witness_MixerRequestsWriteTheirValues :
    Free up ∧ (3 ≤ 3 ∧ 7 ≤ 15 ∧ 7 < (up.slot (Fin.ofNat 4 3)).count) ∧ (up.slot (Fin.ofNat 4 3)).count ≤ 8 ∧ 3 < 4 ∧
      15 < 16 ∧ (65535 ≤ 65535 ∧ 2048 ≤ 2048) ∧ (8191 ≤ 8191 ∧ 65535 ≤ 65535) :=
  ⟨up_free, by decide +kernel⟩

/-- The segments 1 to 4,095. -/
@[irreducible] def others : List Nat := (List.range 4095).map Nat.succ

/-- Segment 0 in the chain of program 0, every other on the free list. -/
def withSegment (g : Segment) (s : State) : State :=
  { s with
    store := { s.store with freeList := others }
    chains := Vec.put s.chains 0 { Chain.reset with segs := [g] } }

theorem withSegment_chain (g : Segment) (s : State) (p : Fin 4) (hp : p ≠ 0) :
    (withSegment g s).chain p = s.chain p := Vec_get_put_ne _ _ _ _ hp.symm

theorem withSegment_chain_zero (g : Segment) (s : State) :
    (withSegment g s).chain 0 = { Chain.reset with segs := [g] } := Vec_get_put_same _ _ _

theorem withSegment_free (g : Segment) (s : State) :
    (withSegment g s).store.freeList = others := rfl

theorem withSegment_conserved (g : Segment) (hg : g.number = 0) : SegmentsConserved (withSegment g up) := by
  have h : ∀ p : Fin 4, p ≠ 0 → chainNumbers ((withSegment g up).chain p) = [] := by
    intro p hp
    rw [withSegment_chain g up p hp]
    revert p
    decide +kernel
  have h0 : chainNumbers ((withSegment g up).chain 0) = [0] := by
    rw [withSegment_chain_zero, chainNumbers, List.map_singleton, hg]
  have hp : (others ++ [0]).Perm (List.range 4096) := by
    unfold others
    rw [List.range_succ_eq_map (n := 4095)]
    exact List.perm_append_singleton 0 _
  unfold SegmentsConserved allNumbers
  rw [h0, h 1 (by decide), h 2 (by decide), h 3 (by decide), withSegment_free]
  exact hp

/-- The OPEN segment 0 of run 0, 9 bytes below its end. -/
def almostFull : Segment := { newSegment 0 0 0 0 with fill := 262135 }

/-- `almostFull` in a store of its own, its program's stream at the segment's end. -/
def writing : State := { withSegment almostFull up with
  progs := Vec.put up.progs 0 { Program.reset with streamOffset := 262135 } }

theorem witness_SampleTickFormsTheBuses :
    let s := ending Intake.reset 7
    (s.prog 0).record ≠ none ∧ (s.framer 0).filling = true ∧ (s.prog 1).record = none ∧ (s.slot 1).st ≠ .aligned ∧
      (fullSlots.slot 1).st = .aligned ∧ ¬((fullSlots.slot 1).buffer.tail.length < 2) ∧
      (List.replicate 2 [(0 : Sample24)]).tail.length < 2 := by decide +kernel

/-- R85: the hand-over that leaves one frame takes the port to UNALIGNED. -/
theorem test_hand_over_drifts_out :
    let s := fullSlots.modSlot 1 fun q => { q with buffer := [[1], [2]] }
    ((after .sampleTick s).slot 1).st = .unaligned ∧ ((after .sampleTick s).slot 1).unaligneds = 1 ∧
      (after .sampleTick s).link.latches.get 8 = true := by decide +kernel

theorem others_cons : others = 1 :: (List.range 4094).map fun n => n + 2 := by
  unfold others
  rw [List.range_succ_eq_map, List.map_cons, List.map_map]
  rfl

/-- The OPEN segment 0 of run 0, 4 bytes below its end. -/
def nearEnd : Segment := { newSegment 0 0 0 0 with fill := 262140 }

/-- `nearEnd` in a store of its own, its program's stream at its fill. -/
def spilling : State := { withSegment nearEnd up with
  progs := Vec.put up.progs 0 { Program.reset with streamOffset := 262140 } }

theorem witness_WrittenUnitsReadBack :
    (SegmentsConserved writing ∧ openSeg 0 writing = some almostFull ∧ almostFull.run = (writing.prog 0).run ∧
      segEnd almostFull = (writing.prog 0).streamOffset ∧ almostFull.fill + (repeatUnit 7).bytes.length ≤ 262144 ∧
      (∀ x ∈ (writing.chain 0).segs, x ≠ almostFull → x.run = almostFull.run → segEnd x ≤ almostFull.first) ∧
      (writing.chain 0).cut ≠ some (repeatUnit 7).picture) ∧
    (SegmentsConserved spilling ∧ spilling.store.freeList = 1 :: ((List.range 4094).map fun n => n + 2) ∧
      spilling.store.reserve ≤ ((List.range 4094).map fun n => n + 2).length ∧ openSeg 0 spilling = some nearEnd ∧
      nearEnd.run = (spilling.prog 0).run ∧ segEnd nearEnd = (spilling.prog 0).streamOffset ∧
      (∀ x ∈ (spilling.chain 0).segs, x ≠ nearEnd → x.run = nearEnd.run → segEnd x ≤ nearEnd.first) ∧
      (spilling.chain 0).cut ≠ some (repeatUnit 7).picture ∧ nearEnd.fill < 262144 ∧
      262144 - nearEnd.fill < (repeatUnit 7).bytes.length ∧
      (repeatUnit 7).bytes.length - (262144 - nearEnd.fill) < 262144) :=
  ⟨⟨withSegment_conserved almostFull rfl, by decide +kernel⟩, withSegment_conserved nearEnd rfl, others_cons,
    by decide +kernel⟩

/-- A state with a number of segments free. -/
def freeing (n : Nat) (s : State) : State := { s with store := { s.store with freeList := List.range n } }

theorem freeing_clips (n : Nat) (s : State) : (freeing n s).clips = s.clips := rfl

theorem freeing_free (n : Nat) (s : State) (h : Free s) : Free (freeing n s) := h

theorem no_clips (c : Fin 64) : up.clips.recs.get c = none := by
  revert c
  decide +kernel

theorem no_yield (n : Nat) (c : Fin 64) (k : Clip) (h : (freeing n up).clips.recs.get c = some k)
    (_ : k.yieldable = true) : k.st ≠ .closed ∧ k.st ≠ .shipped := by
  rw [freeing_clips, no_clips c] at h
  cases h

/-- A unit that finds the free list empty (`WrittenUnitsReadBack`, its last clause). -/
theorem witness_RefusedTake :
    (∀ c k, (freeing 0 up).clips.recs.get c = some k → k.yieldable = true → k.st ≠ .closed ∧ k.st ≠ .shipped) ∧
      (freeing 0 up).store.freeList = [] ∧ room 2 (freeing 0 up) < (repeatUnit 7).bytes.length ∧
      ((freeing 0 up).chain 2).cut ≠ some (repeatUnit 7).picture :=
  ⟨no_yield 0, by decide +kernel⟩

theorem witness_ReserveSetsThePressure :
    Free (freeing 3 up) ∧
      (∀ c k, (freeing 3 up).clips.recs.get c = some k → k.yieldable = true → k.st ≠ .closed ∧ k.st ≠ .shipped) ∧
      Free (freeing 3 (withClip (clipIn .closed))) ∧ 1024 < 1025 ∧
      (3 ≤ 1024 ∧ 3 ≤ (freeing 3 up).store.freeList.length ∧ 0 < (freeing 3 up).store.freeList.length) ∧
      ((freeing 0 up).store.freeList.length = 0 ∧ 0 ≤ (freeing 0 up).store.freeList.length) ∧
      (freeing 3 up).store.freeList.length < 4 ∧ (clipIn .closed).yieldable = true ∧ (clipIn .closed).creation < 2 ^ 31 :=
  ⟨freeing_free 3 _ up_free, no_yield 3, freeing_free 3 (withClip (clipIn .closed)) up_free, by decide +kernel⟩

theorem witness_RetentionReleaseFreesSegments : SegmentsConserved (withSegment (sealedSegment 0 (some 1006)) up) :=
  withSegment_conserved _ rfl

theorem witness_ConfigurePathWritesFiveFields :
    Free up ∧ (8416 ≤ 1052 * 8 ∧ 10464 ≤ min 2000 1308 * 8) ∧ ¬(8416 ≤ 1052 * 7) ∧ ¬(10464 ≤ min 2000 1307 * 8) ∧
      5 < 6 ∧ 999 < 1000 ∧ 1000000 < 1000001 ∧ 63 < 64 ∧ 50 < 51 ∧ 255 < 256 ∧ 2048 < 2049 := by
  refine ⟨up_free, ?_⟩
  decide

theorem witness_PathStatesChange :
    let s := fun st carrier silence => withPath 5 { pathIn st 900 with carrier := carrier, silence := silence } up
    Free up ∧ (up.path 5).st = .off ∧ (up.path 5).carrier = false ∧
      (∀ st ∈ [PathState.probing, .up, .degraded], ∀ carrier, ((s st carrier 1000).path 5).st = st ∧
        ((s st carrier 1000).path 5).carrier = carrier ∧
        (s st carrier 1000).uplink.timeoutInForce ≤ ((s st carrier 1000).path 5).silence) ∧
      ∀ st ∈ [PathState.off, .down], ∀ carrier, ((s st carrier 0).path 5).st = st ∧
        ((s st carrier 0).path 5).carrier = carrier :=
  ⟨up_free, by decide +kernel⟩

/-- Path 0 in UP with the credit of one full live packet, every other port busy, and 1,280 bytes of program 1
pending. -/
def sending : State :=
  { withProgram 1 { program .running with run := 3, streamOffset := 1280 } up with
    tb := { Timebase.reset with picture := 17 }
    paths := Vec.tab fun l =>
      if l = 0 then { pathIn .up 1047 with credit := 10464, port := some [], carrier := true }
      else { Path.reset with port := some [] }
    lives := Vec.put up.lives 1 { Live.reset with cursor := some (3, 0) }
    chains := Vec.put up.chains 1
      { Chain.reset with segs := [{ newSegment 5 3 0 0 with fill := 1280, units := [⟨0, 1280, 7⟩] }] } }

/-- `sending` without live data: path 0's port falls idle for what the scheduler and clip 9 give it. -/
def serving (st : PathState) (c : Scheduler) (k : Clip) : State :=
  { sending with
    lives := up.lives
    paths := Vec.put sending.paths 0 { sending.path 0 with st := st }
    sched := c
    clips := { ClipLog.reset with recs := Vec.put ClipLog.reset.recs 9 (some k) } }

/-- A state whose path `l` has an idle port. -/
def idle (l : Fin 6) (s : State) : State := s.modPath l fun p => { p with port := none }

theorem witness_FrameSentSendsLiveData :
    let s := idle 0 sending
    (up.path 0).port = none ∧ (sending.path 0).port ≠ none ∧ (s.path 0).st = .up ∧
      (∀ k, k ≠ 0 → (s.path k).port ≠ none) ∧ s.sched.window = [] ∧ s.sched.labelQueue = [] ∧
      s.sched.clipCursor = none ∧ s.clips.shipQueue = [] ∧ (s.prog 1).st = .running ∧
      (∀ q, q ≠ 1 → (s.live q).cursor = none ∧ (s.prog q).st ≠ .draining) ∧
      (s.live 1).cursor = some (3, 0) ∧ 0 + 1280 ≤ (s.prog 1).streamOffset ∧
      unitAt 1 3 0 s = some ⟨0, 1280, 7⟩ ∧ isStale s 7 = false ∧
      (28 + 1280) * 8 ≤ (s.path 0).credit ∧ (28 + 1280) * 8 ≤ (s.path 0).estimate * (s.path 0).burst ∧
      (streamBytes 1 3 0 1280 s).length = 1280 := by decide +kernel

/-- The pacing tick at an idle port, for the same statement: no timer of the refilled state expires, and a candidate of
one byte more than the credit pays for waits. -/
theorem witness_PacingTickSends :
    let s0 := { idle 0 sending with
      sched := { sending.sched with window := [⟨7, .live 1 3 5 0 1280, 2, 4294967000, 0, false⟩] } }
    s0.tb.allocDue = false ∧ (s0.path 0).port = none ∧ (∀ k, (s0.path k).silence + 1 < s0.uplink.silenceTimeout) ∧
      (∀ e ∈ s0.sched.window, diff32 (s0.tb.pacing + 1) e.firstSent < s0.sched.deadline) ∧
      ((28 + 1280) * 8 ≤ (s0.path 0).estimate * (s0.path 0).burst ∧ (idle 0 sending).sched.window = []) ∧
      10463 < (28 + 1280) * 8 := by decide +kernel

/-- Every kind of packet at once but the label, for the same statement: path 0 has a repair to send, and a DRAINING
program live data that a closing unit ends. -/
def choosing (share : Nat) (c : Scheduler) : State :=
  { withProgram 1 { program .draining with run := 3, streamOffset := 900, drainPicture := some 17 } sending with
    paths := Vec.put sending.paths 0 { sending.path 0 with st := .degraded, repairShare := share, port := none }
    lives := Vec.put sending.lives 1 { sending.live 1 with closing := true }
    sched := c
    clips := { ClipLog.reset with recs := Vec.put ClipLog.reset.recs 9 (some (clipIn .shipping)), shipQueue := [4] } }

/-- A queued entry that another path sent, one that path 0 sent, and the clip cursor. -/
def mixed : Scheduler :=
  { Scheduler.reset with
    window := [⟨7, .live 1 3 5 0 900, 0, 0, 1, true⟩, ⟨8, .clip 9 1 3 5 0 900, 2, 0, 255, true⟩]
    clipCursor := some ⟨9, 1, 3, 900, 500⟩, bucket := 10464, lastServed := 2 }

theorem witness_ClassesAreOrdered :
    let s := choosing 32 mixed
    let u := choosing 0 mixed
    ((s.path 0).st = .degraded ∧ (∀ k, k ≠ 0 → (s.path k).port ≠ none) ∧ (s.prog 1).writingEnded = false ∧
        (s.prog 1).drainPicture = some s.tb.picture ∧ s.sched.labelQueue = []) ∧
      (s.clips.recs.get 9 = some (clipIn .shipping) ∧ (∀ k, s.sched.clipCursor = some k → k.next ≠ k.out)) ∧
      ((s.path 0).repair < (s.path 0).repairShare ∧
        (s.sched.window.filter fun e => e.queued && e.path != 0).head? =
          some ⟨8, .clip 9 1 3 5 0 900, 2, 0, 255, true⟩) ∧
      ((u.path 0).repairShare ≤ (u.path 0).repair ∧ (u.live 1).closing = true ∧ (u.live 1).cursor = some (3, 0) ∧
        unitAt 1 3 0 u = some ⟨0, 1280, 7⟩ ∧ isStale u 7 = false ∧ (28 + 900) * 8 ≤ (u.path 0).credit) ∧
      ∀ k, k ≠ 0 → (s.path k).st ≠ .up ∧ (s.path k).st ≠ .degraded := by decide +kernel

/-- Class and flags of the packet that a path's port sends (R214). -/
def classAndFlags (l : Fin 6) (s : State) : Byte × Byte :=
  let frame := ((s.path l).port).getD []
  (frame.getD 15 9, frame.getD 20 9)

/-- The same, run: the repair of clip 9 first, the live data when the repair share is 0, and the entry that path 0 sent
itself when it alone is queued and path 0 alone carries packets. -/
theorem test_class_order :
    let sent := fun s : State => classAndFlags 0 (after (.frameSent 0) (s.modPath 0 fun p => { p with port := some [] }))
    sent (choosing 32 mixed) = (1, 1) ∧ sent (choosing 0 mixed) = (2, 0) ∧
      sent (choosing 32 { mixed with window := mixed.window.take 1 }) = (2, 1) := by decide +kernel

/-- A probe and a label, for the same statement. -/
theorem witness_ProbeAndLabel :
    let s := idle 0 (serving .probing Scheduler.reset (clipIn .closed))
    let t := idle 0 (serving .up { Scheduler.reset with labelQueue := [9, 4] } (clipIn .closed))
    ((s.path 0).st = .probing ∧ 8416 ≤ (s.path 0).credit) ∧
      t.sched.labelQueue = [9, 4] ∧ t.clips.recs.get 9 = some (clipIn .closed) ∧ t.sched.window = [] ∧
      (∀ q, (t.prog q).st ≠ .draining) ∧ (28 + (labelBody 9 (clipIn .closed)).length) * 8 ≤ (t.path 0).credit ∧
      (28 + (labelBody 9 (clipIn .closed)).length) * 8 ≤ (t.path 0).estimate * (t.path 0).burst := by decide +kernel

/-- The three resends and the next bytes of a clip, for the same statement. -/
theorem witness_ResendsAndClip :
    let s := fun place => idle 0
      (serving .up { Scheduler.reset with window := [⟨7, place, 2, 0, 255, true⟩] } (clipIn .closed))
    let x := idle 0
      (serving .up { Scheduler.reset with clipCursor := some ⟨9, 1, 3, 1280, 0⟩, bucket := 10464 } (clipIn .shipping))
    (∀ place ∈ [Place.live 1 3 5 0 1280, .clip 9 1 3 5 0 1280, .label 9 4],
      (s place).sched.window = [⟨7, place, 2, 0, 255, true⟩] ∧ 7 ≠ (s place).sched.nextSend ∧
        (s place).sched.labelQueue = [] ∧ (s place).sched.clipCursor = none ∧ (s place).clips.shipQueue = [] ∧
        (∀ q, ((s place).live q).cursor = none ∧ ((s place).prog q).st ≠ .draining) ∧
        unitAt 1 3 0 (s place) = some ⟨0, 1280, 7⟩ ∧ (s place).clips.recs.get 9 = some (clipIn .closed) ∧
        (28 + 1280) * 8 ≤ ((s place).path 0).credit) ∧
      x.sched.clipCursor = some ⟨9, 1, 3, 1280, 0⟩ ∧ unitAt 1 3 0 x = some ⟨0, 1280, 7⟩ ∧ x.sched.window = [] ∧
      x.sched.labelQueue = [] ∧ x.clips.shipQueue = [] ∧ (28 + min 1280 (1280 - 0)) * 8 ≤ x.sched.bucket ∧
      (∀ q, (x.live q).cursor = none ∧ (x.prog q).st ≠ .draining) := by decide +kernel

theorem witness_SetUplinkWritesEverySetting :
    Free up ∧ (8 ≤ 16 ∧ 2000 ≤ 2000 ∧ 50000 ≤ 50000 ∧ 200 ≤ 5000 ∧ 1 ≤ 255) ∧ 7 < 8 ∧ 16 < 17 ∧ 2000 < 2001 ∧
      50000 < 50001 ∧ 199 < 200 ∧ 5000 < 5001 ∧ 0 < 1 ∧ 255 < 256 ∧ 1 < 2 := by
  refine ⟨up_free, ?_⟩
  decide

/-- `up` with every port busy, path 2 DOWN, and a last report number. -/
def reporting (last : Option Nat) : State :=
  { up with
    paths := Vec.tab fun l => { Path.reset with port := some [], st := if l = 2 then .down else .off }
    uplink := { Uplink.reset with lastReport := last } }

theorem witness_ReportsAreTakenInOrder :
    WindowBounded (reporting (some 32770)) ∧ (up.path 2).st = .off ∧ ((reporting none).path 2).st ≠ .off ∧
      frameReport (reportFrame.take 26) = none ∧ (frameReport reportFrame).map Report.number = some 1 ∧
      newer16 1 1 = false ∧ newer16 1 32769 = false ∧ newer16 1 65535 = true ∧ newer16 1 32770 = true ∧
      (∀ k, ((reporting (some 32770)).path k).port ≠ none) ∧ (List.replicate 12 (0 : Byte)).length = 12 ∧
      (List.replicate 16 (LossRange.mk 4294967295 0)).length ≤ 16 ∧ 65535 < 2 ^ 16 ∧ 4294967295 < 2 ^ 32 ∧ 255 < 256 := by
  refine ⟨?_, ?_⟩
  · unfold WindowBounded
    decide +kernel
  · decide +kernel

theorem witness_ReportEntriesMoveTheEstimate :
    let bad := fun (e : PathEntry) (packets : Nat) =>
      (e.received = 0 ∧ 4 ≤ packets) ∨ (e.received + e.missing ≠ 0 ∧ 13 * (e.received + e.missing) < e.missing * 256)
    let p : Path := { pathIn .degraded 64 with good := 2, bad := 2 }
    up.uplink.badThreshold = 13 ∧ bad ⟨0, 0, 0⟩ 4 ∧ ¬bad ⟨0, 0, 0⟩ 3 ∧ ¬bad ⟨0, 243, 13⟩ 4 ∧ bad ⟨0, 242, 14⟩ 4 ∧
      (0 < 4 ∧ 4 * 3 ≤ 3 * 4) ∧ ¬(0 < 4 ∧ 4 * 3 ≤ 2 * 4) ∧ ({ pathIn .probing 0 with probeSince := true } : Path).probeSince = true ∧
      (pathIn .probing 0).probeSince = false ∧ p.st = .degraded ∧ p.good = 2 ∧ p.bad = 2 ∧ p.good < 3 ∧ p.bad < 3 ∧
      (pathIn .degraded 64).good ≠ 2 ∧ (pathIn .degraded 64).bad ≠ 2 := by
  decide +kernel

theorem witness_SetDeliveryWritesBothValues :
    Free up ∧ (∃ t, exec .pacingTick (history 7000 10398 0 false) = .next t) ∧
      (50 ≤ 50 ∧ 2000 ≤ 2000 ∧ 500 ≤ 500 ∧ 49 < 50) ∧ ¬(50 ≤ 49) ∧ ¬(50 < 50) ∧ ¬(501 ≤ 500) ∧ 0 < up.sched.deadline ∧
      ∀ b, ∃ e ∈ (pacingTickWith b (history 7000 10398 0 false)).sched.window, e.isLive = true :=
  ⟨up_free, ⟨_, rfl⟩, by decide +kernel⟩

theorem reset_recs (c : Fin 64) : ClipLog.reset.recs.get c = none := by
  revert c
  decide +kernel

theorem withClip_only (k m : Clip) (c : Fin 64) (h : (withClip k).clips.recs.get c = some m) : c = 9 ∧ m = k := by
  have : (withClip k).clips.recs = Vec.put ClipLog.reset.recs 9 (some k) := rfl
  rw [this, Vec_get_put] at h
  by_cases hc : (9 : Fin 64) = c
  · rw [if_pos hc] at h
    cases h
    exact ⟨hc.symm, rfl⟩
  · rw [if_neg hc] at h
    rw [reset_recs c] at h
    cases h

/-- A clip of a program is OPEN. -/
def Opens (s : State) (p : Fin 4) (c : Fin 64) : Prop :=
  ∃ k, s.clips.recs.get c = some k ∧ k.program = p ∧ k.st = .opened

theorem withClip_opens_none (k : Clip) (hk : k.st ≠ .opened) (p : Fin 4) (c : Fin 64) : ¬Opens (withClip k) p c := by
  rintro ⟨m, h, _, hm⟩
  rw [(withClip_only k m c h).2] at hm
  exact hk hm

theorem withClip_opens (c : Fin 64) : Opens (withClip (clipIn .opened)) 0 9 ∧
    (c < 9 → ¬Opens (withClip (clipIn .opened)) 0 c) := by
  refine ⟨⟨clipIn .opened, by decide +kernel⟩, fun hc h => ?_⟩
  obtain ⟨m, h, _, _⟩ := h
  rw [(withClip_only _ m c h).1] at hc
  exact absurd hc (by decide)

/-- `withClip` of a CLOSED clip, with a head of picture 2,990 and a SOUND unit of picture 3,049 in the chain. -/
def marked (k : Clip) : State :=
  { withClip k with
    chains := Vec.put up.chains 0 { Chain.reset with
      segs := [{ newSegment 5 6 0 0 with fill := 500, marks := [⟨.head, 2990, 100⟩, ⟨.sound, 3049, 450⟩] }] } }

/-- READ_CLIP of a FREE record: the id, the state and an empty list; of another: a list of one entry. -/
theorem test_read_clip :
    clipReadBody 3 (withClip (clipIn .closed)) = [3, 0, 0] ∧
      (clipReadBody 9 (withClip (clipIn .closed))).take 4 = [9, 3, 1, 0] := by decide +kernel

/-- Two CLOSED yieldable clips, each alone holding one segment: the older holds 900, the newer 100. -/
def yielding : State :=
  let held := fun n => { newSegment n 6 0 1 with isSealed := true, writer := false, pendingSend := false, fill := 500 }
  let clip := fun creation n => some { clipIn .closed with creation := creation, pinned := [n] }
  { up with
    chains := Vec.put up.chains 0 { Chain.reset with segs := [held 900, held 100] }
    store := { Store.reset with freeList := [1, 2] }
    clips := { ClipLog.reset with recs := Vec.put (Vec.put ClipLog.reset.recs 4 (clip 6 100)) 9 (clip 5 900) } }

/-- R107, R116: what one event frees in several parts joins the tail in ascending segment number. -/
theorem test_frees_of_one_event :
    (after (.setReserve 1 4) yielding).store.freeList = [1, 2, 100, 900] ∧
      (after (.setReserve 1 3) yielding).store.freeList = [1, 2, 900] ∧
      (let since := { up with store := { Store.reset with freeList := [2, 900, 100], takes := 1 } }
      (freedTogether { up with store := { Store.reset with freeList := [1, 2] } } since).store.freeList =
        [2, 100, 900]) := by decide +kernel

/-- A log without a FREE record. -/
def fullLog : State :=
  (withClip (clipIn .closed)).modClips fun l => { l with recs := Vector.replicate 64 (some (clipIn .closed)) }

theorem fullLog_recs (c : Fin 64) : fullLog.clips.recs.get c = some (clipIn .closed) := by
  revert c
  decide +kernel

theorem fullLog_opens (p : Fin 4) (c : Fin 64) : ¬Opens fullLog p c := by
  rintro ⟨m, h, _, hm⟩
  rw [fullLog_recs c] at h
  cases h
  cases hm

theorem withClip_free (k : Clip) : Free (withClip k) := ⟨rfl, rfl, up_free.2.2⟩

theorem withClip_not_shipping (k : Clip) (hk : k.st ≠ .shipping) (d : Fin 64) (m : Clip)
    (h : (withClip k).clips.recs.get d = some m) : m.st ≠ .shipping := by
  rw [(withClip_only k m d h).2]
  exact hk

theorem witness_MarkInOpensAClip :
    let s := withClip (clipIn .closed)
    Free s ∧ Opens (withClip (clipIn .opened)) 0 9 ∧ (∀ c : Fin 64, c < 9 → ¬Opens (withClip (clipIn .opened)) 0 c) ∧
      (∀ c, ¬Opens s 1 c) ∧ (∀ c, ¬Opens fullLog 0 c) ∧ (∀ c, ¬Opens s 0 c) ∧
      ((s.prog 1).st ≠ .running ∧ (∀ c, fullLog.clips.recs.get c ≠ none) ∧ (fullLog.prog 0).st = .running ∧
        (s.prog 0).st = .running ∧ s.clips.recs.get 0 = none ∧ tailHeads 0 6 s = [] ∧
        tailHeads 0 6 (marked (clipIn .closed)) = [⟨.head, 2990, 100⟩] ∧ newer32 2990 2989 = true ∧
        newer32 2990 2991 = false ∧ newer32 2991 2990 = true ∧ 3 < 4 ∧ 1 < 2 ∧ 65535 < 65536) :=
  ⟨withClip_free _, (withClip_opens 0).1, fun c => (withClip_opens c).2, withClip_opens_none _ (by decide) 1,
    fullLog_opens 0, withClip_opens_none _ (by decide) 0, by decide +kernel⟩

theorem witness_MarkOutClosesTheClip :
    let s := withClip (clipIn .opened)
    let t := fun q => withClip { clipIn .closing with requestedOut := some q }
    Free s ∧ (∀ c, ¬Opens (withClip (clipIn .closed)) 0 c) ∧ (∀ c : Fin 64, c < 9 → ¬Opens s 0 c) ∧
      (∀ q, (t q).clips.recs.get 9 = some { clipIn .closing with requestedOut := some q }) ∧
      ((s.prog 0).st = .running ∧ s.clips.recs.get 9 = some (clipIn .opened) ∧ (clipIn .opened).program = 0 ∧
        (clipIn .opened).shipAtClose = false ∧ s.clips.shipQueue = [] ∧ s.sched.clipCursor = none ∧
        newer32 s.tb.picture 3049 = true ∧ newer32 s.tb.picture 3050 = false ∧
        soundLookup 0 6 3049 (marked (clipIn .opened)) = some 450 ∧ soundLookup 0 6 3049 s = none ∧
        newer32 (t 3049).tb.picture 3049 = true ∧ newer32 (t 3050).tb.picture 3050 = false) :=
  ⟨withClip_free _, withClip_opens_none _ (by decide) 0, fun c => (withClip_opens c).2, fun _ => rfl, by decide +kernel⟩

/-- A state with mark line 1 bound to a program, its last press at a time. -/
def bound (p : Nat) (last : Option Nat) (s : State) : State :=
  s.modLine 1 fun l => { l with binding := some p, lastPress := last }

theorem witness_MarkLinesMarkInAndOut :
    let s := withClip (clipIn .closed)
    let t := withClip (clipIn .opened)
    let since := fun a => (up.tb.pacing % 2 ^ 32 + 2 ^ 32 - a % 2 ^ 32) % 2 ^ 32
    Free up ∧ (∀ c, ¬Opens s 1 c) ∧ (∀ c, ¬Opens s 0 c) ∧ (∀ c : Fin 64, c < 9 → ¬Opens t 0 c) ∧
      (3 < (some 4).getD 0 ∧ 1000 < 1001 ∧ 1 < 2 ∧ (up.line 1).binding = none ∧ ((bound 0 none s).line 1).binding = some 0 ∧
        since 4294967096 = 200 ∧ since 4294967095 = 201 ∧ (s.prog 1).st ≠ .running ∧ (s.prog 0).st = .running ∧
        s.clips.recs.get 0 = none ∧ t.clips.recs.get 9 = some (clipIn .opened) ∧ t.clips.shipQueue = [] ∧
        t.sched.clipCursor = none) :=
  ⟨up_free, withClip_opens_none _ (by decide) 1, withClip_opens_none _ (by decide) 0, fun c => (withClip_opens c).2,
    by decide +kernel⟩

/-- Clip 9 SHIPPING, its cursor at an offset, and clip 3 CLOSED or SHIPPED. -/
def twoClips (next : Nat) (st : ClipState) : State :=
  { withClip { clipIn .shipping with outOffset := some 400, shipCursor := some next } with
    sched := { Scheduler.reset with clipCursor := some ⟨9, 0, 6, 400, next⟩ } }.modClips fun l =>
      { l with recs := Vec.put l.recs 3 (some { clipIn st with outOffset := some 400 }) }

theorem twoClips_cursor (next : Nat) (x : ClipCursor) (h : (twoClips next .closed).sched.clipCursor = some x) :
    x.clip = 9 := by
  cases h
  rfl

theorem twoClips_shipping (next : Nat) (d : Fin 64) (m : Clip) (h : (twoClips next .closed).clips.recs.get d = some m)
    (hm : m.st = .shipping) : d = 9 := by
  by_cases hd : d = 3
  · subst hd
    cases h
    cases hm
  · refine (withClip_only { clipIn .shipping with outOffset := some 400, shipCursor := some next } m d ?_).1
    rw [← h]
    exact (Vec_get_put_ne _ _ _ _ (fun e => hd e.symm)).symm

theorem witness_LabelShipAndCancelActByState :
    let s := fun st => withClip { clipIn st with outOffset := some 400 }
    let text : List Byte := List.replicate 39 32 ++ [126]
    Free (s .closed) ∧ (∀ d m, (s .closed).clips.recs.get d = some m → m.st ≠ .shipping) ∧
      (∀ x, (twoClips 100 .closed).sched.clipCursor = some x → x.clip = 9) ∧
      (∀ d m, (twoClips 100 .closed).clips.recs.get d = some m → m.st = .shipping → d = 9) ∧
      (up.clips.recs.get 9 = none ∧ text.length ≤ 40 ∧ (∀ b ∈ text, 32 ≤ b.toNat ∧ b.toNat ≤ 126) ∧
        (List.replicate 8 (0 : Byte)).length ≤ 8 ∧ 40 < (List.replicate 41 (32 : Byte)).length ∧
        (127 : Byte).toNat > 126 ∧ (31 : Byte).toNat < 32 ∧ 63 < 64 ∧ 5 < 6 ∧ 1 < 2 ∧
        (∀ st ∈ [ClipState.opened, .closing, .closed, .queued, .shipping, .shipped],
          ((s st).clips.recs.get 9).map Clip.st = some st) ∧
        (∀ p, ((s .shipping).prog p).st ≠ .draining) ∧ (s .closed).clips.shipQueue = [] ∧
        (s .closed).sched.clipCursor = none ∧ (clipIn .closed).inOffset < 400 ∧ shipDone (twoClips 100 .closed) = false ∧
        ((twoClips 100 .closed).clips.recs.get 9).map Clip.st = some .shipping ∧
        ((twoClips 100 .closed).clips.recs.get 3).map Clip.st = some .closed) :=
  ⟨withClip_free _, withClip_not_shipping _ (by decide), twoClips_cursor 100, twoClips_shipping 100, by decide +kernel⟩

/-- A clip request of a report that a CLOSED clip matches, and one that nothing matches (`ReportsAreTakenInOrder`). -/
theorem witness_HomeRequests :
    (∀ d m, (twoClips 100 .closed).clips.recs.get d = some m → m.st = .shipping → d = 9) ∧
      (∀ (c : Fin 64) k, ¬(up.clips.recs.get c = some k ∧ k.creation = 5)) ∧
      ((twoClips 100 .closed).clips.recs.get 3).map (fun k => (k.creation, k.st)) = some (5, .closed) ∧
      ((twoClips 100 .closed).clips.recs.get 9).map Clip.st = some .shipping ∧
      (twoClips 100 .closed).sched.clipCursor = some ⟨9, 0, 6, 400, 100⟩ ∧ 100 ≠ 400 ∧
      ∀ p, ((twoClips 100 .closed).prog p).st ≠ .draining :=
  ⟨twoClips_shipping 100, fun c _ h => Option.some_ne_none _ (h.1.symm.trans (no_clips c)), by decide +kernel⟩

theorem witness_ClipsShipAndAreReleased :
    let q := (withClip { clipIn .queued with outOffset := some 101 }).modClips fun l => { l with shipQueue := [9] }
    Free q ∧ (∀ d m, q.clips.recs.get d = some m → m.st ≠ .shipping) ∧
      ((∀ p, (q.prog p).st ≠ .draining) ∧ up.clips.recs.get 9 = none ∧
        (q.clips.recs.get 9).map Clip.outOffset = some (some 101) ∧ q.clips.shipQueue = [9] ∧
        (clipIn .queued).inOffset < 101 ∧ ((twoClips 400 .closed).clips.recs.get 9).map Clip.st = some .shipping ∧
        (twoClips 400 .closed).sched.clipCursor = some ⟨9, 0, 6, 400, 400⟩ ∧ (twoClips 400 .closed).sched.window = [] ∧
        (twoClips 400 .closed).clips.shipQueue = [] ∧ (twoClips 399 .closed).sched.clipCursor = some ⟨9, 0, 6, 400, 399⟩) :=
  ⟨⟨rfl, rfl, up_free.2.2⟩, withClip_not_shipping { clipIn .queued with outOffset := some 101 } (by decide), by decide +kernel⟩

theorem witness_RequestsAreTakenInOrder :
    Free up ∧ (∃ a t, perform (.stop 0) (counted up) = (.answer a, t)) ∧
      (requestOf (.stop 5 0) = some (5, .stop 0) ∧ State.reset.link.ready = false ∧
        (burst 32 15).link.requests.length < 16 ∧ 32 ≤ (burst 32 15).link.replies.length ∧
        16 ≤ (burst 31 16).link.requests.length ∧ (burst 31 16).link.replies.length < 32 ∧
        16 ≤ (burst 32 16).link.requests.length ∧ 32 ≤ (burst 32 16).link.replies.length) :=
  ⟨up_free, ⟨_, _, rfl⟩, by decide +kernel⟩

theorem witness_RefusedRequestsChangeNothing :
    ∃ a : Answer, perform (.start 0) up = (.answer a, up) ∧ a.status ≠ .done ∧ a.status ≠ .accepted :=
  ⟨_, rfl, by decide +kernel⟩

theorem witness_RequestFramesReadBack :
    requestOf (.setStation 5 9 6 1) = some (9, .setStation 6 1) ∧ Instr.wf (.setStation 5 9 6 1) = true ∧
      up.link.ready = true ∧ up.link.rx = .hunt false false ∧ OutboundEmpty up.link ∧
      ∀ u tg rate drop, Instr.setStation 5 9 6 1 = .setStation u tg rate drop → u ≤ 5 :=
  ⟨rfl, by decide +kernel, rfl, rfl, ⟨rfl, rfl, by decide +kernel⟩, fun u _ _ _ h => by cases h; exact Nat.le_refl 5⟩

/-- Of two checks one is wrong. -/
theorem some_wrong_check (n : Nat) : ∃ b : Byte, (0 : Byte).toNat * 256 + b.toNat ≠ n := by
  by_cases h : n = 0
  · exact ⟨1, by rw [h]; decide⟩
  · exact ⟨0, fun e => h e.symm⟩

theorem witness_BadBytesCountOneLinkError :
    OutboundEmpty up.link ∧
      (∃ b : Byte, (0 : Byte).toNat * 256 + b.toNat ≠ crc16 (u16 1026 ++ [1, 49] ++ List.replicate 1024 0)) ∧
      (State.reset.link.ready = false ∧ up.link.ready = true ∧ up.link.rx = .hunt false false ∧ (1 : Byte) ≠ 0 ∧
        (255 : Byte) ≠ 0xC3 ∧ ((0 : Byte).toNat * 256 + (1 : Byte).toNat < 2) ∧
        (1026 < (4 : Byte).toNat * 256 + (3 : Byte).toNat) ∧ (List.replicate 1024 (0 : Byte)).length ≤ 1024) :=
  ⟨⟨rfl, rfl, by decide +kernel⟩, some_wrong_check _, by decide +kernel⟩

/-- `up` with some notices and dropped notices. -/
def noticing (n lost : Nat) : State :=
  up.modLink fun l =>
    { l with notices := List.replicate n ⟨1, 255, 0, 0, identity⟩, lostSince := lost,
             subscribed := Vector.replicate 18 true }

theorem witness_LinkServesItsQueues :
    OutboundEmpty up.link ∧ (∃ a t, perform .listClips (counted up) = (.answer a, t)) ∧
      (up.link.ready = true ∧ State.reset.link.ready = false ∧ State.reset.link.notices.length < 32 ∧
        (burst 32 1).link.replies =
          [] ++ .made ⟨1, 46, .done, 0, 0, []⟩ :: List.replicate 31 (.made ⟨1, 46, .done, 0, 0, []⟩) ∧
        (burst 32 1).link.requests = [⟨2, .listClips⟩] ∧ (burst 32 1).link.replies.length = 32 ∧
        (burst 1 0).link.requests = [] ∧ (burst 1 0).link.sending = none ∧ (noticing 32 0).link.lostSince = 0 ∧
        (noticing 32 1).link.notices = ⟨1, 255, 0, 0, identity⟩ :: List.replicate 31 ⟨1, 255, 0, 0, identity⟩ ∧
        0 < (noticing 32 1).link.lostSince ∧ (noticing 32 1).link.subscribed.get 17 = true ∧
        (List.replicate 31 (0 : Nat)).length < 32) :=
  ⟨⟨rfl, rfl, by decide +kernel⟩, ⟨_, _, rfl⟩, by decide +kernel⟩

theorem witness_StatusClearsNamedLatches :
    Free (noticing 31 1) ∧ 2 ^ 18 ≤ 262144 ∧ 262143 < 2 ^ 18 ∧ (noticing 31 0).link.lostSince = 0 ∧
      Nat.testBit 131071 17 = false ∧ 32 ≤ (noticing 32 1).link.notices.length ∧ 0 < (noticing 31 1).link.lostSince ∧
      Nat.testBit 131072 17 = true ∧ (noticing 31 1).link.notices.length < 32 :=
  ⟨⟨rfl, rfl, by decide +kernel⟩, by decide +kernel⟩

/-- Clip 9 alone, SHIPPING up to offset 400. -/
def shippingOne : Clip := { clipIn .shipping with outOffset := some 400, label := .sent }

theorem witness_RestartEmptiesTheQueues :
    Free (withClip shippingOne) ∧ (∀ c k, (withClip shippingOne).clips.recs.get c = some k → k.creation < 2 ^ 31) ∧
      (∀ d m, d ≠ 9 → (withClip shippingOne).clips.recs.get d = some m → m.st ≠ .shipping) ∧
      (∀ d m, (withClip shippingOne).clips.recs.get d = some m → m.st ≠ .opened ∧ m.st ≠ .closing) ∧
      ((∃ p, ((withClip shippingOne).prog p).st ≠ .idle) ∧ (withClip shippingOne).clips.recs.get 9 = some shippingOne ∧
        shippingOne.st = .shipping ∧ shippingOne.outOffset = some 400 ∧ shippingOne.inOffset < 400) :=
  ⟨withClip_free _, fun c k h => by rw [(withClip_only _ k c h).2]; decide,
    fun d m hd h => absurd (withClip_only _ m d h).1 hd, fun d m h => by rw [(withClip_only _ m d h).2]; decide,
    by decide +kernel⟩

theorem witness_ReadsChangeOnlyTheLink :
    Free up ∧ SegmentsConserved (withSegment almostFull up) ∧ almostFull ∈ ((withSegment almostFull up).chain 0).segs ∧
      (∀ c k, (c, k) ∈ [((9 : Fin 64), clipIn .closed)] ↔ (withClip (clipIn .closed)).clips.recs.get c = some k) ∧
      [((9 : Fin 64), clipIn .closed)].Pairwise (fun a b => newer32 b.2.creation a.2.creation = true) ∧
      ((∀ p, ∀ g ∈ (up.chain p).segs, g.number ≠ 4095) ∧ State.reset.link.ready = false ∧
        State.reset.link.notices.length < 32 ∧ 3 < 4 ∧ 1 < 2 ∧ 4095 < 4096 ∧ 5 < 6 ∧ 63 < 64) := by
  refine ⟨up_free, withSegment_conserved almostFull rfl, ?_, fun c k => ⟨fun h => ?_, fun h => ?_⟩,
    List.pairwise_singleton _ _, by decide +kernel⟩
  · rw [withSegment_chain_zero]
    exact List.mem_singleton_self _
  · cases List.mem_singleton.mp h
    decide +kernel
  · obtain ⟨rfl, rfl⟩ := withClip_only _ k c h
    exact List.mem_singleton_self _

end Sys2Proof.Tests
end

section
/-! PROOFS. The statements of R11 and R13, on three layers of facts: the range checks that come first in a request
(R204), what commutes with the count of a request (R203), and what a run of the allocator changes (R62). -/

namespace Sys2Proof.Machine

/-! ### A request that is answered at once (R203) -/

theorem exec_answered {c : Instr} {tag : Byte} {r : Request} {a : Answer} {s t : State}
    (taken : exec c s = .next (submit tag r s)) (free : Free s)
    (performed : perform r (counted s) = (.answer a, counted t)) :
    exec c s = .next (answered tag r.kind a.status a.detail a.detail2 a.body t) := by
  rw [taken, submit_answered tag r s t a free performed]

/-! ### Range checks (R204) -/

theorem offending_eq_none_iff (checks : List Bool) : offending checks = none ↔ ∀ ok ∈ checks, ok = true := by
  simp [offending]

theorem offending_le_length {checks : List Bool} {k : Nat} (h : offending checks = some k) :
    1 ≤ k ∧ k ≤ checks.length := by
  obtain ⟨i, found, rfl⟩ := Option.map_eq_some_iff.mp h
  obtain ⟨inside, -⟩ := List.findIdx?_eq_some_iff_getElem.mp found
  omega

theorem checked_of_pass {checks : List Bool} (s : State) (act : Answer × State) (h : ∀ ok ∈ checks, ok = true) :
    checked checks s act = act := by
  unfold checked
  rw [(offending_eq_none_iff checks).mpr h]

theorem checked_of_fail {checks : List Bool} (s : State) (act : Answer × State) (h : ¬∀ ok ∈ checks, ok = true) :
    ∃ k, 1 ≤ k ∧ k ≤ checks.length ∧ checked checks s act = (outOfRange k, s) := by
  obtain ⟨k, found⟩ := Option.ne_none_iff_exists'.mp (mt (offending_eq_none_iff checks).mp h)
  obtain ⟨lower, upper⟩ := offending_le_length found
  exact ⟨k, lower, upper, by unfold checked; rw [found]⟩

theorem configured_of_record {program : Nat} {s : State} {r : ProgramRecord} (act : Answer × State)
    (h : (s.prog (idx4 program)).record = some r) : configured program s act = act := by
  unfold configured
  rw [h]
  rfl

theorem configured_of_none {program : Nat} {s : State} (act : Answer × State)
    (h : (s.prog (idx4 program)).record = none) : configured program s act = (refuse .notReady program, s) := by
  unfold configured
  rw [h]
  rfl

/-! ### What commutes with the count of a request (R203) -/

theorem makeNotice_counted (kind : Nat) (details : List Byte) (s : State) :
    makeNotice kind details (counted s) = counted (makeNotice kind details s) := by
  by_cases room : s.link.notices.length < Config.maxNotices
  · simp [makeNotice, counted, State.modLink, room]
  · simp [makeNotice, counted, State.modLink, room, latchEvent]

theorem raise_counted (k : EventKind) (details : List Byte) (s : State) :
    raise k details (counted s) = counted (raise k details s) := by
  unfold raise
  by_cases subscribed : s.link.subscribed.get k.index
  · have same : (counted s).link.subscribed.get k.index := subscribed
    rw [if_pos subscribed, if_pos same]
    exact makeNotice_counted k.index.1 details (s.modLink (latchEvent k))
  · have same : ¬(counted s).link.subscribed.get k.index := subscribed
    rw [if_neg subscribed, if_neg same]
    rfl

/-- What a run of the allocator leaves before it raises STARVED: its outputs, and the clip bucket at its cap (R62,
R163). -/
def allocated (cause : AllocCause) (s : State) : State :=
  { s with
    alloc := allocate cause s
    sched := { s.sched with bucket := min s.sched.bucket (100 * (allocate cause s).clipRate) } }

theorem runAllocator_eq (cause : AllocCause) (s : State) :
    runAllocator cause s =
      if (allocate cause s).starved && !s.alloc.starved then
        raise .starved
          (u32 (allocate cause s).video ++ u32 (allocate cause s).minSum ++ u8 (runningRecords s).length)
          (allocated cause s)
      else allocated cause s := rfl

theorem runAllocator_counted (cause : AllocCause) (s : State) :
    runAllocator cause (counted s) = counted (runAllocator cause s) := by
  have formed : allocate cause (counted s) = allocate cause s := rfl
  have kept : (counted s).alloc = s.alloc := rfl
  have left : allocated cause (counted s) = counted (allocated cause s) := rfl
  have running : runningRecords (counted s) = runningRecords s := rfl
  rw [runAllocator_eq, runAllocator_eq, formed, kept, left, running, raise_counted]
  split <;> rfl

theorem runAllocator_alloc (cause : AllocCause) (s : State) : (runAllocator cause s).alloc = allocate cause s := by
  rw [runAllocator_eq]
  split
  · exact (raise_inner .starved _ _).same .alloc (by decide)
  · rfl

/-! ### SET_RATE_LIMITS (R11) -/

/-- The range checks of SET_RATE_LIMITS, in the order of its fields. -/
def rateLimitChecks (program lo hi weight : Nat) : List Bool :=
  [isProgram program, inRange 500 400000 lo, inRange 500 400000 hi && decide (lo ≤ hi), inRange 1 15 weight]

/-- The three fields of a record that SET_RATE_LIMITS writes. -/
def withRateLimits (lo hi weight : Nat) (r : ProgramRecord) : ProgramRecord :=
  { r with minRate := lo, maxRate := hi, weight := weight }

/-- What a SET_RATE_LIMITS that is taken leaves. -/
def rateLimited (p : Fin 4) (lo hi weight : Nat) (s : State) : State :=
  runAllocator .rateLimits (modRecord p (withRateLimits lo hi weight) s)

theorem reqSetRateLimits_eq (program lo hi weight : Nat) (s : State) :
    reqSetRateLimits program lo hi weight s =
      checked (rateLimitChecks program lo hi weight) s
        (configured program s (done, rateLimited (idx4 program) lo hi weight s)) := rfl

theorem rateLimitChecks_pass_iff (program lo hi weight : Nat) :
    (∀ ok ∈ rateLimitChecks program lo hi weight, ok = true) ↔
      program ≤ 3 ∧ 500 ≤ lo ∧ lo ≤ hi ∧ hi ≤ 400000 ∧ 1 ≤ weight ∧ weight ≤ 15 := by
  simp only [rateLimitChecks, isProgram, inRange, List.forall_mem_cons, List.mem_nil_iff, IsEmpty.forall_iff, forall_const,
    and_true, Bool.and_eq_true, decide_eq_true_eq]
  omega

theorem modRecord_progs_of_record (p : Fin 4) (f : ProgramRecord → ProgramRecord) (s : State) (r : ProgramRecord)
    (h : (s.prog p).record = some r) :
    (modRecord p f s).progs = Vec.put s.progs p { s.prog p with record := some (f r) } := by
  have written : { s.prog p with record := (s.prog p).record.map f } = { s.prog p with record := some (f r) } := by
    rw [h]
    rfl
  exact congrArg (Vec.put s.progs p) written

theorem rateLimited_counted (p : Fin 4) (lo hi weight : Nat) (s : State) :
    rateLimited p lo hi weight (counted s) = counted (rateLimited p lo hi weight s) :=
  runAllocator_counted .rateLimits (modRecord p (withRateLimits lo hi weight) s)

theorem rateLimited_inner (p : Fin 4) (lo hi weight : Nat) (s : State) :
    Inner [.progs, .alloc, .sched, .link] s (rateLimited p lo hi weight s) :=
  ((modRecord_inner p _ s).widen).andThen (runAllocator_inner _ _)

theorem rateLimited_alloc (p : Fin 4) (lo hi weight : Nat) (s : State) :
    (rateLimited p lo hi weight s).alloc =
      allocate .rateLimits (modRecord p (withRateLimits lo hi weight) s) := runAllocator_alloc _ _

theorem rateLimited_progs (p : Fin 4) (lo hi weight : Nat) (s : State) :
    (rateLimited p lo hi weight s).progs = (modRecord p (withRateLimits lo hi weight) s).progs :=
  (runAllocator_inner .rateLimits _).same .progs (by decide)

/-- Settles O16: the request is answered by the first of the range checks, the configuration check and the taking that
applies; the frame of a request that is taken is that of the record's write and of one allocator run. -/
theorem setRateLimitsRunsTheAllocator : Obligations.SetRateLimitsRunsTheAllocator := by
  intro tag program lo hi weight s free ok p
  have pass_iff := rateLimitChecks_pass_iff program lo hi weight
  have reply {a : Answer} {t : State} (h : reqSetRateLimits program lo hi weight (counted s) = (a, counted t)) :
      exec (.setRateLimits tag program lo hi weight) s =
        .next (answered tag 5 a.status a.detail a.detail2 a.body t) :=
    exec_answered (exec_setRateLimits tag program lo hi weight s) free (congrArg atOnce h)
  refine ⟨fun outside => ?_, fun inside absent => ?_, fun inside r present => ?_⟩
  · obtain ⟨k, lower, upper, refused⟩ := checked_of_fail (counted s) _ (mt pass_iff.mp outside)
    exact ⟨k, lower, upper, reply refused⟩
  · refine reply (a := refuse .notReady program) ?_
    rw [reqSetRateLimits_eq, checked_of_pass _ _ (pass_iff.mpr inside)]
    exact configured_of_none _ absent
  · have taken : reqSetRateLimits program lo hi weight (counted s) =
        (done, counted (rateLimited p lo hi weight s)) := by
      rw [reqSetRateLimits_eq, checked_of_pass _ _ (pass_iff.mpr inside),
        configured_of_record (s := counted s) _ present, rateLimited_counted]
      rfl
    have kept := rateLimited_inner p lo hi weight s
    have formed := rateLimited_alloc p lo hi weight s
    exact ⟨_, reply taken, (rateLimited_progs p lo hi weight s).trans (modRecord_progs_of_record p _ s r present),
      congrArg Allocator.cause formed, congrArg Allocator.runs formed, kept.same .loops (by decide),
      kept.same .coders (by decide), kept.same .chains (by decide), kept.same .mem (by decide)⟩

/-! ### START (R13) -/

theorem mem_namedPrograms (mask : Nat) (p : Fin 4) : p ∈ namedPrograms mask ↔ mask.testBit p.1 = true := by
  simp [namedPrograms]

theorem namedPrograms_ascending (mask : Nat) : (namedPrograms mask).Pairwise (· < ·) :=
  (List.pairwise_lt_finRange 4).filter _

theorem firstOffender_eq_none {ps : List (Fin 4)} {s : State} (h : ∀ p ∈ ps, startOffence p s = none) :
    firstOffender ps s = none :=
  List.findSome?_eq_none_iff.mpr fun p named => by rw [h p named]; rfl

/-- In ascending order, the first offender is the one below which no named program offends. -/
theorem firstOffender_eq_some {ps : List (Fin 4)} {s : State} {p : Fin 4} {k : Status}
    (ascending : ps.Pairwise (· < ·)) (named : p ∈ ps) (offends : startOffence p s = some k)
    (lowest : ∀ q ∈ ps, q < p → startOffence q s = none) : firstOffender ps s = some (k, p) := by
  induction ps with
  | nil => cases named
  | cons q qs ih =>
    obtain ⟨below, ascends⟩ := List.pairwise_cons.mp ascending
    rcases List.mem_cons.mp named with rfl | later
    · simp [firstOffender, offends]
    · have passes := lowest q List.mem_cons_self (below p later)
      have rest := ih ascends later fun r hr => lowest r (List.mem_cons_of_mem q hr)
      simpa [firstOffender, passes] using rest

/-- A program that becomes ARMED (R13). -/
def armed (g : Program) : Program := { g with st := .armed }

/-- `s` with all four programs replaced. -/
def withPrograms (f : Fin 4 → Program) (s : State) : State := { s with progs := Vec.tab f }

theorem withPrograms_modProg (f : Fin 4 → Program) (s : State) (p : Fin 4) (g : Program → Program) :
    withPrograms f (s.modProg p g) = withPrograms f s := rfl

theorem withPrograms_prog (s : State) : withPrograms s.prog s = s := by
  have same : Vec.tab s.prog = s.progs :=
    Vector.ext fun i inside => by simp [Vec.tab, State.prog, get_eq_getElem]
  unfold withPrograms
  rw [same]

theorem armAll_cons (p : Fin 4) (ps : List (Fin 4)) (s : State) :
    armAll (p :: ps) s = armAll ps (s.modProg p armed) := rfl

theorem armAll_eq (ps : List (Fin 4)) (s : State) :
    armAll ps s = withPrograms (fun p => if p ∈ ps then armed (s.prog p) else s.prog p) s := by
  induction ps generalizing s with
  | nil => simpa [armAll] using (withPrograms_prog s).symm
  | cons q qs ih =>
    rw [armAll_cons, ih, withPrograms_modProg]
    congr 1
    funext p
    rw [modProg_prog]
    by_cases first : q = p
    · simp [first, armed]
    · simp [first, Ne.symm first]

theorem startMask_pass_iff (mask : Nat) : (∀ ok ∈ [inRange 1 15 mask], ok = true) ↔ 1 ≤ mask ∧ mask ≤ 15 := by
  simp [inRange]

theorem reqStart_of_outside {mask : Nat} (s : State) (h : mask = 0 ∨ 15 < mask) :
    reqStart mask s = (outOfRange 1, s) := by
  have fails : ¬∀ ok ∈ [inRange 1 15 mask], ok = true := mt (startMask_pass_iff mask).mp (by omega)
  obtain ⟨k, lower, upper, refused⟩ := checked_of_fail s _ fails
  obtain rfl : k = 1 := Nat.le_antisymm upper lower
  exact refused

theorem reqStart_of_offender {mask : Nat} {s : State} {k : Status} {p : Fin 4} (inside : 1 ≤ mask ∧ mask ≤ 15)
    (h : firstOffender (namedPrograms mask) s = some (k, p)) : reqStart mask s = (refuse k p.1, s) := by
  unfold reqStart
  rw [checked_of_pass _ _ ((startMask_pass_iff mask).mpr inside), h]

theorem reqStart_of_none {mask : Nat} {s : State} (inside : 1 ≤ mask ∧ mask ≤ 15)
    (h : firstOffender (namedPrograms mask) s = none) :
    reqStart mask s = (accepted, armAll (namedPrograms mask) s) := by
  unfold reqStart
  rw [checked_of_pass _ _ ((startMask_pass_iff mask).mpr inside), h]

/-- Settles O17: the named programs stand in ascending number, so the search for an offender finds the lowest; without
one, arming them one after the other is arming them together. -/
theorem startArmsTheGroup : Obligations.StartArmsTheGroup := by
  intro tag mask s free offence
  have judged (p : Fin 4) : startOffence p s = offence p := by
    by_cases idle : (s.prog p).st = .idle
    · cases record : (s.prog p).record <;> simp [offence, startOffence, idle, record]
    · simp [offence, startOffence, idle]
  have reply {a : Answer} {t : State} (h : reqStart mask (counted s) = (a, counted t)) :
      exec (.start tag mask) s = .next (answered tag 6 a.status a.detail a.detail2 a.body t) :=
    exec_answered (exec_start tag mask s) free (congrArg atOnce h)
  refine ⟨fun outside => reply (a := outOfRange 1) (reqStart_of_outside _ outside), fun lower upper =>
    ⟨fun p k named offends lowest => ?_, fun fit => ?_⟩⟩
  · have first : firstOffender (namedPrograms mask) s = some (k, p) :=
      firstOffender_eq_some (namedPrograms_ascending mask) ((mem_namedPrograms mask p).mpr named)
        ((judged p).trans offends) fun q hq below =>
          (judged q).trans (lowest q below ((mem_namedPrograms mask q).mp hq))
    exact reply (a := refuse k p.1) (reqStart_of_offender ⟨lower, upper⟩ first)
  · have clear : firstOffender (namedPrograms mask) s = none :=
      firstOffender_eq_none fun p hp => (judged p).trans (fit p ((mem_namedPrograms mask p).mp hp))
    have arms : reqStart mask (counted s) = (accepted, counted (armAll (namedPrograms mask) s)) := by
      rw [reqStart_of_none (s := counted s) ⟨lower, upper⟩ clear, armAll_eq, armAll_eq]
      rfl
    rw [reply arms, armAll_eq]
    simp only [mem_namedPrograms]
    rfl

end Sys2Proof.Machine
end

section
/-! PROOFS. What a command does to the bounds, the memory and the segments, said once for every command: a request command
is a submitted request, and every other command is one operation of Laws/Exec.lean. -/

namespace Sys2Proof.Machine

set_option Elab.async false

/-! ### Commands as requests (log entry 1) -/

theorem next_injective {s t : State} (h : (.next s : Host.Outcome State Fault Refusal) = .next t) : s = t := by
  injection h

theorem arrive_zero (s : State) : arrive 0 s = s := by
  simp [arrive, State.modTb]

/-- A request command is its request, submitted at the time that the command carries; a command without a time is taken at
the present one. -/
theorem exec_of_request {c : Instr} {tag : Byte} {r : Request} (s : State) (h : requestOf c = some (tag, r)) :
    ∃ time, exec c s = .next (submit tag r (arrive time s)) := by
  cases c <;> cases h
  case setStation.refl time _ _ => exact ⟨time, rfl⟩
  all_goals exact ⟨0, by rw [arrive_zero]; rfl⟩

/-! ### What every command keeps -/

theorem arrive_keeps (time : Nat) (s : State) : Keeps s (arrive time s) :=
  (arrive_inner time s).keeps (arrive_inner time s).bounded

theorem request_keeps {c : Instr} {tag : Byte} {r : Request} {s t : State} (h : requestOf c = some (tag, r))
    (run : exec c s = .next t) : Keeps s t := by
  obtain ⟨time, submitted⟩ := exec_of_request s h
  rw [submitted] at run
  cases run
  exact (arrive_keeps time s).trans (submit_keeps tag r _)

/-- A path with the values of a hard reset keeps to its bounds, whatever its carrier (R127; log entry 3). -/
theorem resetPath_bounded (present : Bool) : PathBounded { Path.reset with carrier := present } := by
  simp [PathBounded, Path.reset]

theorem afterHardReset_bounded (s : State) : PathsBounded (afterHardReset s) := by
  intro l
  have path : (afterHardReset s).path l = { Path.reset with carrier := (s.path l).carrier } := by
    simp [afterHardReset, State.path, State.reset, mapAll]
  rw [path]
  exact resetPath_bounded _

/-- Right after a reset no segment is in a chain, and the free list holds all in ascending number (R107, R125). -/
theorem allNumbers_reset : allNumbers State.reset = List.range 4096 := by
  have free : State.reset.store.freeList = List.range Config.segmentCount := by
    simp only [State.reset, Store.reset]
  have chain (p : Fin 4) : chainNumbers (State.reset.chain p) = [] := by
    simp [State.chain, State.reset, chainNumbers, Chain.reset]
  simp only [allNumbers, free, chain, List.append_nil, Config.segmentCount]

theorem reset_linkBounded : LinkBounded State.reset := by simp [LinkBounded, State.reset, Link.reset]

theorem reset_windowBounded : WindowBounded State.reset := by simp [windowBounded_iff, State.reset, Scheduler.reset]

theorem afterHardReset_keeps (s : State) : Keeps s (afterHardReset s) where
  pending := rfl
  canonical _ := rfl
  segments _ := by
    have same : allNumbers (afterHardReset s) = allNumbers State.reset := rfl
    rw [SegmentsConserved, same, allNumbers_reset]
  window _ := reset_windowBounded
  paths _ := afterHardReset_bounded s
  link _ := reset_linkBounded

/-- Every command keeps the queue of commands and every invariant of Safety.lean but the timebase's. -/
theorem exec_keeps {c : Instr} {s t : State} (run : exec c s = .next t) : Keeps s t := by
  cases request : requestOf c with
  | some x => exact request_keeps request run
  | none =>
    cases c <;> simp only [requestOf, reduceCtorEq] at request
    all_goals obtain rfl := next_injective run
    case hardReset => exact afterHardReset_keeps s
    case linkReady => exact becomeReady_keeps s
    case inboundFrame time bytes => exact (arrive_keeps time s).trans (exchange_keeps bytes _)
    case outboundFrameSent time => exact (arrive_keeps time s).trans (outboundFrameSent_keeps _)
    case referencePulse time =>
      exact (arrive_keeps time s).trans ((takePulse_inner _).keeps (takePulse_bounded _))
    case dueTick => exact (takeDueTick_inner s).keeps (takeDueTick_bounded s)
    case referenceLossExpiry => exact (takeLossExpiry_inner s).keeps (takeLossExpiry_bounded s)
    case pacingTick => exact (pacingTick_inner s).keeps (pacingTick_bounded s)
    case allocationTick => exact (takeAllocationTick_inner s).keeps (takeAllocationTick_inner s).bounded
    case startOfPictureMarker port =>
      exact ((startOfPicture_inner port s).keeps (startOfPicture_inner port s).bounded).trans
        ((endEvent_inner s _).keeps (endEvent_bounded s _))
    case portLossExpiry port =>
      have kept : Inner [.ports, .link] s (if inputLossDue (s.port port) then loseInput port s else s) :=
        .ite (loseInput_inner port s) (.refl _ s)
      exact kept.keeps kept.bounded
    case lineTaken port y cb cr =>
      exact ((lineTaken_inner port y cb cr s).keeps (lineTaken_inner port y cb cr s).bounded).trans
        ((endEvent_inner s _).keeps (endEvent_bounded s _))
    case closeLimit program =>
      exact ((closeLimit_inner program s.tb.picture s).keeps (closeLimit_inner program s.tb.picture s).bounded).trans
        ((endEvent_inner s _).keeps (endEvent_bounded s _))
    case sliceCoded program =>
      exact ((sliceCoded_inner program s).keeps (sliceCoded_inner program s).bounded).trans
        ((endEvent_inner s _).keeps (endEvent_bounded s _))
    case tableCheckEnd table => exact endTableCheck_keeps table s
    case slot port marker sample =>
      exact (takeSlot_inner port marker sample s).keeps (takeSlot_inner port marker sample s).bounded
    case slotSilenceExpiry port => exact (modSlot_inner s port silentSlot).keeps (modSlot_inner s port silentSlot).bounded
    case sampleTick => exact (sampleTick_inner s).keeps (sampleTick_inner s).bounded
    case retentionRelease => exact (retentionTick_inner s).keeps (retentionTick_inner s).bounded
    case endOfWriting program =>
      exact ((endWriting_inner program s).keeps (endWriting_inner program s).bounded).trans
        ((settle_inner _).keeps (settle_bounded _))
    case drainComplete program =>
      exact ((completeDrain_inner program s).keeps (completeDrain_inner program s).bounded).trans
        ((settle_inner _).keeps (settle_bounded _))
    case carrierGained path => exact (carrierGained_inner path s).keeps (carrierGained_bounded path s)
    case carrierLost path =>
      exact ((carrierLost_inner path s).keeps (carrierLost_bounded path s)).trans
        ((settle_inner _).keeps (settle_bounded _))
    case frameSent path => exact (frameSent_inner path s).keeps (frameSent_bounded path s)
    case silenceExpiry path =>
      exact ((silenceDue_inner path s).keeps (silenceDue_bounded path s)).trans
        ((settle_inner _).keeps (settle_bounded _))
    case report path frame => exact (takeFrame_inner path frame s).keeps (takeFrame_bounded path frame s)
    case entryAgeExpiry send =>
      have kept := (expireEntries_inner (fun e => e.send == send) s).widen (ps := [.chains, .sched, .store])
      exact (kept.andThen (freeZero_inner _)).keeps (kept.andThen (freeZero_inner _)).bounded
    case clipStartShipping =>
      have kept : Inner (settleParts) s (if shipCanStart s then settle (startShip s) else s) :=
        .ite (((startShip_inner s).widen).andThen (settle_inner _)) (.refl _ s)
      refine kept.keeps fun h => ?_
      split
      · exact settle_bounded _ ((startShip_inner s).bounded h)
      · exact h
    case shippingComplete =>
      have kept : Inner (settleParts) s (if shipDone s then settle (completeShip s) else s) :=
        .ite (((completeShip_inner s).widen).andThen (settle_inner _)) (.refl _ s)
      refine kept.keeps fun h => ?_
      split
      · exact settle_bounded _ ((completeShip_inner s).bounded h)
      · exact h
    case periodEnd program =>
      exact ((periodEnd_inner program s).keeps (periodEnd_inner program s).bounded).trans
        ((settle_inner _).keeps (settle_bounded _))
    case markLinePress line => exact (takePress_inner line s).keeps (takePress_bounded line s)

/-! ### Steps -/

/-- Every command answers a next state (log entry 29). -/
theorem exec_next (c : Instr) (s : State) : ∃ t, exec c s = .next t := by
  cases c <;> exact ⟨_, rfl⟩

/-- A step is an idle one, or one command run with the queue's rest. -/
theorem step_cases {s t : State} (h : step s = .next t) :
    t = s ∨ ∃ c rest, s.pending = c :: rest ∧ exec c (s.withPending rest) = .next t := by
  unfold step at h
  split at h
  · cases h
    exact .inl rfl
  · exact .inr ⟨_, _, ‹_›, h⟩

/-- What every command keeps of a state, whatever its queue, every step keeps. -/
theorem step_keeps_of_exec {P : State → Prop} (queue : ∀ s q, P s → P (s.withPending q))
    (kept : ∀ c s t, P s → exec c s = .next t → P t) {s t : State} (h : P s) (run : step s = .next t) : P t := by
  obtain rfl | ⟨c, rest, -, run⟩ := step_cases run
  · exact h
  · exact kept c _ t (queue s rest h) run

/-- Settles O1. -/
theorem stepRunsFrontCommand : Obligations.StepRunsFrontCommand := by
  refine ⟨fun c rest s front => ?_, fun s empty => ?_, fun c s => ?_⟩
  · simp only [step, front]
    rfl
  · simp only [step, empty]
  · obtain ⟨t, run⟩ := exec_next c s
    exact ⟨t, run, (exec_keeps run).pending⟩

/-- Settles O2: no operation writes memory but `memWriteBytes`, which keeps the form. -/
theorem memoryStaysCanonical : Obligations.MemoryStaysCanonical := fun _ _ =>
  step_keeps_of_exec (P := MemoryCanonical) (fun _ _ h => h) fun _ _ _ h run => (exec_keeps run).canonical h

/-- Settles O3: every operation inside an event permutes the numbers of all segments, and the hard reset lists them anew. -/
theorem segmentsStayConserved : Obligations.SegmentsStayConserved := fun _ _ =>
  step_keeps_of_exec (P := SegmentsConserved) (fun _ _ h => h) fun _ _ _ h run => (exec_keeps run).segments h

/-- Settles O7, by the rows of the table. -/
theorem rateTableHolds : Obligations.RateTableHolds := by
  refine ⟨by decide, fun r => ?_⟩
  fin_cases r <;> exact ⟨rfl, by decide⟩

end Sys2Proof.Machine
end

section
/-! PROOFS. Requests taken one after the other: the parts that each kind of request may change, and what every run of the
request processor keeps because each request does. With them the bounds that every step keeps (R1 to R3, R12). -/

namespace Sys2Proof.Machine

set_option Elab.async false

/-! ### The parts that a request may change -/

/-- The parts that a request of each kind may change (R203); one that is taken by more blocks names more of them. -/
def Request.parts : Request → List Part
  | .unknownKind _ => []
  | .badLength .. => []
  | .setStation .. => tickParts
  | .setTimecode .. => [.tb]
  | .readTimebase => []
  | .configureProgram .. => [.progs]
  | .setRateLimits .. => [.progs, .alloc, .sched, .link]
  | .start .. => [.arming, .progs]
  | .stop .. => [.progs, .link, .clips, .sched, .chains, .alloc]
  | .abort .. => .store :: .paths :: .alloc :: idleParts
  | .programStatus .. => []
  | .setSlate .. => [.progs]
  | .readPicturePort .. => []
  | .loadTable .. => [.tables]
  | .selectTable .. => [.progs]
  | .readTable .. => []
  | .readBudget => []
  | .configureSlotPort .. => [.slots]
  | .enableSlotPort .. => [.slots]
  | .disableSlotPort .. => [.slots]
  | .readSlotPort .. => []
  | .bindInput .. => [.mixer]
  | .setGain .. => [.mixer]
  | .setBus .. => [.mixer]
  | .setMonitor .. => [.mixer]
  | .readMixer .. => [.mixer]
  | .setRetention .. => [.progs]
  | .setReserve .. => [.clips, .sched, .chains, .store, .link]
  | .readStore => []
  | .readSegment .. => []
  | .readChain .. => []
  | .configurePath .. => [.paths]
  | .enablePath .. => pathParts
  | .disablePath .. => .alloc :: settleParts
  | .setUplink .. => [.alloc, .uplink, .sched, .link]
  | .readPath .. => []
  | .readUplink => []
  | .setDelivery .. => [.sched]
  | .readWindow => []
  | .markIn .. => [.clips, .chains, .link]
  | .markOut .. => settleParts
  | .setMarkLine .. => [.lines]
  | .setLabel .. => settleParts
  | .ship .. => settleParts
  | .cancelShip .. => settleParts
  | .release .. => settleParts
  | .readClip .. => []
  | .listClips => []
  | .status .. => [.flags, .link]
  | .subscribe .. => [.flags, .link]
  | .identify => []
  | .restart => restartParts

theorem perform_frame (r : Request) (s : State) : Inner r.parts s (perform r s).2 := by
  cases r
  case unknownKind => exact .refl _ s
  case badLength => exact .refl _ s
  case setStation => exact reqSetStation_inner ..
  case setTimecode => exact reqSetTimecode_inner ..
  case readTimebase => exact reqReadTimebase_inner s
  case configureProgram => exact reqConfigureProgram_inner ..
  case setRateLimits => exact reqSetRateLimits_inner ..
  case start => exact reqStart_inner ..
  case stop => exact reqStop_inner ..
  case abort => exact reqAbort_inner ..
  case programStatus => exact reqProgramStatus_inner ..
  case setSlate => exact reqSetSlate_inner ..
  case readPicturePort => exact reqReadPicturePort_inner ..
  case loadTable => exact reqLoadTable_inner ..
  case selectTable => exact reqSelectTable_inner ..
  case readTable => exact reqReadTable_inner ..
  case readBudget => exact reqReadBudget_inner s
  case configureSlotPort => exact reqConfigureSlotPort_inner ..
  case enableSlotPort => exact reqEnableSlotPort_inner ..
  case disableSlotPort => exact reqDisableSlotPort_inner ..
  case readSlotPort => exact reqReadSlotPort_inner ..
  case bindInput => exact reqBindInput_inner ..
  case setGain => exact reqSetGain_inner ..
  case setBus => exact reqSetBus_inner ..
  case setMonitor => exact reqSetMonitor_inner ..
  case readMixer => exact reqReadMixer_inner ..
  case setRetention => exact reqSetRetention_inner ..
  case setReserve => exact reqSetReserve_inner ..
  case readStore => exact reqReadStore_inner s
  case readSegment => exact reqReadSegment_inner ..
  case readChain => exact reqReadChain_inner ..
  case configurePath => exact reqConfigurePath_inner ..
  case enablePath => exact reqEnablePath_inner ..
  case disablePath => exact reqDisablePath_inner ..
  case setUplink => exact reqSetUplink_inner ..
  case readPath => exact reqReadPath_inner ..
  case readUplink => exact reqReadUplink_inner s
  case setDelivery => exact reqSetDelivery_inner ..
  case readWindow => exact reqReadWindow_inner s
  case markIn => exact reqMarkIn_inner ..
  case markOut => exact reqMarkOut_inner ..
  case setMarkLine => exact reqSetMarkLine_inner ..
  case setLabel => exact reqSetLabel_inner ..
  case ship => exact reqShip_inner ..
  case cancelShip => exact reqCancelShip_inner ..
  case release => exact reqRelease_inner ..
  case readClip => exact reqReadClip_inner ..
  case listClips => exact reqListClips_inner s
  case status => exact reqStatus_inner ..
  case subscribe => exact reqSubscribe_inner ..
  case identify => exact reqIdentify_inner s
  case restart => exact reqRestart_inner s

/-! ### What a command can do -/

/-- The parts that an event may change which makes no tick: the timebase, the settings and the flags of the link are not
among them, and it takes no program out of IDLE. -/
abbrev eventParts : List Part :=
  [.progs, .ports, .intakes, .coders, .loops, .alloc, .slots, .mixer, .framers, .store, .chains, .mem, .paths, .uplink,
    .sched, .lives, .clips, .lines, .link]

/-- What a command can do: it is a request, one of the commands of the link or of the timebase, or an event that leaves the
timebase as it stands. -/
inductive CommandEffect (c : Instr) (s : State) : State → Prop where
  | request (tag : Byte) (r : Request) (time : Nat) (h : requestOf c = some (tag, r)) :
      CommandEffect c s (submit tag r (arrive time s))
  | hardReset (h : c = .hardReset) : CommandEffect c s (afterHardReset s)
  | linkReady (h : c = .linkReady) : CommandEffect c s (becomeReady s)
  | inboundFrame (time : Nat) (bytes : List Byte) (h : c = .inboundFrame time bytes) :
      CommandEffect c s (exchange bytes (arrive time s))
  | outboundFrameSent (time : Nat) (h : c = .outboundFrameSent time) :
      CommandEffect c s (outboundFrameSent (arrive time s))
  | tableCheckEnd (table : Fin 2) (h : c = .tableCheckEnd table) : CommandEffect c s (endTableCheck table s)
  | referencePulse (time : Nat) (h : c = .referencePulse time) : CommandEffect c s (takePulse (arrive time s))
  | dueTick (h : c = .dueTick) : CommandEffect c s (takeDueTick s)
  | lossExpiry (h : c = .referenceLossExpiry) : CommandEffect c s (takeLossExpiry s)
  | pacingTick (h : c = .pacingTick) : CommandEffect c s (pacingTick s)
  | allocationTick (h : c = .allocationTick) : CommandEffect c s (takeAllocationTick s)
  | event (t : State) (h : Inner eventParts s t) : CommandEffect c s t

theorem exec_effect {c : Instr} {s t : State} (run : exec c s = .next t) : CommandEffect c s t := by
  cases request : requestOf c with
  | some x =>
    obtain ⟨time, submitted⟩ := exec_of_request s request
    rw [submitted] at run
    exact next_injective run ▸ .request _ _ time request
  | none =>
    cases c <;> simp only [requestOf, reduceCtorEq] at request
    all_goals obtain rfl := next_injective run
    case hardReset => exact .hardReset rfl
    case linkReady => exact .linkReady rfl
    case inboundFrame time bytes => exact .inboundFrame time bytes rfl
    case outboundFrameSent time => exact .outboundFrameSent time rfl
    case tableCheckEnd table => exact .tableCheckEnd table rfl
    case referencePulse time => exact .referencePulse time rfl
    case dueTick => exact .dueTick rfl
    case referenceLossExpiry => exact .lossExpiry rfl
    case pacingTick => exact .pacingTick rfl
    case allocationTick => exact .allocationTick rfl
    all_goals refine .event _ ?_
    case startOfPictureMarker port => exact ((startOfPicture_inner port s).widen).andThen (endEvent_inner s _)
    case portLossExpiry port => exact .ite (loseInput_inner port s).widen (.refl _ s)
    case lineTaken port y cb cr => exact ((lineTaken_inner port y cb cr s).widen).andThen (endEvent_inner s _)
    case closeLimit program => exact ((closeLimit_inner program _ s).widen).andThen (endEvent_inner s _)
    case sliceCoded program => exact ((sliceCoded_inner program s).widen).andThen (endEvent_inner s _)
    case slot port marker sample => exact (takeSlot_inner port marker sample s).widen
    case slotSilenceExpiry port => exact (modSlot_inner s port silentSlot).widen
    case sampleTick => exact (sampleTick_inner s).widen
    case retentionRelease => exact (retentionTick_inner s).widen
    case endOfWriting program => exact ((endWriting_inner program s).widen).andThen (settle_inner _)
    case drainComplete program => exact ((completeDrain_inner program s).widen).andThen (settle_inner _)
    case carrierGained path => exact (carrierGained_inner path s).widen
    case carrierLost path => exact ((carrierLost_inner path s).widen).andThen (settle_inner _)
    case frameSent path => exact (frameSent_inner path s).widen
    case silenceExpiry path => exact ((silenceDue_inner path s).widen).andThen (settle_inner _)
    case report path frame => exact (takeFrame_inner path frame s).widen
    case entryAgeExpiry send => exact ((expireEntries_inner _ s).widen).andThen (freeZero_inner _)
    case clipStartShipping => exact .ite (((startShip_inner s).widen).andThen (settle_inner _)) (.refl _ s)
    case shippingComplete => exact .ite (((completeShip_inner s).widen).andThen (settle_inner _)) (.refl _ s)
    case periodEnd program => exact ((periodEnd_inner program s).widen).andThen (settle_inner _)
    case markLinePress line => exact (takePress_inner line s).widen

/-! ### What the link's operations keep because requests keep it -/

/-- A relation between the states before and after that link operations keep, since requests do and the link's own part
does not matter to it. -/
structure LinkStable (R : State → State → Prop) : Prop where
  refl : ∀ s, R s s
  trans : ∀ {s t u}, R s t → R t u → R s u
  link : ∀ s f, R s (s.modLink f)
  perform : ∀ r s, R s (perform r s).2

section
variable {R : State → State → Prop}

theorem LinkStable.process (h : LinkStable R) (w : Waiting) (s : State) : R s (process w s) :=
  h.trans (h.trans (h.link s countRequest) (h.perform w.req _)) <| by
    unfold Machine.process pushReply
    exact h.link _ _

theorem LinkStable.pumpN (h : LinkStable R) : ∀ n s, R s (pumpN n s)
  | 0, s => h.refl s
  | n + 1, s => by
    unfold Machine.pumpN
    split
    · exact h.refl s
    · split
      · exact h.trans (h.trans (h.link s _) (h.process _ _)) (h.pumpN n _)
      · exact h.refl s

theorem LinkStable.pump (h : LinkStable R) (s : State) : R s (pump s) := h.pumpN _ s

theorem LinkStable.acceptFrame (h : LinkStable R) (w : Waiting) (s : State) : R s (acceptFrame w s) := by
  unfold Machine.acceptFrame
  split
  · exact h.trans (h.link s _) (h.pump _)
  · dsimp only
    split
    · exact h.trans (h.link s _) (h.link _ _)
    · exact h.trans (h.link s _) (h.link _ _)

theorem LinkStable.submit (h : LinkStable R) (tag : Byte) (r : Request) (s : State) : R s (submit tag r s) := by
  unfold Machine.submit
  split
  · exact h.acceptFrame _ s
  · exact h.refl s

theorem LinkStable.makeNotice (h : LinkStable R) (kind : Nat) (details : List Byte) (s : State) :
    R s (makeNotice kind details s) := by
  unfold Machine.makeNotice
  exact h.link s _

theorem LinkStable.noticeLostTest (h : LinkStable R) (s : State) : R s (noticeLostTest s) := by
  unfold Machine.noticeLostTest
  split
  · exact h.trans (h.makeNotice _ _ s) (h.link _ _)
  · exact h.refl s

theorem LinkStable.frameDone (h : LinkStable R) (x : Sending) (s : State) : R s (frameDone x s) := by
  unfold Machine.frameDone
  split
  · exact h.trans (h.trans (h.link s _) (h.noticeLostTest _)) (h.pump _)
  · exact h.trans (h.link s _) (h.pump _)

theorem LinkStable.clockOut (h : LinkStable R) (s : State) : R s (clockOut s) := by
  unfold Machine.clockOut
  split
  · split
    · exact h.refl s
    · split
      · exact h.frameDone _ s
      · exact h.link s _
  · exact h.refl s

theorem LinkStable.outboundFrameSent (h : LinkStable R) (s : State) : R s (outboundFrameSent s) := by
  unfold Machine.outboundFrameSent
  split
  · split
    · exact h.refl s
    · exact h.frameDone _ s
  · exact h.refl s

theorem LinkStable.frameTaken (h : LinkStable R) (content : List Byte) (check : Nat) (s : State) :
    R s (frameTaken content check s) := by
  unfold Machine.frameTaken
  split
  · split
    · exact h.trans (h.link s _) (h.acceptFrame _ _)
    · exact h.link s _
  · exact h.link s _

theorem LinkStable.takeByte (h : LinkStable R) (b : Byte) (s : State) : R s (takeByte b s) := by
  unfold Machine.takeByte
  split
  · exact h.link s _
  · exact h.link s _
  · dsimp only
    split
    · exact h.link s _
    · exact h.link s _
  · split
    · exact h.link s _
    · exact h.link s _
  · exact h.link s _
  · exact h.frameTaken _ _ s

theorem LinkStable.exchange (h : LinkStable R) (bytes : List Byte) : ∀ s, R s (exchange bytes s) := by
  induction bytes with
  | nil => exact h.refl
  | cons b bs ih =>
    intro s
    have byte : R s (exchangeByte s b) := by
      unfold exchangeByte
      split
      · exact h.trans (h.clockOut s) (h.takeByte b _)
      · exact h.refl s
    exact h.trans byte (ih _)

end

/-! ### The order of the timebase's times (R1 to R3) -/

/-- `TimebaseOrdered` reads the timebase alone. -/
theorem timebaseOrdered_of_tb {s t : State} (same : t.tb = s.tb) (h : TimebaseOrdered s) : TimebaseOrdered t := by
  unfold TimebaseOrdered at h ⊢
  rwa [same]

theorem Inner.ordered {ps : List Part} {s t : State} (k : Inner ps s t) (h : TimebaseOrdered s)
    (untouched : Part.tb ∉ ps := by decide) : TimebaseOrdered t :=
  timebaseOrdered_of_tb (k.same .tb untouched) h

theorem arrive_ordered (time : Nat) (s : State) (h : TimebaseOrdered s) : TimebaseOrdered (arrive time s) :=
  ⟨h.1.trans (Nat.le_max_left _ _), h.2⟩

/-- A tick leaves the times in order when no due tick stands within a period after it. -/
theorem pictureTick_ordered {time : Nat} {s : State}
    (due : ∀ d, s.tb.due = some d → time + nominalPeriod (rateRow s.tb.rate) ≤ d)
    (drop : s.tb.drop = true → s.tb.rate = 3 ∨ s.tb.rate = 6) (divider : s.tb.divider < 100) :
    TimebaseOrdered (pictureTick time s) := by
  unfold TimebaseOrdered
  rw [pictureTick_tb]
  exact ⟨Nat.le_max_right _ _, due, drop, divider⟩

theorem takePulse_ordered (s : State) (h : TimebaseOrdered s) : TimebaseOrdered (takePulse s) := by
  obtain ⟨last, due, drop, divider⟩ := h
  unfold takePulse
  dsimp only
  split
  · exact (referenceBack_inner _ _).ordered (pictureTick_ordered (by simp) drop divider)
  · refine (referenceBack_inner _ _).ordered ⟨last, fun d hd => ?_, drop, divider⟩
    cases hd
    exact Nat.add_le_add_right last _

theorem takeDueTick_ordered (s : State) (h : TimebaseOrdered s) : TimebaseOrdered (takeDueTick s) := by
  obtain ⟨last, due, drop, divider⟩ := h
  unfold takeDueTick
  split
  · exact ⟨last, due, drop, divider⟩
  · refine pictureTick_ordered (fun d hd => ?_) drop divider
    simp only [modTb_tb] at hd
    split at hd
    · cases hd
      exact Nat.le_refl _
    · cases hd

theorem takeLossExpiry_ordered (s : State) (h : TimebaseOrdered s) : TimebaseOrdered (takeLossExpiry s) := by
  obtain ⟨last, due, drop, divider⟩ := h
  unfold takeLossExpiry
  split
  · dsimp only
    have same := fun t => (raise_flags .referenceLost [] t).same .tb (by decide)
    simp only [samePart] at same
    refine pictureTick_ordered (fun d hd => ?_) ?_ ?_
    · rw [same] at hd ⊢
      cases hd
      exact Nat.le_refl _
    · rw [same]; exact drop
    · rw [same]; exact divider
  · exact ⟨last, due, drop, divider⟩

theorem overdueTick_ordered (s : State) (h : TimebaseOrdered s) : TimebaseOrdered (overdueTick s) := by
  unfold overdueTick
  split
  · exact h
  · split
    · exact takeDueTick_ordered s h
    · exact h

theorem takeAllocationTick_ordered (s : State) (h : TimebaseOrdered s) : TimebaseOrdered (takeAllocationTick s) := by
  unfold takeAllocationTick
  split
  · have kept : TimebaseOrdered (s.modTb fun t => { t with allocDue := false }) := h
    exact (runAllocator_inner _ _).ordered kept
  · exact h

theorem pacingTick_ordered (s : State) (h : TimebaseOrdered s) : TimebaseOrdered (pacingTick s) := by
  unfold pacingTick pacingTickWith
  dsimp only
  refine (settle_inner _).ordered ((letAsk_inner _).ordered ((expiries_inner _ _).ordered ?_))
  refine (modSched_inner' _ _).ordered ((Inner.eachPath (ps := [.paths]) _ (fun l t => modPath_inner t l _) _).ordered ?_)
  obtain ⟨last, due, drop, -⟩ := takeAllocationTick_ordered s h
  exact ⟨last, due, drop, Nat.mod_lt _ (by decide)⟩

/-- Drop-frame is allowed at the rates 3 and 6 alone (R1). -/
theorem dropAllowed_rates {rate : Fin 8} (h : (rateRow rate).dropAllowed = true) : rate = 3 ∨ rate = 6 := by
  revert rate
  decide

theorem stationTimebase_ordered (rate : Fin 8) (drop : Bool) (s : State) (h : TimebaseOrdered s)
    (allowed : drop = true → (rateRow rate).dropAllowed = true) :
    TimebaseOrdered (s.modTb (stationTimebase rate drop)) := by
  obtain ⟨last, -, -, divider⟩ := h
  refine ⟨last, fun d hd => ?_, fun hd => dropAllowed_rates (allowed hd), divider⟩
  simp only [modTb_tb, stationTimebase] at hd
  split at hd
  · cases hd
    exact Nat.le_refl _
  · cases hd

theorem reqSetStation_ordered (rate drop : Nat) (s : State) (h : TimebaseOrdered s) :
    TimebaseOrdered (reqSetStation rate drop s).2 := by
  unfold reqSetStation
  by_cases pass : ∀ ok ∈ [decide (rate ≤ 7), isFlag drop && (!flagOf drop || (rateRow (Fin.ofNat 8 rate)).dropAllowed)],
      ok = true
  · rw [checked_of_pass s _ pass]
    split
    · exact h
    · refine overdueTick_ordered _ (stationTimebase_ordered _ _ s h fun set => ?_)
      have joint := pass _ (List.mem_cons_of_mem _ (List.mem_singleton_self _))
      simp only [set, Bool.not_true, Bool.false_or, Bool.and_eq_true] at joint
      exact joint.2
  · obtain ⟨k, -, -, refused⟩ := checked_of_fail s _ pass
    rw [refused]
    exact h

theorem perform_ordered (r : Request) (s : State) (h : TimebaseOrdered s) : TimebaseOrdered (perform r s).2 := by
  by_cases untouched : Part.tb ∉ r.parts
  · exact (perform_frame r s).ordered h untouched
  · cases r <;> simp only [Request.parts] at untouched
    case setStation rate drop => exact reqSetStation_ordered rate drop s h
    case setTimecode label =>
      unfold perform atOnce reqSetTimecode checked
      dsimp only
      split
      · exact h
      · exact h
    all_goals exact absurd (by decide) untouched

theorem ordered_linkStable : LinkStable fun s t => TimebaseOrdered s → TimebaseOrdered t where
  refl _ h := h
  trans h k o := k (h o)
  link _ _ h := h
  perform r s := perform_ordered r s

theorem reset_ordered : TimebaseOrdered State.reset := by
  refine ⟨Nat.le_refl _, fun d hd => ?_, fun h => ?_, by decide⟩
  · cases hd
    decide
  · cases h

theorem becomeReady_ordered (s : State) (h : TimebaseOrdered s) : TimebaseOrdered (becomeReady s) := by
  unfold becomeReady
  split
  · exact h
  · exact (makeNotice_inner _ _ _).ordered h

theorem endTableCheck_ordered (table : Fin 2) (s : State) (h : TimebaseOrdered s) :
    TimebaseOrdered (endTableCheck table s) := by
  unfold endTableCheck
  split <;> exact h

theorem exec_ordered {c : Instr} {s t : State} (h : TimebaseOrdered s) (run : exec c s = .next t) :
    TimebaseOrdered t := by
  cases exec_effect run with
  | request tag r time _ => exact ordered_linkStable.submit tag r _ (arrive_ordered time s h)
  | hardReset _ => exact reset_ordered
  | linkReady _ => exact becomeReady_ordered s h
  | inboundFrame time bytes _ => exact ordered_linkStable.exchange bytes _ (arrive_ordered time s h)
  | outboundFrameSent time _ => exact ordered_linkStable.outboundFrameSent _ (arrive_ordered time s h)
  | tableCheckEnd table _ => exact endTableCheck_ordered table s h
  | referencePulse time _ => exact takePulse_ordered _ (arrive_ordered time s h)
  | dueTick _ => exact takeDueTick_ordered s h
  | lossExpiry _ => exact takeLossExpiry_ordered s h
  | pacingTick _ => exact pacingTick_ordered s h
  | allocationTick _ => exact takeAllocationTick_ordered s h
  | event _ k => exact k.ordered h

/-- Settles O4: what `Keeps` says of every command, and the order of the times, which ticks and SET_STATION keep because
each places the due tick one period after the tick it makes. -/
theorem boundsAreKept : Obligations.BoundsAreKept := by
  intro s t run
  have kept (P : State → Prop) (queue : ∀ s q, P s → P (s.withPending q))
      (commands : ∀ c s t, P s → exec c s = .next t → P t) (h : P s) : P t :=
    step_keeps_of_exec queue commands h run
  exact ⟨kept _ (fun _ _ h => h) fun _ _ _ h run => (exec_keeps run).window h,
    kept _ (fun _ _ h => h) fun _ _ _ h run => (exec_keeps run).paths h,
    kept _ (fun _ _ h => h) fun _ _ _ h run => (exec_keeps run).link h,
    kept _ (fun _ _ h => h) fun _ _ _ h run => exec_ordered h run⟩

/-- Settles O5. -/
theorem resetMeetsInvariants : Obligations.ResetMeetsInvariants := by
  refine ⟨rfl, ?_, reset_windowBounded, fun l => ?_, reset_linkBounded, reset_ordered⟩
  · rw [SegmentsConserved, allNumbers_reset]
  · have path : State.reset.path l = { Path.reset with carrier := false } := by
      simp [State.path, State.reset, Path.reset]
    rw [path]
    exact resetPath_bounded _

end Sys2Proof.Machine
end

section
/-! PROOFS. No step starts a program that it finds IDLE (R12): requests leave a program that is IDLE or ARMED in one of the
two, and a tick releases what it finds ARMED alone. -/

namespace Sys2Proof.Machine

set_option Elab.async false

/-- A program that is not in a run: IDLE, or ARMED for the next tick (R12). -/
def Awaits (p : Fin 4) (s : State) : Prop := (s.prog p).st = .idle ∨ (s.prog p).st = .armed

section
variable {p : Fin 4}

theorem Inner.awaits {ps : List Part} {s t : State} (k : Inner ps s t) (h : Awaits p s)
    (untouched : Part.progs ∉ ps := by decide) : Awaits p t := by
  have same : t.progs = s.progs := k.same .progs untouched
  unfold Awaits State.prog at h ⊢
  rwa [same]

/-- A change of a program's block that keeps its state, or takes it to IDLE or ARMED. -/
theorem modProg_awaits (q : Fin 4) (f : Program → Program) (s : State)
    (kept : ∀ g, (f g).st = g.st ∨ (f g).st = .idle ∨ (f g).st = .armed) (h : Awaits p s) :
    Awaits p (s.modProg q f) := by
  unfold Awaits at h ⊢
  rw [modProg_prog]
  split
  · subst_vars
    rcases kept (s.prog q) with same | new
    · rwa [same]
    · exact new
  · exact h

theorem modRecord_awaits (q : Fin 4) (f : ProgramRecord → ProgramRecord) (s : State) (h : Awaits p s) :
    Awaits p (modRecord q f s) := modProg_awaits q _ s (fun _ => .inl rfl) h

theorem eachProgram_awaits (f : Fin 4 → State → State) (kept : ∀ q t, Awaits p t → Awaits p (f q t)) (s : State)
    (h : Awaits p s) : Awaits p (eachProgram f s) := kept 3 _ (kept 2 _ (kept 1 _ (kept 0 s h)))

theorem enterIdle_awaits (q : Fin 4) (cause : IdleCause) (s : State) (h : Awaits p s) :
    Awaits p (enterIdle q cause s) :=
  (closeAtIdle_inner q _).awaits ((raise_inner .programIdle _ _).awaits
    (modProg_awaits q _ s (fun _ => .inr (.inl rfl)) h))

theorem endWriting_awaits (q : Fin 4) (s : State) (h : Awaits p s) : Awaits p (endWriting q s) := by
  unfold endWriting
  split
  · exact modProg_awaits q _ _ (fun _ => .inl rfl) ((sealOpen_inner q s).awaits h)
  · exact h

theorem completeDrain_awaits (q : Fin 4) (s : State) (h : Awaits p s) : Awaits p (completeDrain q s) := by
  unfold completeDrain
  split
  · exact enterIdle_awaits q _ _ ((modLive_inner s q _).awaits h)
  · exact h

theorem settleQuiet_awaits (s : State) (h : Awaits p s) : Awaits p (settleQuiet s) :=
  (settleShip_inner _).awaits (eachProgram_awaits _ (fun q t k => completeDrain_awaits q _ (endWriting_awaits q t k)) s h)

theorem settleN_awaits : ∀ n s, Awaits p s → Awaits p (settleN n s)
  | 0, s, h => (modSched_inner' s _).awaits h
  | n + 1, s, h => by
    have served := settleQuiet_awaits _ ((servePaths_inner s).awaits h)
    unfold settleN
    dsimp only
    split
    · exact served
    · exact settleN_awaits n _ served

theorem settle_awaits (s : State) (h : Awaits p s) : Awaits p (settle s) :=
  (freeZero_inner _).awaits (settleN_awaits 16 _ (settleQuiet_awaits s h))

theorem leaveRun_awaits (q : Fin 4) (cause : IdleCause) (s : State) (h : Awaits p s) :
    Awaits p (leaveRun q cause s) := by
  refine enterIdle_awaits q cause _ (modProg_awaits q _ _ (fun _ => .inl rfl) ((modLive_inner _ q _).awaits ?_))
  refine (storeAbort_inner q _).awaits ((modFramer_inner _ q _).awaits ?_)
  exact (modIntake_inner _ q _).awaits ((modCoder_inner s q _).awaits h)

theorem takeToIdle_awaits (q : Fin 4) (cause : IdleCause) (s : State) (h : Awaits p s) :
    Awaits p (takeToIdle q cause s) := by
  unfold takeToIdle
  split
  · exact h
  · exact enterIdle_awaits q cause _ ((modChain_inner s q _).awaits h)
  · exact leaveRun_awaits q cause s h
  · exact leaveRun_awaits q cause s h

theorem abortProgram_awaits (q : Fin 4) (s : State) (h : Awaits p s) : Awaits p (abortProgram q s) := by
  have taken := takeToIdle_awaits q .aborted s h
  unfold abortProgram
  dsimp only
  split
  · exact (runAllocator_inner .programState _).awaits taken
  · exact taken

/-- STOP takes a RUNNING program to DRAINING, so the program is another one where it awaits its release. -/
theorem stopProgram_awaits (q : Fin 4) (s : State) (h : Awaits p s) : Awaits p (stopProgram q s) := by
  unfold stopProgram
  split
  · exact h
  · exact enterIdle_awaits q _ s h
  · rename_i running
    have other : q ≠ p := by
      rintro rfl
      rcases h with h | h <;> rw [running] at h <;> cases h
    refine (runAllocator_inner .programState _).awaits ?_
    unfold Awaits at h ⊢
    rwa [modProg_prog, if_neg other]
  · exact h

theorem armAll_awaits (qs : List (Fin 4)) (s : State) (h : Awaits p s) : Awaits p (armAll qs s) := by
  induction qs generalizing s with
  | nil => exact h
  | cons q qs ih => exact ih _ (modProg_awaits q _ s (fun _ => .inr (.inr rfl)) h)

theorem restartAll_awaits (s : State) (h : Awaits p s) : Awaits p (restartAll s) := by
  refine (freedTogether_inner s _).awaits (settle_awaits _ ((restartAllocator_inner _).awaits ?_))
  refine (restartPaths_inner _).awaits ((restartClips_inner _).awaits ((restartStore_inner _).awaits ?_))
  refine (restartScheduler_inner _).awaits ((modMixer_inner _ _).awaits ?_)
  refine eachProgram_awaits _ (fun q t k => ?_) _ (eachProgram_awaits _ (fun q t k => ?_) s h)
  · exact (modIntake_inner _ q _).awaits ((modCoder_inner _ q _).awaits (modProg_awaits q _ t (fun _ => .inl rfl) k))
  · exact modProg_awaits q _ _ (fun _ => .inl rfl) (takeToIdle_awaits q .restarted t k)

/-- A SET_STATION is taken where every program is IDLE, so the tick that it makes releases none (R1). -/
theorem reqSetStation_awaits (rate drop : Nat) (s : State) (h : Awaits p s) :
    Awaits p (reqSetStation rate drop s).2 := by
  have kept := reqSetStation_inner rate drop s
  by_cases idle : (s.prog p).st = .idle
  · exact .inl (kept.idle (by decide) p idle)
  · have busy : lowestBusy s ≠ none := by
      unfold lowestBusy
      rw [ne_eq, List.find?_eq_none]
      exact fun none => none p (List.mem_finRange p) (by simpa using idle)
    obtain ⟨q, found⟩ := Option.ne_none_iff_exists'.mp busy
    have refused : (reqSetStation rate drop s).2 = s := by
      unfold reqSetStation checked
      rw [found]
      split <;> rfl
    rwa [refused]

theorem snd_awaits {a : Answer} {t : State} (h : Awaits p t) : Awaits p (a, t).2 := h

/-- What a checked request does, where its checks pass. -/
theorem checked_awaits (checks : List Bool) (s : State) (act : Answer × State) (h : Awaits p s)
    (k : Awaits p act.2) : Awaits p (checked checks s act).2 := by
  unfold checked
  split
  · exact h
  · exact k

theorem configured_awaits (program : Nat) (s : State) (act : Answer × State) (h : Awaits p s)
    (k : Awaits p act.2) : Awaits p (configured program s act).2 := by
  unfold configured
  split
  · exact k
  · exact h

theorem perform_awaits (r : Request) (s : State) (h : Awaits p s) : Awaits p (perform r s).2 := by
  by_cases untouched : Part.progs ∉ r.parts
  · exact (perform_frame r s).awaits h untouched
  · cases r <;> simp only [Request.parts] at untouched
    case setStation rate drop => exact reqSetStation_awaits rate drop s h
    case configureProgram program record =>
      refine checked_awaits _ s _ h ?_
      dsimp only
      split
      · exact modProg_awaits _ _ s (fun _ => .inl rfl) h
      · exact h
    case setRateLimits program lo hi weight =>
      refine checked_awaits _ s _ h (configured_awaits _ s _ h ?_)
      exact (runAllocator_inner .rateLimits _).awaits (modRecord_awaits _ _ s h)
    case start mask =>
      refine checked_awaits _ s _ h ?_
      split
      · exact h
      · exact armAll_awaits _ s h
    case stop program => exact checked_awaits _ s _ h (stopProgram_awaits _ s h)
    case abort program =>
      refine checked_awaits _ s _ h ?_
      dsimp only
      split
      · exact h
      · exact settle_awaits _ (abortProgram_awaits _ s h)
    case setSlate program y cb cr hold =>
      exact checked_awaits _ s _ h (configured_awaits _ s _ h (modRecord_awaits _ _ s h))
    case selectTable program table =>
      refine checked_awaits _ s _ h (configured_awaits _ s _ h ?_)
      split
      · exact h
      · split
        · exact modRecord_awaits _ _ s h
        · exact h
    case setRetention program retention =>
      exact checked_awaits _ s _ h (configured_awaits _ s _ h (modRecord_awaits _ _ s h))
    case disablePath path =>
      refine checked_awaits _ s _ h ?_
      dsimp only
      split
      · exact h
      · exact settle_awaits _ ((disablePath_inner _ s).awaits h)
    case markOut program selector value =>
      refine checked_awaits _ s _ h ?_
      dsimp only
      split
      · exact h
      · refine snd_awaits ?_
        exact settle_awaits _ ((markOut_inner _ _ _ s).awaits h)
    case setLabel clip text tags rating yieldable =>
      refine checked_awaits _ s _ h ?_
      split
      · exact h
      · have labelled := (modClip_inner clip (relabelled text tags rating (flagOf yieldable)) s).awaits h
        dsimp only
        split
        · exact labelled
        · exact settle_awaits _ ((addLabel_inner clip _).awaits labelled)
    case ship clip =>
      refine checked_awaits _ s _ h ?_
      have queued : Awaits p (settle ((queueShip clip s).modClips fun l =>
          { l with shipQueued := incWrap32 l.shipQueued })) :=
        settle_awaits _ (((queueShip_inner clip s).andThen (modClips_inner _ _)).awaits h)
      split
      · exact h
      · unfold shipClip
        dsimp only
        split
        · exact h
        · exact (modClip_inner clip _ s).awaits h
        · refine snd_awaits ?_
          exact queued
        · exact h
        · exact h
        · refine snd_awaits ?_
          exact queued
    case cancelShip clip =>
      refine checked_awaits _ s _ h ?_
      split
      · exact h
      · unfold cancelClip
        dsimp only
        split
        · exact h
        · exact (modClip_inner clip _ s).awaits h
        · exact h
        · exact ((modClip_inner clip _ s).andThen (modClips_inner _ _)).awaits h
        · refine snd_awaits ?_
          refine settle_awaits _ ((modClip_inner clip _ _).awaits ((dropClip_inner clip false _).awaits ?_))
          exact (withdrawCursor_inner clip s).awaits h
        · exact h
    case release clip =>
      refine checked_awaits _ s _ h ?_
      split
      · exact h
      · refine snd_awaits ?_
        exact settle_awaits _ ((releaseClip_inner clip s).awaits h)
    case restart => exact restartAll_awaits s h
    all_goals exact absurd (by decide) untouched

end

theorem awaits_linkStable (p : Fin 4) : LinkStable fun s t => Awaits p s → Awaits p t where
  refl _ h := h
  trans h k a := k (h a)
  link _ _ h := h
  perform r s := perform_awaits r s

theorem arrive_awaits {p : Fin 4} (time : Nat) (s : State) (h : Awaits p s) : Awaits p (arrive time s) :=
  (arrive_inner time s).awaits h

/-- Settles O6: what the link takes leaves a program that is not in a run so, and every other command leaves an IDLE
program IDLE. -/
theorem idleProgramsAreArmedFirst : Obligations.IdleProgramsAreArmedFirst := by
  intro s t p idle run
  obtain rfl | ⟨c, rest, -, run⟩ := step_cases run
  · exact .inl idle
  · have before : ((s.withPending rest).prog p).st = .idle := idle
    revert run before
    generalize s.withPending rest = s
    intro run idle
    cases exec_effect run with
    | request tag r time _ => exact (awaits_linkStable p).submit tag r _ (arrive_awaits time s (.inl idle))
    | hardReset _ => exact .inl (by simp [afterHardReset, State.prog, State.reset, Program.reset])
    | linkReady _ =>
      unfold becomeReady
      split
      · exact .inl idle
      · exact (makeNotice_inner _ _ _).awaits (.inl idle)
    | inboundFrame time bytes _ => exact (awaits_linkStable p).exchange bytes _ (arrive_awaits time s (.inl idle))
    | outboundFrameSent time _ => exact (awaits_linkStable p).outboundFrameSent _ (arrive_awaits time s (.inl idle))
    | tableCheckEnd table _ =>
      unfold endTableCheck
      split <;> exact .inl idle
    | referencePulse time _ =>
      exact .inl ((takePulse_inner _).idle (by decide) p ((arrive_inner time s).idle (by decide) p idle))
    | dueTick _ => exact .inl ((takeDueTick_inner s).idle (by decide) p idle)
    | lossExpiry _ => exact .inl ((takeLossExpiry_inner s).idle (by decide) p idle)
    | pacingTick _ => exact .inl ((pacingTick_inner s).idle (by decide) p idle)
    | allocationTick _ => exact .inl ((takeAllocationTick_inner s).idle (by decide) p idle)
    | event _ k => exact .inl (k.idle (by decide) p idle)

end Sys2Proof.Machine
end

section
/-! PROOFS. The station timebase (R1 to R6): range checks by field number, and what SET_STATION, SET_TIMECODE, a reference
pulse, the due tick and the loss expiry leave of the timebase. -/

namespace Sys2Proof.Machine

set_option Elab.async false

/-! ### The first field that fails (R204, R212) -/

/-- The number of the first check that fails, counting from `n`, and 0 when all pass. -/
def firstFail : Nat → List Bool → Nat
  | _, [] => 0
  | n, ok :: rest => if ok then firstFail (n + 1) rest else n

theorem firstFail_cons {n : Nat} {ok : Bool} {rest : List Bool} (P : Prop) [Decidable P] (h : ok = false ↔ P) :
    firstFail n (ok :: rest) = if P then n else firstFail (n + 1) rest := by
  cases ok
  · rw [if_pos (h.mp rfl)]
    rfl
  · rw [if_neg fun p => Bool.noConfusion (h.mpr p)]
    rfl

theorem firstFail_add (n : Nat) (checks : List Bool) :
    firstFail (n + 1) checks = ((offending checks).map (· + n)).getD 0 := by
  induction checks generalizing n with
  | nil => rfl
  | cons ok rest ih =>
    cases ok with
    | false => simp [firstFail, offending, List.findIdx?_cons, Nat.add_comm]
    | true =>
      have next := ih (n + 1)
      simp only [firstFail, if_true, next, offending, List.findIdx?_cons, Bool.not_true, Bool.false_eq_true, if_false]
      cases rest.findIdx? fun ok => !ok with
      | none => rfl
      | some i => simp; omega

/-- The range checks give the answer by the number of the first field that fails (R204). -/
theorem checked_eq (checks : List Bool) (s : State) (act : Answer × State) :
    checked checks s act = if firstFail 1 checks = 0 then act else (outOfRange (firstFail 1 checks), s) := by
  have number := firstFail_add 0 checks
  unfold checked
  cases first : offending checks with
  | none =>
    rw [first] at number
    have field : firstFail 1 checks = 0 := number
    rw [if_pos field]
  | some k =>
    have lower := (offending_le_length first).1
    rw [first] at number
    have field : firstFail 1 checks = k := number
    rw [field, if_neg (by omega)]

theorem checked_of_field {checks : List Bool} {k : Nat} (s : State) (act : Answer × State) (first : firstFail 1 checks = k)
    (fails : k ≠ 0) : checked checks s act = (outOfRange k, s) := by
  rw [checked_eq, first, if_neg fails]

theorem checked_of_fields {checks : List Bool} (s : State) (act : Answer × State) (first : firstFail 1 checks = 0) :
    checked checks s act = act := by
  rw [checked_eq, if_pos first]

theorem inRange_eq_false (lo hi n : Nat) : inRange lo hi n = false ↔ n < lo ∨ hi < n := by
  simp [inRange]
  omega

/-! ### Ticks (R2 to R5) -/

/-- The next due tick after one made at a time: one period on in FREE_RUN, none in LOCKED (R3). -/
def nextDue (time : Nat) (t : Timebase) : Option Nat :=
  if t.ref = .freeRun then some (time + nominalPeriod (rateRow t.rate)) else none

theorem takeDueTick_eq {s : State} {d : Nat} (due : s.tb.due = some d) :
    takeDueTick s = pictureTick (max s.tb.now d) (s.modTb fun t => { t with due := nextDue (max s.tb.now d) s.tb }) := by
  unfold takeDueTick nextDue
  rw [due]
  simp only [beq_iff_eq]
  rfl

theorem takeDueTick_tb {s : State} {d : Nat} (due : s.tb.due = some d) :
    (takeDueTick s).tb = { timebaseTick (max s.tb.now d) s.tb with
      due := nextDue (max s.tb.now d) s.tb, retentions := recordRetentions s } := by
  rw [takeDueTick_eq due, pictureTick_tb]
  rfl

/-- The retentions that a tick finds (R114; log entry 6). -/
theorem recordRetentions_eq (s : State) :
    recordRetentions s = Vec.tab fun p => (s.prog p).record.map fun r => r.retention := rfl

/-! ### SET_STATION (R1) -/

theorem overdueTick_eq {s : State} {d : Nat} (due : s.tb.due = some d) :
    overdueTick s = if d ≤ s.tb.now then takeDueTick s else s := by
  unfold overdueTick
  rw [due]

theorem free_arrive {s : State} (time : Nat) (free : Free s) : Free (arrive time s) := free

/-- The reply of a SET_STATION that leaves the state `t`. -/
theorem exec_setStation_answered {time rate drop : Nat} {tag : Byte} {a : Answer} {s t : State} (free : Free s)
    (taken : reqSetStation rate drop (counted (arrive time s)) = (a, counted t)) :
    exec (.setStation time tag rate drop) s = .next (answered tag 1 a.status a.detail a.detail2 a.body t) := by
  have performed : perform (.setStation rate drop) (counted (arrive time s)) = (.answer a, counted t) :=
    congrArg atOnce taken
  rw [exec_setStation, submit_answered tag _ _ t a (free_arrive time free) performed]
  rfl

/-- The two range checks of SET_STATION. -/
def stationChecks (rate drop : Nat) : List Bool :=
  [decide (rate ≤ 7), isFlag drop && (!flagOf drop || (rateRow (Fin.ofNat 8 rate)).dropAllowed)]

theorem stationChecks_field (rate drop : Nat) : firstFail 1 (stationChecks rate drop) =
    if 7 < rate then 1
    else if 1 < drop ∨ (drop = 1 ∧ (rateRow (Fin.ofNat 8 rate)).dropAllowed = false) then 2 else 0 := by
  unfold stationChecks
  rw [firstFail_cons (7 < rate) (by simp), firstFail_cons (1 < drop ∨ (drop = 1 ∧
    (rateRow (Fin.ofNat 8 rate)).dropAllowed = false)) ?_]
  · rfl
  · cases (rateRow (Fin.ofNat 8 rate)).dropAllowed <;> simp [isFlag, flagOf]
    omega

theorem lowestBusy_eq_some {s : State} {p : Fin 4} (busy : (s.prog p).st ≠ .idle)
    (lowest : ∀ q : Fin 4, q < p → (s.prog q).st = .idle) : lowestBusy s = some p := by
  unfold lowestBusy
  rw [List.find?_eq_some_iff_append]
  refine ⟨by simpa using busy, (List.finRange 4).take p.1, (List.finRange 4).drop (p.1 + 1), ?_, fun q hq => ?_⟩
  · have cut := List.take_append_drop p.1 (List.finRange 4)
    rw [List.drop_eq_getElem_cons (by simp)] at cut
    simpa using cut.symm
  · obtain ⟨i, inside, rfl⟩ := List.mem_take_iff_getElem.mp hq
    simpa using lowest _ (by simp [Fin.lt_def]; omega)

theorem lowestBusy_eq_none {s : State} (idle : ∀ p : Fin 4, (s.prog p).st = .idle) : lowestBusy s = none := by
  unfold lowestBusy
  rw [List.find?_eq_none]
  intro p _
  simp [idle p]

/-- A SET_STATION whose checks pass while every program is IDLE. -/
theorem reqSetStation_taken {rate drop : Nat} {s : State} (pass : firstFail 1 (stationChecks rate drop) = 0)
    (idle : ∀ p : Fin 4, (s.prog p).st = .idle) : reqSetStation rate drop s =
      (done, overdueTick (s.modTb (stationTimebase (Fin.ofNat 8 rate) (flagOf drop)))) := by
  have none := lowestBusy_eq_none idle
  unfold reqSetStation
  rw [none]
  exact checked_of_fields s _ pass

/-- A SET_STATION whose checks pass while a program is not IDLE. -/
theorem reqSetStation_busy {rate drop : Nat} {s : State} {p : Fin 4} (pass : firstFail 1 (stationChecks rate drop) = 0)
    (busy : (s.prog p).st ≠ .idle) (lowest : ∀ q : Fin 4, q < p → (s.prog q).st = .idle) :
    reqSetStation rate drop s = (refuse .wrongState p.1, s) := by
  have first := lowestBusy_eq_some busy lowest
  unfold reqSetStation
  rw [first]
  exact checked_of_fields s _ pass

/-- Settles O8: the request is answered by the first of its range checks and the check of the programs that applies; taken,
its tick is due at once exactly when the moved due time has passed. -/
theorem setStationSetsTheRate : Obligations.SetStationSetsTheRate := by
  intro time tag rate drop s free now s0 row tb1
  have field := stationChecks_field rate drop
  have refused {k : Nat} (first : firstFail 1 (stationChecks rate drop) = k) (fails : k ≠ 0) :
      exec (.setStation time tag rate drop) s = .next (answered tag 1 .outOfRange k 0 [] s0) :=
    exec_setStation_answered free (checked_of_field (counted s0) _ first fails)
  refine ⟨fun above => refused (by rw [field, if_pos above]) (by decide), fun inside flag => ?_,
    fun inside flag allowed => ?_⟩
  · exact refused (by rw [field, if_neg (by omega), if_pos flag]) (by decide)
  · have pass : firstFail 1 (stationChecks rate drop) = 0 := by
      rw [field, if_neg (by omega), if_neg]
      rintro (above | ⟨set, forbidden⟩)
      · omega
      · exact absurd (allowed set) (by rw [forbidden]; decide)
    refine ⟨fun p busy lowest => ?_, fun idle => ?_⟩
    · refine exec_setStation_answered (a := refuse .wrongState p.1) free ?_
      exact reqSetStation_busy (s := counted s0) pass busy lowest
    · have taken := reqSetStation_taken (s := counted s0) pass idle
      refine ⟨fun locked => ?_, fun running early => ?_, fun running late => ?_⟩
      · refine exec_setStation_answered (a := done) free (taken.trans (congrArg (Prod.mk done) ?_))
        have due : ((counted s0).modTb (stationTimebase (Fin.ofNat 8 rate) (flagOf drop))).tb = tb1 := by
          simp [stationTimebase, counted, s0, tb1, locked, flagOf, timecodeZero]
        unfold overdueTick
        rw [due]
        exact congrArg (fun tb => ({ counted s0 with tb := tb } : State)) due
      · refine exec_setStation_answered (a := done) free (taken.trans (congrArg (Prod.mk done) ?_))
        have due : ((counted s0).modTb (stationTimebase (Fin.ofNat 8 rate) (flagOf drop))).tb =
            { tb1 with due := some (s.tb.lastTick + nominalPeriod row) } := by
          simp [stationTimebase, counted, s0, tb1, running, flagOf, timecodeZero, row]
        unfold overdueTick
        rw [due]
        dsimp only
        rw [if_neg (by simpa [tb1, s0, now] using early)]
        exact congrArg (fun tb => ({ counted s0 with tb := tb } : State)) due
      · have due : ((counted s0).modTb (stationTimebase (Fin.ofNat 8 rate) (flagOf drop))).tb =
            { tb1 with due := some (s.tb.lastTick + nominalPeriod row) } := by
          simp [stationTimebase, counted, s0, tb1, running, flagOf, timecodeZero, row]
        have ticked := overdueTick_eq (congrArg Timebase.due due)
        refine ⟨_, (exec_setStation time tag rate drop s).trans (congrArg _ (submit_answer tag _ _ _ done
          (free_arrive time free) (congrArg atOnce taken))), ?_⟩
        have passed : s.tb.lastTick + nominalPeriod row ≤ max s.tb.now time := late
        rw [show ∀ t : State, (replied tag _ done t).tb = t.tb from fun _ => rfl, ticked, due, if_pos passed,
          takeDueTick_tb (congrArg Timebase.due due), due, recordRetentions_eq]
        have stamp : max (max s.tb.now time) (s.tb.lastTick + nominalPeriod row) = max s.tb.now time :=
          Nat.max_eq_left passed
        simp only [timebaseTick, nextDue, tb1, s0, now, stamp, Option.getD_some, incWrap32]
        rw [if_pos running, max_self]
        rfl

/-! ### SET_TIMECODE (R6) -/

theorem labelAllowed_iff (t : Timebase) (c : Timecode) (rates : t.drop = true → t.rate = 3 ∨ t.rate = 6) :
    labelAllowed t c = true ↔ c.hours ≤ 23 ∧ c.minutes ≤ 59 ∧ c.seconds ≤ 59 ∧ c.pictures < (rateRow t.rate).pictures ∧
      ¬(t.drop = true ∧ c.seconds = 0 ∧ c.minutes % 10 ≠ 0 ∧
        ((t.rate = 3 ∧ c.pictures < 2) ∨ (t.rate = 6 ∧ c.pictures < 4))) := by
  have dropped : (t.drop && isDropped (rateRow t.rate) c) = true ↔
      t.drop = true ∧ c.seconds = 0 ∧ c.minutes % 10 ≠ 0 ∧
        ((t.rate = 3 ∧ c.pictures < 2) ∨ (t.rate = 6 ∧ c.pictures < 4)) := by
    cases set : t.drop with
    | false => simp
    | true =>
      rcases rates set with at3 | at6
      · simp [isDropped, dropLanding, at3, rateRow, and_assoc]
      · simp [isDropped, dropLanding, at6, rateRow, and_assoc]
  unfold labelAllowed
  rw [← dropped, Bool.not_eq_true]
  simp only [Bool.and_eq_true, decide_eq_true_eq, Bool.not_eq_true', and_assoc]

/-- Settles O9: the label is one field, and its check is the rule's. -/
theorem setTimecodePlacesLoad : Obligations.SetTimecodePlacesLoad := by
  intro tag c s free rates allowed
  have check := labelAllowed_iff s.tb c rates
  refine ⟨fun ok => ?_, fun refused => ?_, fun time tb load => ⟨by simp [timebaseTick, load], rfl⟩⟩
  · have pass : labelAllowed (counted s).tb c = true := check.mpr ok
    have taken : reqSetTimecode c (counted s) =
        (done, counted { s with tb := { s.tb with load := some c } }) :=
      checked_of_fields _ _ (by rw [pass]; rfl)
    exact exec_answered (exec_setTimecode tag c s) free (congrArg atOnce taken)
  · have fails : labelAllowed (counted s).tb c = false := Bool.eq_false_iff.mpr (mt check.mp refused)
    have taken : reqSetTimecode c (counted s) = (outOfRange 1, counted s) :=
      checked_of_field _ _ (by rw [fails]; rfl) (by decide)
    exact exec_answered (exec_setTimecode tag c s) free (congrArg atOnce taken)

/-! ### Reference pulses, due ticks and the loss expiry (R2, R3) -/

theorem referenceBack_tb (was : RefState) (s : State) : (referenceBack was s).tb = s.tb :=
  (referenceBack_inner was s).same .tb (by decide)

/-- Raising an event changes the link alone. -/
theorem raise_eq (k : EventKind) (details : List Byte) (s : State) :
    raise k details s = { s with link := (raise k details s).link } := by
  unfold raise
  dsimp only
  split <;> rfl

/-- The count of a kind after it is raised: a notice that is lost counts NOTICE_LOST alone (R205, R206). -/
theorem raise_raises (k : EventKind) (details : List Byte) (s : State) (kind : k ≠ .noticeLost) :
    (raise k details s).link.raises.get k.index = (s.link.raises.get k.index + 1) % 2 ^ 32 := by
  have index : EventKind.noticeLost.index ≠ k.index := by revert kind; cases k <;> decide
  have made (kind : Nat) (t : State) : (makeNotice kind details t).link.raises.get k.index = t.link.raises.get k.index := by
    unfold makeNotice
    simp only [modLink_link]
    split
    · rfl
    · simp [latchEvent, Vec_get_put, index]
  have latched : (latchEvent k s.link).raises.get k.index = (s.link.raises.get k.index + 1) % 2 ^ 32 := by
    simp [latchEvent, Vec_get_put, incWrap32]
  unfold raise
  dsimp only
  split
  · rw [made]
    exact latched
  · exact latched

/-- The latch of a kind after it is raised (R206). -/
theorem raise_latches (k : EventKind) (details : List Byte) (s : State) :
    (raise k details s).link.latches.get k.index = true := by
  have made (kind : Nat) (t : State) (set : t.link.latches.get k.index = true) :
      (makeNotice kind details t).link.latches.get k.index = true := by
    unfold makeNotice
    simp only [modLink_link]
    split
    · exact set
    · simp only [latchEvent, Vec_get_put]
      split
      · rfl
      · exact set
  have latched : (latchEvent k s.link).latches.get k.index = true := by simp [latchEvent, Vec_get_put]
  unfold raise
  dsimp only
  split
  · exact made _ _ latched
  · exact latched

/-- REFERENCE_BACK counts a pulse taken in FREE_RUN, and a tick counts none (R2). -/
theorem referenceBack_raises (was : RefState) (s : State) : (referenceBack was s).link.raises.get 1 =
    if was = .freeRun then (s.link.raises.get 1 + 1) % 2 ^ 32 else s.link.raises.get 1 := by
  unfold referenceBack
  cases was
  · exact raise_raises .referenceBack [] s (by decide)
  · rfl

theorem pictureTick_flags (time : Nat) (s : State) : LinkFlags s.link (pictureTick time s).link :=
  (pictureTick_keeps time s).link (by decide)

theorem referenceBack_eq (was : RefState) (s : State) :
    referenceBack was s = { s with link := (referenceBack was s).link } := by
  unfold referenceBack
  split
  · exact raise_eq ..
  · rfl

/-- A pulse at half a period or more after the last tick makes a tick (R2). -/
theorem takePulse_late {s : State} (late : period s ≤ 2 * (s.tb.now - s.tb.lastTick)) : takePulse s =
    referenceBack s.tb.ref (pictureTick s.tb.now (s.modTb fun t => { t with due := none, ref := .locked })) :=
  if_pos late

/-- An earlier pulse re-phases (R2). -/
theorem takePulse_early {s : State} (early : ¬period s ≤ 2 * (s.tb.now - s.tb.lastTick)) : takePulse s =
    referenceBack s.tb.ref (s.modTb fun t =>
      { t with due := some (s.tb.now + period s), ref := .locked, rephaseCount := incSat16 t.rephaseCount }) :=
  if_neg early

/-- REFERENCE_BACK counts a pulse taken in FREE_RUN alone: a tick raises none. -/
theorem takePulse_raises (s : State) : (takePulse s).link.raises.get 1 =
    if s.tb.ref = .freeRun then (s.link.raises.get 1 + 1) % 2 ^ 32 else s.link.raises.get 1 := by
  by_cases late : period s ≤ 2 * (s.tb.now - s.tb.lastTick)
  · rw [takePulse_late late, referenceBack_raises, (pictureTick_flags _ _).back, modTb_link]
  · rw [takePulse_early late, referenceBack_raises, modTb_link]

/-- Settles O10. -/
theorem referencePulseTicksOrRephases : Obligations.ReferencePulseTicksOrRephases := by
  intro time s now P
  refine ⟨takePulse (arrive time s), exec_referencePulse time s, fun late => ?_, fun early => ?_,
    takePulse_raises (arrive time s)⟩
  · rw [takePulse_late (s := arrive time s) late, referenceBack_tb, pictureTick_tb, recordRetentions_eq]
    simp [timebaseTick, arrive, now, incWrap32, State.prog]
  · rw [takePulse_early (s := arrive time s) (Nat.not_le.mpr early)]
    exact referenceBack_eq ..

/-- Settles O11. -/
theorem dueTickMakesATick : Obligations.DueTickMakesATick := by
  intro s
  refine ⟨fun d due => ⟨_, exec_dueTick s, ?_⟩, fun none => ?_⟩
  · rw [takeDueTick_tb due, recordRetentions_eq]
    simp [timebaseTick, nextDue, incWrap32]
  · rw [exec_dueTick]
    unfold takeDueTick
    rw [none]

/-- Settles O12: the tick keeps the latch and the count of REFERENCE_LOST, which is raised before it (log entry 15). -/
theorem referenceLossTicksAndRunsFree : Obligations.ReferenceLossTicksAndRunsFree := by
  intro s locked due P time
  have taken : takeLossExpiry s = pictureTick time (raise .referenceLost [] (s.modTb fun t =>
      { t with ref := .freeRun, lossCount := incSat16 t.lossCount, due := some (time + P) })) := by
    unfold takeLossExpiry
    rw [if_pos (by simp [locked, due])]
    rfl
  refine ⟨_, exec_referenceLossExpiry s, ?_, ?_, ?_⟩
  · rw [taken, pictureTick_tb, raise_eq, recordRetentions_eq]
    simp [timebaseTick, time, incWrap32, incSat16, State.prog]
  · rw [taken]
    exact (pictureTick_flags _ _).latches 0 (raise_latches .referenceLost [] _)
  · rw [taken, (pictureTick_flags _ _).lost]
    exact raise_raises .referenceLost [] _ (by decide)

end Sys2Proof.Machine
end

section
/-! PROOFS. The requests that write one program's record (R10, R34, R57, R121): the range checks field by field, then the
checks of the program and the table. -/

namespace Sys2Proof.Machine

set_option Elab.async false

/-! ### Range checks -/

theorem firstFail_eq_zero_iff {n : Nat} (checks : List Bool) (counting : n ≠ 0) :
    firstFail n checks = 0 ↔ ∀ ok ∈ checks, ok = true := by
  induction checks generalizing n with
  | nil => simp [firstFail]
  | cons ok rest ih =>
    cases ok with
    | false => simp [firstFail, counting]
    | true => simpa [firstFail] using ih (Nat.succ_ne_zero n)

theorem isProgram_eq_false (n : Nat) : isProgram n = false ↔ 3 < n := by simp [isProgram]

theorem le_eq_false (n bound : Nat) : decide (n ≤ bound) = false ↔ bound < n := by simp

/-- The first field of a CONFIGURE_PROGRAM that is out of range, and 0 where none is. -/
theorem recordChecks_field (program : Nat) (r : ProgramRecord) : firstFail 1 (recordChecks program r) =
    if 3 < program then 1 else if 3 < r.port then 2
    else if r.width < 720 ∨ 1920 < r.width ∨ r.width % 8 ≠ 0 then 3
    else if r.height < 480 ∨ 1080 < r.height ∨ r.height % 8 ≠ 0 then 4
    else if 1 < r.table then 5 else if r.chromaOffset < -4 ∨ 4 < r.chromaOffset then 6
    else if 47 < r.qmin then 7 else if 47 < r.qstart ∨ r.qstart < r.qmin then 8
    else if 47 < r.qmax ∨ r.qmax < r.qstart then 9 else if r.buffer < 5 ∨ 200 < r.buffer then 10
    else if r.ceiling < 2 ∨ 8 < r.ceiling then 11 else if r.minRate < 500 ∨ 400000 < r.minRate then 12
    else if r.maxRate < 500 ∨ 400000 < r.maxRate ∨ r.maxRate < r.minRate then 13
    else if r.weight < 1 ∨ 15 < r.weight then 14
    else if ¬(r.buses.Nodup ∧ (∀ k ∈ r.buses, k ≤ 7) ∧
        (r.buses.length = 0 ∨ r.buses.length = 2 ∨ r.buses.length = 4)) then 15
    else if r.soundWidth ≠ 16 ∧ r.soundWidth ≠ 24 then 16 else if 65535 < r.retention then 17
    else if 255 < r.hold then 18 else if 1023 < r.slateY then 19 else if 1023 < r.slateCb then 20
    else if 1023 < r.slateCr then 21 else 0 := by
  have multiple (lo hi n : Nat) :
      (inRange lo hi n && n % 8 == 0) = false ↔ n < lo ∨ hi < n ∨ n % 8 ≠ 0 := by
    simp [inRange]
    omega
  have ordered (bound lower n : Nat) :
      (decide (n ≤ bound) && decide (lower ≤ n)) = false ↔ bound < n ∨ n < lower := by
    simp
    omega
  have rates : (inRange 500 400000 r.maxRate && decide (r.minRate ≤ r.maxRate)) = false ↔
      r.maxRate < 500 ∨ 400000 < r.maxRate ∨ r.maxRate < r.minRate := by
    simp [inRange]
    omega
  have chroma : (decide (-4 ≤ r.chromaOffset) && decide (r.chromaOffset ≤ 4)) = false ↔
      r.chromaOffset < -4 ∨ 4 < r.chromaOffset := by
    simp
    omega
  have buses : busesOk r.buses = false ↔ ¬(r.buses.Nodup ∧ (∀ k ∈ r.buses, k ≤ 7) ∧
      (r.buses.length = 0 ∨ r.buses.length = 2 ∨ r.buses.length = 4)) := by
    rw [← Bool.not_eq_true]
    simp [busesOk]
    tauto
  have width : (r.soundWidth == 16 || r.soundWidth == 24) = false ↔ r.soundWidth ≠ 16 ∧ r.soundWidth ≠ 24 := by simp
  unfold recordChecks
  rw [firstFail_cons _ (isProgram_eq_false program), firstFail_cons _ (le_eq_false r.port 3),
    firstFail_cons _ (multiple 720 1920 r.width), firstFail_cons _ (multiple 480 1080 r.height),
    firstFail_cons _ (le_eq_false r.table 1), firstFail_cons _ chroma, firstFail_cons _ (le_eq_false r.qmin 47),
    firstFail_cons _ (ordered 47 r.qmin r.qstart), firstFail_cons _ (ordered 47 r.qstart r.qmax),
    firstFail_cons _ (inRange_eq_false 5 200 r.buffer), firstFail_cons _ (inRange_eq_false 2 8 r.ceiling),
    firstFail_cons _ (inRange_eq_false 500 400000 r.minRate), firstFail_cons _ rates,
    firstFail_cons _ (inRange_eq_false 1 15 r.weight), firstFail_cons _ buses, firstFail_cons _ width,
    firstFail_cons _ (le_eq_false r.retention 65535), firstFail_cons _ (le_eq_false r.hold 255),
    firstFail_cons _ (le_eq_false r.slateY 1023), firstFail_cons _ (le_eq_false r.slateCb 1023),
    firstFail_cons _ (le_eq_false r.slateCr 1023)]
  rfl

/-- The checks of R10 pass exactly the records in range. -/
theorem recordChecks_pass_iff (program : Nat) (r : ProgramRecord) :
    (∀ ok ∈ recordChecks program r, ok = true) ↔ program ≤ 3 ∧ RecordInRange r := by
  simp only [recordChecks, isProgram, inRange, busesOk, List.forall_mem_cons, Bool.and_eq_true, Bool.or_eq_true,
    decide_eq_true_eq, beq_iff_eq, List.all_eq_true, List.not_mem_nil, IsEmpty.forall_iff, implies_true, and_true]
  constructor
  · rintro ⟨number, port, width, height, table, chroma, qmin, qstart, qmax, buffer, ceiling, minRate, maxRate, weight, buses,
      soundWidth, retention, hold, slateY, slateCb, slateCr⟩
    exact ⟨number, port, by omega, by omega, table, chroma, by omega, buffer, ceiling, by omega, weight,
      by tauto, soundWidth, retention, hold, ⟨slateY, slateCb, slateCr⟩⟩
  · rintro ⟨number, ok⟩
    obtain ⟨port, width, height, table, chroma, indices, buffer, ceiling, rates, weight, buses, soundWidth, retention,
      hold, slate⟩ := ok
    exact ⟨number, port, by omega, by omega, table, chroma, by omega, by omega, by omega, buffer, ceiling, by omega,
      by omega, weight, by tauto, soundWidth, retention, hold, slate.1, slate.2.1, slate.2.2⟩

/-! ### A record that stands -/

theorem modRecord_of_record {p : Fin 4} {s : State} {r : ProgramRecord} (f : ProgramRecord → ProgramRecord)
    (present : (s.prog p).record = some r) :
    modRecord p f s = s.modProg p fun g => { g with record := some (f r) } := by
  have there : (s.progs.get p).record = some r := present
  unfold modRecord State.modProg
  dsimp only
  rw [there]
  rfl

/-- Settles O15: each request is a list of range checks, then its checks of state, then one write of a record. -/
theorem recordRequestsWriteOneRecord : Obligations.RecordRequestsWriteOneRecord := by
  intro tag program s free p g refuses writes
  have found : (counted s).prog (idx4 program) = g := rfl
  refine ⟨fun r => ?_, fun y cb cr hold => ?_, fun retention => ?_, fun table => ?_⟩
  · intro c field
    have first : firstFail 1 (recordChecks program r) = field := recordChecks_field program r
    have reply {a : Answer} {t : State} (h : reqConfigureProgram program r (counted s) = (a, counted t)) :
        exec c s = .next (answered tag 4 a.status a.detail a.detail2 a.body t) :=
      exec_answered (exec_configureProgram tag program r s) free (congrArg atOnce h)
    refine ⟨?_, fun fails => ?_, fun pass busy => ?_, fun pass idle => ?_⟩
    · rw [← first, firstFail_eq_zero_iff _ (by decide), recordChecks_pass_iff]
    · exact reply (a := outOfRange field) (checked_of_field _ _ first fails)
    · refine reply (a := refuse .wrongState program) ((checked_of_fields _ _ (first.trans pass)).trans (if_neg ?_))
      rw [found]
      simpa using busy
    · exact reply (a := done) ((checked_of_fields _ _ (first.trans pass)).trans (if_pos (by rw [found]; simpa using idle)))
  · intro c field
    have first : firstFail 1 [isProgram program, decide (y ≤ 1023), decide (cb ≤ 1023), decide (cr ≤ 1023),
        decide (hold ≤ 255)] = field := by
      rw [firstFail_cons _ (isProgram_eq_false program), firstFail_cons _ (le_eq_false y 1023),
        firstFail_cons _ (le_eq_false cb 1023), firstFail_cons _ (le_eq_false cr 1023),
        firstFail_cons _ (le_eq_false hold 255)]
      rfl
    have reply {a : Answer} {t : State} (h : reqSetSlate program y cb cr hold (counted s) = (a, counted t)) :
        exec c s = .next (answered tag 10 a.status a.detail a.detail2 a.body t) :=
      exec_answered (exec_setSlate tag program y cb cr hold s) free (congrArg atOnce h)
    refine ⟨fun fails => ?_, fun pass absent => ?_, fun r pass present => ?_⟩
    · exact reply (a := outOfRange field) (checked_of_field _ _ first fails)
    · exact reply (a := refuse .notReady program)
        ((checked_of_fields _ _ (first.trans pass)).trans (configured_of_none (s := counted s) _ absent))
    · refine reply (a := done) (((checked_of_fields _ _ (first.trans pass)).trans
        (configured_of_record (s := counted s) _ present)).trans ?_)
      rw [modRecord_of_record (p := idx4 program) (s := counted s) _ present]
      rfl
  · intro c field
    have first : firstFail 1 [isProgram program, decide (retention ≤ 65535)] = field := by
      rw [firstFail_cons _ (isProgram_eq_false program), firstFail_cons _ (le_eq_false retention 65535)]
      rfl
    have reply {a : Answer} {t : State} (h : reqSetRetention program retention (counted s) = (a, counted t)) :
        exec c s = .next (answered tag 25 a.status a.detail a.detail2 a.body t) :=
      exec_answered (exec_setRetention tag program retention s) free (congrArg atOnce h)
    refine ⟨fun fails => ?_, fun pass absent => ?_, fun r pass present => ?_⟩
    · exact reply (a := outOfRange field) (checked_of_field _ _ first fails)
    · exact reply (a := refuse .notReady program)
        ((checked_of_fields _ _ (first.trans pass)).trans (configured_of_none (s := counted s) _ absent))
    · refine reply (a := done) (((checked_of_fields _ _ (first.trans pass)).trans
        (configured_of_record (s := counted s) _ present)).trans ?_)
      rw [modRecord_of_record (p := idx4 program) (s := counted s) _ present]
      rfl
  · intro c field
    have first : firstFail 1 [isProgram program, decide (table ≤ 1)] = field := by
      rw [firstFail_cons _ (isProgram_eq_false program), firstFail_cons _ (le_eq_false table 1)]
      rfl
    have reply {a : Answer} {t : State} (h : reqSelectTable program table (counted s) = (a, counted t)) :
        exec c s = .next (answered tag 13 a.status a.detail a.detail2 a.body t) :=
      exec_answered (exec_selectTable tag program table s) free (congrArg atOnce h)
    refine ⟨fun fails => ?_, fun pass absent => ?_, fun r pass present => ?_⟩
    · exact reply (a := outOfRange field) (checked_of_field _ _ first fails)
    · exact reply (a := refuse .notReady program)
        ((checked_of_fields _ _ (first.trans pass)).trans (configured_of_none (s := counted s) _ absent))
    · have reached := (checked_of_fields (counted s) _ (first.trans pass)).trans (configured_of_record (s := counted s)
        (if ((counted s).prog (idx4 program)).st != .idle then (refuse .wrongState program, counted s)
        else if ((counted s).table (Fin.ofNat 2 table)).st == .ready then
          (done, modRecord (idx4 program) (fun r => { r with table := table }) (counted s))
        else (refuse .notReady program, counted s)) present)
      have stands : (counted s).table (Fin.ofNat 2 table) = s.table (Fin.ofNat 2 table) := rfl
      refine ⟨fun busy => ?_, fun idle wrong => ?_, fun idle ready => ?_⟩
      · exact reply (a := refuse .wrongState program) (reached.trans (if_pos (by rw [found]; simpa using busy)))
      · exact reply (a := refuse .notReady program)
          ((reached.trans (if_neg (by rw [found]; simpa using idle))).trans (if_neg (by rw [stands]; simpa using wrong)))
      · refine reply (a := done)
          (((reached.trans (if_neg (by rw [found]; simpa using idle))).trans (if_pos (by rw [stands]; simpa using ready))).trans ?_)
        rw [modRecord_of_record (p := idx4 program) (s := counted s) _ present]
        rfl

end Sys2Proof.Machine
end

section
/-! PROOFS. The request processor (R202 to R205): what becomes of a request, and that a refused one changes nothing. -/

namespace Sys2Proof.Machine

set_option Elab.async false

/-! ### Refused requests (R203, R204) -/

/-- An answer that refuses carries no values and leaves the state. -/
structure RefusalKeeps (s : State) (r : Answer × State) : Prop where
  kept : r.1.status ≠ .done → r.1.status ≠ .accepted → r.2 = s ∧ r.1.body = []

theorem refusalKeeps_refuse (s : State) (k : Status) (detail : Nat) : RefusalKeeps s (refuse k detail, s) :=
  ⟨fun _ _ => ⟨rfl, rfl⟩⟩

theorem refusalKeeps_doneWith (s : State) (body : List Byte) (t : State) : RefusalKeeps s (doneWith body, t) :=
  ⟨fun h => absurd rfl h⟩

theorem refusalKeeps_accepted (s t : State) : RefusalKeeps s (accepted, t) := ⟨fun _ h => absurd rfl h⟩

theorem refusalKeeps_checked {s : State} {act : Answer × State} (checks : List Bool) (h : RefusalKeeps s act) :
    RefusalKeeps s (checked checks s act) := by
  rw [checked_eq]
  split
  · exact h
  · exact refusalKeeps_refuse s ..

theorem refusalKeeps_configured {s : State} {act : Answer × State} (program : Nat) (h : RefusalKeeps s act) :
    RefusalKeeps s (configured program s act) := by
  unfold configured
  split
  · exact h
  · exact refusalKeeps_refuse s ..

/-- A request that is examined and carried out at once, as to its refusals. -/
theorem refusalKeeps_checkedDone {s : State} (checks : List Bool) (body : List Byte) (t : State) :
    RefusalKeeps s (checked checks s (doneWith body, t)) :=
  refusalKeeps_checked checks (refusalKeeps_doneWith s body t)

theorem reqSetStation_refusal (rate drop : Nat) (s : State) : RefusalKeeps s (reqSetStation rate drop s) := by
  refine refusalKeeps_checked _ ?_
  split
  · exact refusalKeeps_refuse s ..
  · exact refusalKeeps_doneWith s ..

theorem reqConfigureProgram_refusal (program : Nat) (r : ProgramRecord) (s : State) :
    RefusalKeeps s (reqConfigureProgram program r s) := by
  refine refusalKeeps_checked _ ?_
  dsimp only
  split
  · exact refusalKeeps_doneWith s ..
  · exact refusalKeeps_refuse s ..

theorem reqStart_refusal (mask : Nat) (s : State) : RefusalKeeps s (reqStart mask s) := by
  refine refusalKeeps_checked _ ?_
  split
  · exact refusalKeeps_refuse s ..
  · exact refusalKeeps_accepted s _

theorem reqStop_refusal (program : Nat) (s : State) : RefusalKeeps s (reqStop program s) := by
  refine refusalKeeps_checked _ ?_
  dsimp only
  split
  · exact refusalKeeps_accepted s _
  · exact refusalKeeps_doneWith s ..

theorem reqSelectTable_refusal (program table : Nat) (s : State) : RefusalKeeps s (reqSelectTable program table s) := by
  refine refusalKeeps_checked _ (refusalKeeps_configured program ?_)
  split
  · exact refusalKeeps_refuse s ..
  · split
    · exact refusalKeeps_doneWith s ..
    · exact refusalKeeps_refuse s ..

theorem reqConfigureSlotPort_refusal (port count : Nat) (s : State) :
    RefusalKeeps s (reqConfigureSlotPort port count s) := by
  refine refusalKeeps_checked _ ?_
  dsimp only
  split
  · exact refusalKeeps_doneWith s ..
  · exact refusalKeeps_refuse s ..

theorem reqConfigurePath_refusal (path ceiling initial burst repairShare probeRate : Nat) (s : State) :
    RefusalKeeps s (reqConfigurePath path ceiling initial burst repairShare probeRate s) := by
  unfold reqConfigurePath
  split
  · exact refusalKeeps_refuse s ..
  · exact refusalKeeps_doneWith s ..

theorem reqMarkIn_refusal (program selector value yieldable : Nat) (s : State) :
    RefusalKeeps s (reqMarkIn program selector value yieldable s) := by
  refine refusalKeeps_checked _ ?_
  dsimp only
  split
  · exact refusalKeeps_refuse s ..
  · exact refusalKeeps_doneWith s ..

theorem reqMarkOut_refusal (program selector value : Nat) (s : State) :
    RefusalKeeps s (reqMarkOut program selector value s) := by
  refine refusalKeeps_checked _ ?_
  dsimp only
  split
  · exact refusalKeeps_refuse s ..
  · exact refusalKeeps_doneWith s ..

theorem reqSetLabel_refusal (clip : Nat) (text tags : List Byte) (rating yieldable : Nat) (s : State) :
    RefusalKeeps s (reqSetLabel clip text tags rating yieldable s) := by
  refine refusalKeeps_checked _ ?_
  split
  · exact refusalKeeps_refuse s ..
  · exact refusalKeeps_doneWith s ..

theorem shipClip_refusal (clip : Nat) (k : Clip) (s : State) : RefusalKeeps s (shipClip clip k s) := by
  unfold shipClip
  cases k.st with
  | opened => exact refusalKeeps_refuse s ..
  | closing | closed | queued | shipping | shipped => exact refusalKeeps_accepted s _

theorem reqShip_refusal (clip : Nat) (s : State) : RefusalKeeps s (reqShip clip s) := by
  refine refusalKeeps_checked _ ?_
  split
  · exact refusalKeeps_refuse s ..
  · exact shipClip_refusal clip _ s

theorem cancelClip_refusal (clip : Nat) (k : Clip) (s : State) : RefusalKeeps s (cancelClip clip k s) := by
  unfold cancelClip
  cases k.st with
  | opened | closed | shipped => exact refusalKeeps_refuse s ..
  | closing | queued | shipping => exact refusalKeeps_doneWith s ..

theorem reqCancelShip_refusal (clip : Nat) (s : State) : RefusalKeeps s (reqCancelShip clip s) := by
  refine refusalKeeps_checked _ ?_
  split
  · exact refusalKeeps_refuse s ..
  · exact cancelClip_refusal clip _ s

theorem reqRelease_refusal (clip : Nat) (s : State) : RefusalKeeps s (reqRelease clip s) := by
  refine refusalKeeps_checked _ ?_
  split
  · exact refusalKeeps_refuse s ..
  · exact refusalKeeps_doneWith s ..

/-- A verdict that answers with a refusal leaves the state, with no values. -/
def VerdictKeeps (s : State) (v : Verdict × State) : Prop := ∀ a, v.1 = .answer a → RefusalKeeps s (a, v.2)

theorem RefusalKeeps.atOnce {s : State} {r : Answer × State} (h : RefusalKeeps s r) : VerdictKeeps s (atOnce r) := by
  rintro a ⟨⟩
  exact h

theorem reqLoadTable_refusal (table : Nat) (es : List CodeEntry) (s : State) :
    VerdictKeeps s (reqLoadTable table es s) := by
  intro a answers
  unfold reqLoadTable at answers ⊢
  split at answers
  · dsimp only at answers ⊢
    split at answers
    · cases answers
      rw [if_pos ‹table ≤ 1›, if_pos ‹_›]
      exact ⟨fun _ _ => ⟨rfl, rfl⟩⟩
    · split at answers
      · cases answers
        rw [if_pos ‹table ≤ 1›, if_neg ‹_›]
        simp only [*]
        exact ⟨fun _ _ => ⟨rfl, rfl⟩⟩
      · cases answers
  · cases answers
    rw [if_neg ‹¬table ≤ 1›]
    exact refusalKeeps_refuse s ..

theorem perform_refusal (r : Request) (s : State) : VerdictKeeps s (perform r s) := by
  cases r
  case unknownKind => exact (refusalKeeps_refuse s ..).atOnce
  case badLength => exact (refusalKeeps_refuse s ..).atOnce
  case setStation => exact (reqSetStation_refusal ..).atOnce
  case configureProgram => exact (reqConfigureProgram_refusal ..).atOnce
  case setRateLimits =>
    exact (refusalKeeps_checked _ (refusalKeeps_configured _ (refusalKeeps_doneWith s ..))).atOnce
  case setSlate => exact (refusalKeeps_checked _ (refusalKeeps_configured _ (refusalKeeps_doneWith s ..))).atOnce
  case setRetention => exact (refusalKeeps_checked _ (refusalKeeps_configured _ (refusalKeeps_doneWith s ..))).atOnce
  case start => exact (reqStart_refusal ..).atOnce
  case stop => exact (reqStop_refusal ..).atOnce
  case loadTable table es => exact reqLoadTable_refusal table es s
  case selectTable => exact (reqSelectTable_refusal ..).atOnce
  case configureSlotPort => exact (reqConfigureSlotPort_refusal ..).atOnce
  case configurePath => exact (reqConfigurePath_refusal ..).atOnce
  case markIn => exact (reqMarkIn_refusal ..).atOnce
  case markOut => exact (reqMarkOut_refusal ..).atOnce
  case setLabel => exact (reqSetLabel_refusal ..).atOnce
  case ship => exact (reqShip_refusal ..).atOnce
  case cancelShip => exact (reqCancelShip_refusal ..).atOnce
  case release => exact (reqRelease_refusal ..).atOnce
  case readTimebase | readBudget | readStore | readUplink | readWindow | listClips | identify | restart =>
    exact (refusalKeeps_doneWith s ..).atOnce
  all_goals exact (refusalKeeps_checkedDone ..).atOnce

/-- Settles O54. -/
theorem refusedRequestsChangeNothing : Obligations.RefusedRequestsChangeNothing := by
  intro r s t a performed notDone notAccepted
  have kept := perform_refusal r s a
  rw [performed] at kept
  exact (kept rfl).kept notDone notAccepted

/-! ### What becomes of a request (R202, R203, R211) -/

theorem submit_of_ready {s : State} (tag : Byte) (r : Request) (ready : s.link.ready = true) :
    submit tag r s = acceptFrame ⟨tag, r⟩ s := by
  unfold submit
  rw [if_pos ready]

theorem pumpN_of_full (n : Nat) {s : State} (full : 32 ≤ s.link.replies.length) : pumpN n s = s := by
  cases n with
  | zero => rfl
  | succ n =>
    have noRoom : replyRoom s = false := decide_eq_false (Nat.not_lt.mpr full)
    unfold pumpN
    split
    · rfl
    · rw [noRoom]
      rfl

theorem acceptFrame_of_room {s : State} (w : Waiting) (room : s.link.requests.length < 16) :
    acceptFrame w s = pump (s.modLink fun l => { l with requests := l.requests ++ [w] }) := by
  unfold acceptFrame
  exact if_pos room

theorem acceptFrame_of_waiting {s : State} (w : Waiting) (full : 16 ≤ s.link.requests.length) :
    acceptFrame w s =
      if s.link.replies.length < 32 then
        pushReply (.made (replyOf w.tag w.req.kind (refuse .queueFull 16)))
          (s.modLink fun l => { l with queueFull := incWrap32 l.queueFull })
      else
        (s.modLink fun l => { l with queueFull := incWrap32 l.queueFull }).modLink
          fun l => { l with droppedReplies := incWrap32 l.droppedReplies } := by
  unfold acceptFrame
  rw [if_neg (show ¬s.link.requests.length < Config.maxRequests from Nat.not_lt.mpr full)]
  by_cases room : s.link.replies.length < 32
  · exact (if_pos (decide_eq_true room)).trans (if_pos room).symm
  · exact (if_neg (by simp [replyRoom, Config.maxReplies, room])).trans (if_neg room).symm

/-- Settles O53. -/
theorem requestsAreTakenInOrder : Obligations.RequestsAreTakenInOrder := by
  intro c tag r s request s0 full
  have arrives : exec c s = .next (submit tag r s0) := by
    cases c <;> cases request <;> rfl
  have link : s0.link = s.link := by
    cases c <;> cases request <;> rfl
  have submitted (ready : s.link.ready = true) : exec c s = .next (acceptFrame ⟨tag, r⟩ s0) := by
    rw [arrives, submit_of_ready tag r (link ▸ ready)]
  refine ⟨fun off => ?_, fun free a t performed => ?_, fun free kind unknown => ?_, fun ready room replies => ?_,
    fun ready waiting room => ?_, fun ready waiting replies => ?_⟩
  · rw [arrives, submit_not_ready tag r s0 (link ▸ off)]
  · have free0 : Free s0 := by unfold Free; rw [link]; exact free
    rw [arrives, submit_answer tag r s0 t a free0 performed]
  · subst unknown
    have same : s0 = s := by cases c <;> cases request <;> rfl
    rw [arrives, same, submit_answered tag _ s s (refuse .unknownKind kind.toNat) free rfl]
    rfl
  · rw [submitted ready, acceptFrame_of_room _ (link ▸ room)]
    unfold pump
    rw [pumpN_of_full _ (by rw [modLink_link, link]; exact replies)]
    unfold State.modLink
    rw [link]
  · rw [submitted ready, acceptFrame_of_waiting _ (link ▸ waiting), if_pos (link ▸ room)]
    unfold pushReply State.modLink
    dsimp only
    rw [link]
    rfl
  · rw [submitted ready, acceptFrame_of_waiting _ (link ▸ waiting), if_neg (by rw [link]; omega)]
    unfold State.modLink
    dsimp only
    rw [link]
    rfl

end Sys2Proof.Machine
end

section
/-! PROOFS. Requests that are examined field by field and then carried out at once (R204): slot ports (R86), the mixer (R89
to R102), the paths' and the uplink's settings (R128, R145), and the link's own (R207, R208). -/

namespace Sys2Proof.Machine

set_option Elab.async false

/-! ### A request with range checks -/

section
variable {c : Instr} {tag : Byte} {r : Request} {checks : List Bool} {act : Answer × State} {s t : State}

/-- The reply that names the first field out of range. -/
theorem answers_outOfRange {k : Nat} (free : Free s) (taken : exec c s = .next (submit tag r s))
    (performs : perform r (counted s) = atOnce (checked checks (counted s) act)) (first : firstFail 1 checks = k)
    (fails : k ≠ 0) : exec c s = .next (answered tag r.kind .outOfRange k 0 [] s) := by
  rw [checked_of_field _ _ first fails] at performs
  exact exec_answered (a := outOfRange k) taken free performs

/-- The reply of a request whose fields are in range. -/
theorem answers_checked {a : Answer} (free : Free s) (taken : exec c s = .next (submit tag r s))
    (performs : perform r (counted s) = atOnce (checked checks (counted s) act)) (first : firstFail 1 checks = 0)
    (acts : act = (a, counted t)) : exec c s = .next (answered tag r.kind a.status a.detail a.detail2 a.body t) := by
  rw [checked_of_fields _ _ first, acts] at performs
  exact exec_answered taken free performs

end

theorem firstFail_of_all {checks : List Bool} (h : ∀ ok ∈ checks, ok = true) : firstFail 1 checks = 0 :=
  (firstFail_eq_zero_iff checks one_ne_zero).mpr h

/-! ### Slot ports (R86) -/

theorem idx4_val (i : Fin 4) : idx4 i.1 = i := Fin.ofNat_val_eq_self i

theorem slot_counted (i : Fin 4) (s : State) : (counted s).slot i = s.slot i := rfl

theorem enabledSlot_eq (q : SlotPort) :
    enabledSlot q = if q.st = .off then { q with st := .seeking, position := none, lock := 0 } else q := by
  simp only [enabledSlot, beq_iff_eq]

theorem disabledSlot_eq (q : SlotPort) : disabledSlot q =
    if q.st = .off then q
    else { q with st := .off, position := none, lock := 0, partFrame := [], buffer := [] } := by
  simp only [disabledSlot, beq_iff_eq]

/-- Settles O33. -/
theorem slotPortRequestsMoveThePort : Obligations.SlotPortRequestsMoveThePort := by
  intro tag i s free q becomes
  have number := idx4_val i
  refine ⟨fun count lower upper => ?_, fun count outside => ?_, ?_, ?_⟩
  · have fields : firstFail 1 [decide (i.1 ≤ 3), inRange 1 16 count] = 0 :=
      firstFail_of_all (by simp [inRange]; omega)
    have reply {a : Answer} {t : State} := answers_checked (a := a) (t := t) free
      (exec_configureSlotPort tag i.1 count s) rfl fields
    dsimp only [becomes, q]
    by_cases off : (s.slot i).st = .off
    · rw [if_pos off]
      refine reply (a := done) ((if_pos ?_).trans ?_)
      · rw [number, slot_counted]
        simpa using off
      · rw [number]
        rfl
    · rw [if_neg off]
      refine reply (a := refuse .wrongState i.1) (if_neg ?_)
      rw [number, slot_counted]
      simpa using off
  · have fields : firstFail 1 [decide (i.1 ≤ 3), inRange 1 16 count] = 2 := by
      rw [firstFail_cons _ (le_eq_false i.1 3), firstFail_cons _ (inRange_eq_false 1 16 count), if_neg (by omega),
        if_pos (by omega)]
    exact answers_outOfRange free (exec_configureSlotPort tag i.1 count s) rfl fields (by decide)
  · refine answers_checked (a := done) free (exec_enableSlotPort tag i.1 s) rfl
      (firstFail_of_all (by simp; omega)) ?_
    rw [number]
    dsimp only [q]
    rw [← enabledSlot_eq]
    rfl
  · refine answers_checked (a := done) free (exec_disableSlotPort tag i.1 s) rfl
      (firstFail_of_all (by simp; omega)) ?_
    rw [number]
    dsimp only [q]
    rw [← disabledSlot_eq]
    rfl

/-! ### The mixer (R89 to R102) -/

theorem input_ofNat (i : Fin 32) : Fin.ofNat 32 i.1 = i := Fin.ofNat_val_eq_self i

theorem bus_ofNat (k : Fin 8) : Fin.ofNat 8 k.1 = k := Fin.ofNat_val_eq_self k

theorem bindingOk_counted (b : Option (Nat × Nat)) (s : State) : bindingOk b (counted s) = bindingOk b s := rfl

theorem bindingOk_of_slot {b : Option (Nat × Nat)} {s : State}
    (h : ∀ port slot, b = some (port, slot) → port ≤ 3 ∧ slot ≤ 15 ∧ slot < (s.slot (idx4 port)).count) :
    bindingOk b s = true := by
  match b with
  | none => rfl
  | some (port, slot) =>
    obtain ⟨port3, slot15, below⟩ := h port slot rfl
    simp [bindingOk, port3, slot15, below]

theorem bindingOk_of_none {port slot : Nat} {s : State}
    (h : 3 < port ∨ 15 < slot ∨ (s.slot (idx4 port)).count ≤ slot) : bindingOk (some (port, slot)) s = false := by
  simp only [bindingOk, Bool.and_eq_false_iff, decide_eq_false_iff_not]
  omega

/-- The bytes of READ_MIXER as R102 and R212 list them. -/
theorem mixerBody_eq (m : Mixer) (k : Fin 8) : mixerBody m k =
    ((List.finRange 32).flatMap fun i =>
      let g := (m.buses.get k).cells.get i
      u16 g.current ++ u16 g.target ++ u16 g.remaining)
    ++ u16 (m.buses.get k).delay
    ++ (match (m.buses.get k).pendingDelay with | none => [0, 0, 0] | some d => [1] ++ u16 d)
    ++ u16 (m.buses.get k).seed ++ u16 (m.buses.get k).saturations ++ u16 (m.buses.get k).narrowings
    ++ u8 (if (m.buses.get k).saturated then 1 else 0)
    ++ ((List.finRange 32).flatMap fun i => match m.bindings.get i with
      | none => [0, 0, 0]
      | some (port, slot) => [1] ++ u8 port ++ u8 slot)
    ++ u8 m.left.1 ++ u8 m.right.1 := by
  have delay : encOpt 2 u16 (m.buses.get k).pendingDelay =
      match (m.buses.get k).pendingDelay with | none => [0, 0, 0] | some d => [1] ++ u16 d := by
    cases (m.buses.get k).pendingDelay <;> rfl
  have bound : (fun i : Fin 32 => encOpt 2 (fun x : Nat × Nat => u8 x.1 ++ u8 x.2) (m.bindings.get i)) =
      fun i => match m.bindings.get i with
        | none => [0, 0, 0]
        | some (port, slot) => [1] ++ u8 port ++ u8 slot := by
    funext i
    cases m.bindings.get i <;> rfl
  unfold mixerBody
  dsimp only
  rw [delay, bound]
  rfl

/-- Settles O35. -/
theorem mixerRequestsWriteTheirValues : Obligations.MixerRequestsWriteTheirValues := by
  intro tag s free bus
  refine ⟨fun i binding fits => ?_, fun i port slot outside => ?_, fun i k gain ramp gainFits rampFits => ?_,
    fun k delay seed delayFits seedFits => ?_, fun l r => ?_, fun k => ?_⟩
  · refine answers_checked (a := done) free (exec_bindInput tag i.1 binding s) rfl (firstFail_of_all ?_) ?_
    · have slotFits := bindingOk_of_slot fits
      simp [bindingOk_counted, slotFits]
      omega
    · rw [input_ofNat]
      rfl
  · refine answers_outOfRange (k := 2) free (exec_bindInput tag i.1 (some (port, slot)) s) rfl ?_ (by decide)
    rw [bindingOk_counted, bindingOk_of_none outside, firstFail_cons _ (le_eq_false i.1 31), if_neg (by omega)]
    rfl
  · refine answers_checked (a := done) free (exec_setGain tag i.1 k.1 gain ramp s) rfl (firstFail_of_all ?_) ?_
    · simp [gainFits, rampFits]
      omega
    · rw [input_ofNat, bus_ofNat]
      rfl
  · refine answers_checked (a := done) free (exec_setBus tag k.1 delay seed s) rfl (firstFail_of_all ?_) ?_
    · simp [delayFits, seedFits]
      omega
    · rw [bus_ofNat]
      rfl
  · refine answers_checked (a := done) free (exec_setMonitor tag l.1 r.1 s) rfl (firstFail_of_all ?_) ?_
    · simp
      omega
    · rw [bus_ofNat, bus_ofNat]
      rfl
  · intro m b body
    have values : mixerBody s.mixer k = body := mixerBody_eq s.mixer k
    have fields (clear : Nat) (isFlag : clear ≤ 1) :
        firstFail 1 [decide (k.1 ≤ 7), Machine.isFlag clear] = 0 :=
      firstFail_of_all (by simp [Machine.isFlag]; omega)
    refine ⟨answers_checked (a := doneWith body) free (exec_readMixer tag k.1 0 s) rfl (fields 0 (by decide)) ?_,
      answers_checked (a := doneWith body) free (exec_readMixer tag k.1 1 s) rfl (fields 1 (by decide)) ?_⟩
    · rw [bus_ofNat, ← values]
      rfl
    · rw [bus_ofNat, ← values]
      rfl

/-! ### The settings of a path and of the uplink (R128, R145) -/

theorem carries_iff (p : Path) : carries p = true ↔ p.st = .up ∨ p.st = .degraded := by simp [carries]

/-- The rate of a path's credit, by its state (R127). -/
theorem pathRate_eq (p : Path) :
    pathRate p = if p.st = .up ∨ p.st = .degraded then p.estimate else if p.st = .probing then p.probeRate else 0 := by
  unfold pathRate
  cases p.st <;> rfl

/-- The checks of a CONFIGURE_PATH, by range and then by the two conditions that name the burst (R128). -/
def pathField (path ceiling initial burst share rate : Nat) : Nat :=
  if 5 < path then 1 else if ceiling < 1000 ∨ 1000000 < ceiling then 2
  else if initial < 64 ∨ 1000000 < initial then 3 else if burst < 1 ∨ 50 < burst then 4
  else if 255 < share then 5 else if rate < 64 ∨ 2048 < rate then 6
  else if rate * burst < 8416 ∨ min initial ceiling * burst < 10464 then 4 else 0

theorem offending_eq (checks : List Bool) :
    offending checks = if firstFail 1 checks = 0 then none else some (firstFail 1 checks) := by
  have number := firstFail_add 0 checks
  cases first : offending checks with
  | none => simp [number, first]
  | some k =>
    have lower := (offending_le_length first).1
    simp [number, first]
    omega

theorem pathOffence_eq (path ceiling initial burst share rate : Nat) :
    pathOffence path ceiling initial burst share rate =
      if pathField path ceiling initial burst share rate = 0 then none
      else some (pathField path ceiling initial burst share rate) := by
  unfold pathOffence pathField
  rw [offending_eq, firstFail_cons _ (le_eq_false path 5), firstFail_cons _ (inRange_eq_false 1000 1000000 ceiling),
    firstFail_cons _ (inRange_eq_false 64 1000000 initial), firstFail_cons _ (inRange_eq_false 1 50 burst),
    firstFail_cons _ (le_eq_false share 255), firstFail_cons _ (inRange_eq_false 64 2048 rate)]
  by_cases one : 5 < path
  · simp only [if_pos one]
    rfl
  by_cases two : ceiling < 1000 ∨ 1000000 < ceiling
  · simp only [if_neg one, if_pos two]
    rfl
  by_cases three : initial < 64 ∨ 1000000 < initial
  · simp only [if_neg one, if_neg two, if_pos three]
    rfl
  by_cases four : burst < 1 ∨ 50 < burst
  · simp only [if_neg one, if_neg two, if_neg three, if_pos four]
    rfl
  by_cases five : 255 < share
  · simp only [if_neg one, if_neg two, if_neg three, if_neg four, if_pos five]
    rfl
  by_cases six : rate < 64 ∨ 2048 < rate
  · simp only [if_neg one, if_neg two, if_neg three, if_neg four, if_neg five, if_pos six]
    rfl
  simp only [if_neg one, if_neg two, if_neg three, if_neg four, if_neg five, if_neg six]
  by_cases short : rate * burst < 8416 ∨ min initial ceiling * burst < 10464
  · rw [if_pos short]
    exact if_pos short
  · rw [if_neg short]
    exact if_neg short

theorem configuredPath_eq (ceiling initial burst share rate : Nat) (p : Path) :
    let e := if p.st = .up ∨ p.st = .degraded then min p.estimate ceiling else p.estimate
    let cap := (if p.st = .up ∨ p.st = .degraded then e else if p.st = .probing then rate else 0) * burst
    configuredPath ceiling initial burst share rate p =
      { p with
        ceiling := ceiling, initial := initial, burst := burst, repairShare := share, probeRate := rate,
        estimate := e, credit := min p.credit cap } := by
  intro e cap
  have estimate : (if carries p = true then min p.estimate ceiling else p.estimate) = e := by
    simp only [carries_iff, e]
  unfold configuredPath capCredit creditCap
  rw [estimate, pathRate_eq]

/-- Settles O40. -/
theorem configurePathWritesFiveFields : Obligations.ConfigurePathWritesFiveFields := by
  intro tag path ceiling initial burst share rate s free l p e cap field
  have offence := pathOffence_eq path ceiling initial burst share rate
  have named : pathField path ceiling initial burst share rate = field := rfl
  rw [named] at offence
  have reply {a : Answer} {t : State}
      (h : reqConfigurePath path ceiling initial burst share rate (counted s) = (a, counted t)) :
      exec (.configurePath tag path ceiling initial burst share rate) s =
        .next (answered tag 30 a.status a.detail a.detail2 a.body t) :=
    exec_answered (exec_configurePath tag path ceiling initial burst share rate s) free (congrArg atOnce h)
  refine ⟨fun fails => reply (a := outOfRange field) ?_, fun fits => reply (a := done) ?_⟩
  · unfold reqConfigurePath
    rw [offence, if_neg fails]
  · have written : s.modPath l (configuredPath ceiling initial burst share rate) = s.modPath l fun p =>
        { p with
          ceiling := ceiling, initial := initial, burst := burst, repairShare := share, probeRate := rate,
          estimate := e, credit := min p.credit cap } := by
      unfold State.modPath
      rw [configuredPath_eq]
      rfl
    unfold reqConfigurePath
    rw [offence, if_pos fits, ← written]
    rfl

/-- The uplink settings that a taken SET_UPLINK leaves, before the allocator runs (R145). -/
def uplinkSet (headroom reserve floor silence threshold forget : Nat) (s : State) : State :=
  (s.modAlloc fun a => { a with headroom := headroom, labelReserve := reserve, clipFloor := floor }).modUplink fun u =>
    { u with
      silenceTimeout := silence
      badThreshold := threshold
      lastReport := if flagOf forget then none else u.lastReport }

/-- What a run of the allocator leaves of a state: its outputs, the bucket under its new cap, and the link (R62, R163). -/
theorem runAllocator_frame (cause : AllocCause) (s : State) : runAllocator cause s =
    { s with
      alloc := allocate cause s
      sched := { s.sched with bucket := min s.sched.bucket (100 * (allocate cause s).clipRate) }
      link := (runAllocator cause s).link } := by
  rw [runAllocator_eq]
  split
  · rw [raise_eq]
    rfl
  · rfl

theorem isFlag_eq_false (n : Nat) : isFlag n = false ↔ 1 < n := by simp [isFlag]

/-- Settles O43. -/
theorem setUplinkWritesEverySetting : Obligations.SetUplinkWritesEverySetting := by
  intro tag headroom reserve floor silence threshold forget s free field
  have fields : firstFail 1 [inRange 8 16 headroom, decide (reserve ≤ 2000), decide (floor ≤ 50000),
      inRange 200 5000 silence, inRange 1 255 threshold, isFlag forget] = field := by
    rw [firstFail_cons _ (inRange_eq_false 8 16 headroom), firstFail_cons _ (le_eq_false reserve 2000),
      firstFail_cons _ (le_eq_false floor 50000), firstFail_cons _ (inRange_eq_false 200 5000 silence),
      firstFail_cons _ (inRange_eq_false 1 255 threshold), firstFail_cons _ (isFlag_eq_false forget)]
    rfl
  have taken := exec_setUplink tag headroom reserve floor silence threshold forget s
  refine ⟨fun fails => answers_outOfRange free taken rfl fields fails, fun fits => ?_⟩
  have commutes : runAllocator .uplinkSettings (uplinkSet headroom reserve floor silence threshold forget (counted s)) =
      counted (runAllocator .uplinkSettings (uplinkSet headroom reserve floor silence threshold forget s)) :=
    runAllocator_counted .uplinkSettings (uplinkSet headroom reserve floor silence threshold forget s)
  refine ⟨_, answers_checked (a := done) free taken rfl (fields.trans fits) (congrArg (Prod.mk done) commutes), ?_⟩
  have formed := runAllocator_alloc .uplinkSettings (uplinkSet headroom reserve floor silence threshold forget s)
  refine ⟨?_, ?_⟩
  · rw [runAllocator_frame]
    simp [uplinkSet, flagOf, State.modAlloc, State.modUplink]
  · rw [formed]
    exact ⟨rfl, rfl, rfl, rfl, rfl⟩

/-! ### STATUS and SUBSCRIBE (R207, R208) -/

theorem isMask_eq_false (mask : Nat) : isMask mask = false ↔ 2 ^ 18 ≤ mask := by simp [isMask]

/-- The NOTICE_LOST test that makes its notice (R205; log entry 37). -/
theorem noticeLostTest_makes {s : State} (lost : 0 < s.link.lostSince) (subscribed : s.link.subscribed.get 17 = true)
    (room : s.link.notices.length < 32) : noticeLostTest s = { s with
      link := { s.link with
        noticeNumber := (s.link.noticeNumber + 1) % 2 ^ 16, lostSince := 0
        notices := s.link.notices ++
          [⟨(s.link.noticeNumber + 1) % 2 ^ 16, 17, s.tb.picture, s.tb.pacing, u32 s.link.lostSince⟩] } } := by
  have kind : s.link.subscribed.get EventKind.noticeLost.index = true := subscribed
  unfold noticeLostTest makeNotice
  rw [if_pos (by simp [lost, kind, room, Config.maxNotices])]
  simp only [State.modLink, Config.maxNotices, room, if_true]
  rfl

theorem noticeLostTest_idle {s : State}
    (h : s.link.lostSince = 0 ∨ s.link.subscribed.get 17 = false ∨ 32 ≤ s.link.notices.length) :
    noticeLostTest s = s := by
  have index : EventKind.noticeLost.index = 17 := rfl
  unfold noticeLostTest
  rw [if_neg]
  rw [index]
  simp only [Config.maxNotices, Bool.and_eq_true, decide_eq_true_eq]
  rintro ⟨⟨lost, subscribed⟩, room⟩
  rcases h with none | unsubscribed | full
  · omega
  · rw [unsubscribed] at subscribed
    cases subscribed
  · exact absurd (of_decide_eq_true room) (Nat.not_lt.mpr full)

/-- Settles O58. -/
theorem statusClearsNamedLatches : Obligations.StatusClearsNamedLatches := by
  intro tag mask s free l named number made mask'
  have field : firstFail 1 [isMask mask] = if 2 ^ 18 ≤ mask then 1 else 0 := firstFail_cons _ (isMask_eq_false mask)
  refine ⟨fun outside => ?_, fun inside => ?_, fun inside idle => ?_, fun inside lost names room => ?_⟩
  · rw [if_pos outside] at field
    exact ⟨answers_outOfRange free (exec_status tag mask s) rfl field (by decide),
      answers_outOfRange free (exec_subscribe tag mask s) rfl field (by decide)⟩
  · rw [if_neg (by omega)] at field
    refine answers_checked (a := doneWith _) free (exec_status tag mask s) rfl field ?_
    rfl
  · rw [if_neg (by omega)] at field
    refine answers_checked (a := done) free (exec_subscribe tag mask s) rfl field ?_
    rw [noticeLostTest_idle]
    · rfl
    · rw [modLink_link, Vec_get_tab]
      exact idle
  · rw [if_neg (by omega)] at field
    refine answers_checked (a := done) free (exec_subscribe tag mask s) rfl field ?_
    rw [noticeLostTest_makes]
    · unfold counted State.modLink
      dsimp only [number, mask', l]
      rfl
    · rw [modLink_link]
      exact lost
    · rw [modLink_link, Vec_get_tab]
      exact names
    · rw [modLink_link]
      exact room

end Sys2Proof.Machine
end

section
/-! PROOFS. Tile coding (R37 to R55): the ranges of the transform and of the quantiser, codes as lists of bits, the check of
a code table, and how the bits of a tile tell its pairs. -/

namespace Sys2Proof.Machine

set_option Elab.async false

/-! ### Coefficients and levels (R38, R39) -/

theorem eight_le_quantStep (qi : Nat) : 8 ≤ quantStep qi := by
  have power : 1 ≤ 2 ^ (qi / 8) := Nat.one_le_two_pow
  unfold quantStep
  calc 8 ≤ (8 + qi % 8) * 1 := by omega
    _ ≤ (8 + qi % 8) * 2 ^ (qi / 8) := Nat.mul_le_mul_left _ power

/-- The size of a level (R39). -/
def levelSize (step n : Nat) : Nat := (n + step / 2) / step

theorem quantLevel_eq (step : Nat) (c : Int) :
    quantLevel step c = if c < 0 then -(levelSize step c.natAbs : Int) else levelSize step c.natAbs := rfl

theorem quantLevel_of_nonneg (step : Nat) {c : Int} (h : 0 ≤ c) :
    quantLevel step c = (c + (step : Int) / 2) / step := by
  obtain ⟨n, rfl⟩ := Int.eq_ofNat_of_zero_le h
  rw [quantLevel_eq, if_neg (by omega)]
  rfl

theorem levelSize_zero {step : Nat} (h : 8 ≤ step) : levelSize step 0 = 0 :=
  Nat.div_eq_of_lt (by omega)

theorem quantLevel_neg {step : Nat} (h : 8 ≤ step) (c : Int) : quantLevel step (-c) = -quantLevel step c := by
  simp only [quantLevel_eq, Int.natAbs_neg]
  rcases Int.lt_trichotomy c 0 with neg | rfl | pos
  · rw [if_neg (by omega), if_pos neg, neg_neg]
  · simp [levelSize_zero h]
  · rw [if_pos (by omega), if_neg (by omega)]

theorem levelSize_le {step n bound : Nat} (h : 8 ≤ step) (small : n + step / 2 < (bound + 1) * step) :
    levelSize step n ≤ bound :=
  Nat.lt_succ_iff.mp ((Nat.div_lt_iff_lt_mul (by omega)).mpr small)

/-- A coefficient of the ranges of R38 has a level from -1,024 to 1,023. -/
theorem quantLevel_range {step : Nat} (h : 8 ≤ step) {c : Int} (lower : -8192 ≤ c) (upper : c ≤ 8184) :
    -1024 ≤ quantLevel step c ∧ quantLevel step c ≤ 1023 := by
  rw [quantLevel_eq]
  split
  · have size : levelSize step c.natAbs ≤ 1024 := levelSize_le h (by omega)
    omega
  · have size : levelSize step c.natAbs ≤ 1023 := levelSize_le h (by omega)
    omega

/-- Four numbers that lie in a range, both ends included. -/
def Within (lo hi : Int) (q : Quad Int) : Prop := ∀ i, lo ≤ quadGet q i ∧ quadGet q i ≤ hi

/-- The four-point transform of numbers of a range: the sum, and the three balanced differences (R38). -/
theorem fourPoint_range {lo hi : Int} {q : Quad Int} (h : Within lo hi q) (i : Fin 4) :
    (i = 0 → 4 * lo ≤ quadGet (fourPoint q) i ∧ quadGet (fourPoint q) i ≤ 4 * hi) ∧
      (i ≠ 0 → 2 * (lo - hi) ≤ quadGet (fourPoint q) i ∧ quadGet (fourPoint q) i ≤ 2 * (hi - lo)) := by
  have a := h 0
  have b := h 1
  have c := h 2
  have d := h 3
  simp only [quadGet] at a b c d
  match i with
  | 0 => simp only [quadGet, fourPoint]; omega
  | 1 => simp only [quadGet, fourPoint]; omega
  | 2 => simp only [quadGet, fourPoint]; omega
  | 3 => simp only [quadGet, fourPoint]; omega

/-- Column `v` of the tile whose rows have been transformed. -/
def transformedColumn (tile : Quad (Quad Int)) (v : Fin 4) : Quad Int :=
  ⟨quadGet (fourPoint tile.a) v, quadGet (fourPoint tile.b) v, quadGet (fourPoint tile.c) v, quadGet (fourPoint tile.d) v⟩

theorem coefficients_get (tile : Quad (Quad Int)) (u v : Fin 4) :
    quadGet (quadGet (coefficients tile) u) v = quadGet (fourPoint (transformedColumn tile v)) u := by
  match u, v with
  | 0, 0 | 0, 1 | 0, 2 | 0, 3 | 1, 0 | 1, 1 | 1, 2 | 1, 3 | 2, 0 | 2, 1 | 2, 2 | 2, 3 | 3, 0 | 3, 1 | 3, 2 | 3, 3 => rfl

/-- The rows of a tile of samples, transformed: the first column holds sums, every other balanced differences. -/
theorem transformedColumn_range {tile : Quad (Quad Int)} (h : ∀ u, Within (-512) 511 (quadGet tile u)) (v : Fin 4) :
    (v = 0 → Within (-2048) 2044 (transformedColumn tile v)) ∧
      (v ≠ 0 → Within (-2046) 2046 (transformedColumn tile v)) := by
  have row (u : Fin 4) : quadGet (transformedColumn tile v) u = quadGet (fourPoint (quadGet tile u)) v := by
    match u with
    | 0 | 1 | 2 | 3 => rfl
  refine ⟨fun first u => ?_, fun later u => ?_⟩
  · have sum := (fourPoint_range (h u) v).1 first
    rw [row]
    omega
  · have difference := (fourPoint_range (h u) v).2 later
    rw [row]
    omega

/-- Settles O28. -/
theorem coefficientsAndLevelsKeepRange : Obligations.CoefficientsAndLevelsKeepRange := by
  refine ⟨fun x => ?_, fun tile samples u v => ?_, ?_, ?_⟩
  · simp only [coefficients, quadTranspose, quadMap, fourPoint, Quad.mk.injEq]
    omega
  · obtain ⟨sums, differences⟩ := transformedColumn_range samples v
    rw [coefficients_get]
    by_cases column : v = 0
    · have range := fourPoint_range (sums column) u
      omega
    · have range := fourPoint_range (differences column) u
      omega
  · decide
  · intro qi c _ step
    have large := eight_le_quantStep qi
    refine ⟨quantLevel_of_nonneg _, quantLevel_neg large c, fun small => ?_, quantLevel_range large⟩
    have size : levelSize step c.natAbs ≤ 0 := levelSize_le large (by omega)
    rw [quantLevel_eq]
    split <;> omega

/-! ### Bits, most significant first (R42) -/

theorem bitsMsb_length (k n : Nat) : (bitsMsb k n).length = k := by
  induction k with
  | zero => rfl
  | succ k ih => simp [bitsMsb, ih]

/-- The leading bits of a number's bits are the bits of what stands above the others. -/
theorem bitsMsb_take (a d n : Nat) : (bitsMsb (a + d) n).take a = bitsMsb a (n / 2 ^ d) := by
  induction a with
  | zero => simp [bitsMsb]
  | succ a ih =>
    rw [Nat.succ_add]
    simp only [bitsMsb, List.take_succ_cons, ih, Nat.testBit_div_two_pow]

theorem bitsMsb_eq_iff (k m n : Nat) : bitsMsb k m = bitsMsb k n ↔ ∀ i < k, m.testBit i = n.testBit i := by
  induction k with
  | zero => simp [bitsMsb]
  | succ k ih =>
    simp only [bitsMsb, List.cons.injEq, ih]
    refine ⟨fun ⟨top, rest⟩ i below => ?_, fun same => ⟨same k (by omega), fun i below => same i (by omega)⟩⟩
    rcases Nat.lt_succ_iff_lt_or_eq.mp below with lower | rfl
    · exact rest i lower
    · exact top

theorem bitsMsb_injective {k m n : Nat} (hm : m < 2 ^ k) (hn : n < 2 ^ k) (same : bitsMsb k m = bitsMsb k n) : m = n := by
  refine Nat.eq_of_testBit_eq fun i => ?_
  rcases Nat.lt_or_ge i k with below | above
  · exact (bitsMsb_eq_iff k m n).mp same i below
  · have high {x : Nat} (hx : x < 2 ^ k) : x.testBit i = false :=
      Nat.testBit_eq_false_of_lt (hx.trans_le (Nat.pow_le_pow_right two_pos above))
    rw [high hm, high hn]

/-- A code no longer than another begins it exactly when it is that one's leading bits. -/
theorem bitsMsb_prefix_iff {a b m n : Nat} (shorter : a ≤ b) (hm : m < 2 ^ a) (hn : n < 2 ^ b) :
    bitsMsb a m <+: bitsMsb b n ↔ m = n / 2 ^ (b - a) := by
  obtain ⟨d, rfl⟩ := Nat.exists_eq_add_of_le shorter
  rw [List.prefix_iff_eq_take, bitsMsb_length, bitsMsb_take, Nat.add_sub_cancel_left]
  refine ⟨bitsMsb_injective hm ?_, fun same => congrArg _ same⟩
  rw [Nat.div_lt_iff_lt_mul (Nat.two_pow_pos d), ← Nat.pow_add]
  exact hn

/-! ### Codes that do not conflict (R55) -/

theorem entryInRange_iff (e : CodeEntry) :
    entryInRange e = true ↔ 1 ≤ e.length ∧ e.length ≤ 16 ∧ e.value < 2 ^ e.length := by
  simp [entryInRange, and_assoc]

/-- The code of an entry. -/
def entryBits (e : CodeEntry) : List Bool := bitsMsb e.length e.value

theorem codeBits_of_get {es : List CodeEntry} {i : Nat} {e : CodeEntry} (h : es[i]? = some e) :
    codeBits es i = entryBits e := by
  simp [codeBits, entryBits, List.getD, h]

theorem entriesConflict_comm (x y : CodeEntry) : entriesConflict x y = entriesConflict y x := by
  unfold entriesConflict
  rw [Nat.min_comm, Bool.beq_comm]

theorem entriesConflict_of_le {x y : CodeEntry} (shorter : x.length ≤ y.length)
    (hx : entryInRange x = true) (hy : entryInRange y = true) :
    entriesConflict x y = true ↔ entryBits x <+: entryBits y := by
  obtain ⟨-, -, xValue⟩ := (entryInRange_iff x).mp hx
  obtain ⟨-, -, yValue⟩ := (entryInRange_iff y).mp hy
  unfold entriesConflict entryBits
  rw [bitsMsb_prefix_iff shorter xValue yValue, min_eq_left shorter]
  simp

/-- Two codes conflict exactly when one is the beginning of the other (R55). -/
theorem entriesConflict_iff {x y : CodeEntry} (hx : entryInRange x = true) (hy : entryInRange y = true) :
    entriesConflict x y = true ↔ entryBits x <+: entryBits y ∨ entryBits y <+: entryBits x := by
  have longer {u v : CodeEntry} (h : u.length < v.length) : ¬entryBits v <+: entryBits u := fun begins => by
    have lengths := begins.length_le
    simp only [entryBits, bitsMsb_length] at lengths
    omega
  rcases Nat.lt_trichotomy x.length y.length with less | equal | more
  · simp [entriesConflict_of_le less.le hx hy, longer less]
  · have both := entriesConflict_of_le equal.ge hy hx
    rw [entriesConflict_comm] at both
    have one := entriesConflict_of_le equal.le hx hy
    tauto
  · rw [entriesConflict_comm, entriesConflict_of_le more.le hy hx]
    simp [longer more]

/-! ### The check of a table (R55) -/

theorem firstOutOfRange_eq (i : Nat) (es : List CodeEntry) :
    firstOutOfRange i es = (es.findIdx? fun e => !entryInRange e).map (· + i) := by
  induction es generalizing i with
  | nil => rfl
  | cons e es ih =>
    simp only [firstOutOfRange, List.findIdx?_cons, ih]
    cases entryInRange e with
    | false => simp
    | true =>
      cases es.findIdx? fun e => !entryInRange e with
      | none => rfl
      | some k => simp; omega

theorem firstOutOfRange_eq_none_iff (i : Nat) (es : List CodeEntry) :
    firstOutOfRange i es = none ↔ ∀ e ∈ es, entryInRange e = true := by
  simp [firstOutOfRange_eq]

theorem firstOutOfRange_eq_some {es : List CodeEntry} {x : Nat} {e : CodeEntry} (found : es[x]? = some e)
    (outside : entryInRange e = false) (before : ∀ y < x, ∀ e', es[y]? = some e' → entryInRange e' = true) :
    firstOutOfRange 0 es = some x := by
  obtain ⟨inside, rfl⟩ := List.getElem?_eq_some_iff.mp found
  rw [firstOutOfRange_eq, List.findIdx?_eq_some_iff_getElem.mpr ⟨inside, by simp [outside], fun y below => ?_⟩]
  · rfl
  · simp [before y below _ (List.getElem?_eq_getElem (below.trans inside))]

theorem firstConflictWith_eq (x : CodeEntry) (j : Nat) (es : List CodeEntry) :
    firstConflictWith x j es = (es.findIdx? (entriesConflict x)).map (· + j) := by
  induction es generalizing j with
  | nil => rfl
  | cons e es ih =>
    simp only [firstConflictWith, List.findIdx?_cons, ih]
    cases entriesConflict x e with
    | true => simp
    | false =>
      cases es.findIdx? (entriesConflict x) with
      | none => rfl
      | some k => simp; omega

/-- The entries at two places of a list conflict. -/
def ConflictAt (es : List CodeEntry) (x y : Nat) : Prop :=
  ∃ e f, es[x]? = some e ∧ es[y]? = some f ∧ entriesConflict e f = true

theorem conflictAt_zero (e : CodeEntry) (es : List CodeEntry) (y : Nat) :
    ConflictAt (e :: es) 0 (y + 1) ↔ ∃ f, es[y]? = some f ∧ entriesConflict e f = true := by
  simp [ConflictAt]

theorem conflictAt_succ (e : CodeEntry) (es : List CodeEntry) (x y : Nat) :
    ConflictAt (e :: es) (x + 1) (y + 1) ↔ ConflictAt es x y := by
  simp [ConflictAt]

/-- The pair that is found conflicts, and no pair before it does (R55). -/
theorem firstConflict_eq_some {i : Nat} {es : List CodeEntry} {a b : Nat} (found : firstConflict i es = some (a, b)) :
    ∃ x y, a = i + x ∧ b = i + y ∧ x < y ∧ ConflictAt es x y ∧
      ∀ x' y', x' < y' → ConflictAt es x' y' → x < x' ∨ (x = x' ∧ y ≤ y') := by
  induction es generalizing i with
  | nil => cases found
  | cons e es ih =>
    unfold firstConflict at found
    rw [firstConflictWith_eq] at found
    cases here : es.findIdx? (entriesConflict e) with
    | some y =>
      rw [here] at found
      obtain ⟨rfl, rfl⟩ := Prod.mk.inj (Option.some.inj found)
      obtain ⟨inside, conflict, before⟩ := List.findIdx?_eq_some_iff_getElem.mp here
      refine ⟨0, y + 1, rfl, by dsimp only; omega, by omega,
        (conflictAt_zero e es y).mpr ⟨_, List.getElem?_eq_getElem inside, conflict⟩, fun x' y' less other => ?_⟩
      match x', y', less with
      | x' + 1, y', _ => omega
      | 0, y' + 1, _ =>
        refine .inr ⟨rfl, Nat.succ_le_succ (Nat.le_of_not_lt fun earlier => ?_)⟩
        obtain ⟨f, found', clash⟩ := (conflictAt_zero e es y').mp other
        obtain ⟨_, rfl⟩ := List.getElem?_eq_some_iff.mp found'
        exact before y' earlier clash
    | none =>
      rw [here] at found
      obtain ⟨x, y, rfl, rfl, less, conflict, before⟩ := ih found
      refine ⟨x + 1, y + 1, by omega, by omega, by omega, (conflictAt_succ e es x y).mpr conflict,
        fun x' y' less' other => ?_⟩
      match x', y', less' with
      | 0, y' + 1, _ =>
        obtain ⟨f, found', clash⟩ := (conflictAt_zero e es y').mp other
        exact absurd clash (Bool.eq_false_iff.mp (List.findIdx?_eq_none_iff.mp here f (List.mem_of_getElem? found')))
      | x' + 1, y' + 1, less' =>
        have later := before x' y' (by omega) ((conflictAt_succ e es x' y').mp other)
        omega

theorem firstConflict_eq_none {i : Nat} {es : List CodeEntry} (found : firstConflict i es = none) :
    ∀ x y, x < y → ¬ConflictAt es x y := by
  induction es generalizing i with
  | nil => simp [ConflictAt]
  | cons e es ih =>
    unfold firstConflict at found
    rw [firstConflictWith_eq] at found
    cases here : es.findIdx? (entriesConflict e) with
    | some y => simp [here] at found
    | none =>
      rw [here] at found
      intro x y less conflict
      match x, y, less with
      | 0, y + 1, _ =>
        obtain ⟨f, found', clash⟩ := (conflictAt_zero e es y).mp conflict
        exact absurd clash (Bool.eq_false_iff.mp (List.findIdx?_eq_none_iff.mp here f (List.mem_of_getElem? found')))
      | x + 1, y + 1, less => exact ih found x y (by omega) ((conflictAt_succ e es x y).mp conflict)

theorem conflictAt_iff {es : List CodeEntry} (fit : ∀ e ∈ es, entryInRange e = true) {x y : Nat} (less : x < y)
    (inside : y < es.length) :
    ConflictAt es x y ↔ codeBits es x <+: codeBits es y ∨ codeBits es y <+: codeBits es x := by
  have first := List.getElem?_eq_getElem (less.trans inside)
  have second := List.getElem?_eq_getElem inside
  rw [codeBits_of_get first, codeBits_of_get second,
    ← entriesConflict_iff (fit _ (List.getElem_mem _)) (fit _ (List.getElem_mem _))]
  simp [ConflictAt, first, second]

theorem conflictAt_inside {es : List CodeEntry} {x y : Nat} (h : ConflictAt es x y) : y < es.length := by
  obtain ⟨-, f, -, found, -⟩ := h
  exact (List.getElem?_eq_some_iff.mp found).1

theorem checkTable_of_range {es : List CodeEntry} (fit : ∀ e ∈ es, entryInRange e = true) :
    checkTable es = (firstConflict 0 es).elim .pass fun pair => .ambiguous pair.1 pair.2 := by
  unfold checkTable
  rw [(firstOutOfRange_eq_none_iff 0 es).mpr fit]
  cases firstConflict 0 es <;> rfl

/-- A table that passes has every entry in range and no two conflicting codes (R55). -/
theorem checkTable_pass {es : List CodeEntry} (passes : checkTable es = .pass) :
    (∀ e ∈ es, entryInRange e = true) ∧ ∀ x y, x < y → ¬ConflictAt es x y := by
  have fit : ∀ e ∈ es, entryInRange e = true := by
    rw [← firstOutOfRange_eq_none_iff 0]
    unfold checkTable at passes
    cases outside : firstOutOfRange 0 es with
    | none => rfl
    | some i => simp [outside] at passes
  rw [checkTable_of_range fit] at passes
  cases found : firstConflict 0 es with
  | none => exact ⟨fit, firstConflict_eq_none found⟩
  | some pair => simp [found] at passes

/-! ### The end of a check (R55) -/

/-- A table of given entries whose check had a given result (R55). -/
def checkedTable (es : List CodeEntry) : CheckResult → CodeTable
  | .pass => ⟨.ready, es, some .pass⟩
  | .outOfRange i => ⟨.empty, [], some (.outOfRange i)⟩
  | .ambiguous i j => ⟨.empty, [], some (.ambiguous i j)⟩

theorem endCheck_eq (c : CodeTable) : endCheck c = checkedTable c.entries (checkTable c.entries) := by
  unfold endCheck
  cases checkTable c.entries <;> rfl

theorem endTableCheck_of_result {j : Fin 2} {s : State} {result : CheckResult} (checking : (s.table j).st = .checking)
    (checked : checkTable (s.table j).entries = result) :
    endTableCheck j s = (s.modTable j fun _ => checkedTable (s.table j).entries result).modLink
      (fillReserved j.1 (checkAnswer result)) := by
  have ended : s.modTable j endCheck = s.modTable j fun _ => checkedTable (s.table j).entries result := by
    have table : endCheck (s.table j) = checkedTable (s.table j).entries result := by rw [endCheck_eq, checked]
    exact congrArg (fun c => { s with tables := Vec.put s.tables j c }) table
  unfold endTableCheck
  rw [checking, checked, ended]
  rfl

/-- Settles O31. -/
theorem checkPassesPrefixFreeTables : Obligations.CheckPassesPrefixFreeTables := by
  intro j s es fits clash ends
  have judged (e : CodeEntry) : entryInRange e = true ↔ fits e := entryInRange_iff e
  have fit (all : ∀ e ∈ es, fits e) : ∀ e ∈ es, entryInRange e = true := fun e mem => (judged e).mpr (all e mem)
  have endsWith {result : CheckResult} (checking : (s.table j).st = .checking) (checked : checkTable es = result) :
      exec (.tableCheckEnd j) s = .next
        ((s.modTable j fun _ => checkedTable es result).modLink (fillReserved j.1 (checkAnswer result))) := by
    rw [exec_tableCheckEnd, endTableCheck_of_result checking checked]
  refine ⟨fun other => ?_, fun checking => ⟨fun all free => ?_, fun x e found outside before => ?_,
    fun x y all less inside conflict least => ?_⟩⟩
  · rw [exec_tableCheckEnd]
    unfold endTableCheck
    rw [if_neg (by simpa using other)]
  · refine endsWith (result := .pass) checking ?_
    rw [checkTable_of_range (fit all)]
    cases found : firstConflict 0 es with
    | none => rfl
    | some pair =>
      obtain ⟨x, y, -, -, less, conflict, -⟩ := firstConflict_eq_some found
      have inside := conflictAt_inside conflict
      exact absurd ((conflictAt_iff (fit all) less inside).mp conflict) (free x y less inside)
  · refine endsWith (result := .outOfRange x) checking ?_
    unfold checkTable
    rw [firstOutOfRange_eq_some found (Bool.eq_false_iff.mpr (mt (judged e).mp outside)) fun y below e' found' =>
      (judged e').mpr (before y below e' found')]
  · refine endsWith (result := .ambiguous x y) checking ?_
    have at' := (conflictAt_iff (fit all) less inside).mpr conflict
    rw [checkTable_of_range (fit all)]
    cases found : firstConflict 0 es with
    | none => exact absurd at' (firstConflict_eq_none found x y less)
    | some pair =>
      obtain ⟨a, b⟩ := pair
      obtain ⟨x', y', rfl, rfl, less', conflict', first⟩ := firstConflict_eq_some found
      have inside' := conflictAt_inside conflict'
      have one := first x y less at'
      have other := least x' y' less' inside' ((conflictAt_iff (fit all) less' inside').mp conflict')
      obtain ⟨rfl, rfl⟩ : x' = x ∧ y' = y := by omega
      simp

/-! ### Tiles that are told apart (R43) -/

/-- The place in the table of the code that a pair begins with (R42, R43). -/
def pairSymbol (p : Nat × Int) : Nat := if isEscaped p then 128 else 8 * p.1 + p.2.natAbs - 1

/-- The bits of a pair that follow its code (R43). -/
def pairRest (p : Nat × Int) : List Bool :=
  if isEscaped p then bitsMsb 4 p.1 ++ bitsMsb 12 (p.2 % 4096).toNat else [decide (p.2 < 0)]

theorem pairBits_eq (t : List CodeEntry) (p : Nat × Int) :
    pairBits t p = codeBits t (pairSymbol p) ++ pairRest p := by
  unfold pairBits pairSymbol pairRest
  split <;> simp

/-- The pairs that a tile may hold (R41, R43). -/
def PairInRange (p : Nat × Int) : Prop := p.1 ≤ 15 ∧ p.2 ≠ 0 ∧ -1024 ≤ p.2 ∧ p.2 ≤ 1023

theorem pairSymbol_lt {p : Nat × Int} (h : PairInRange p) : pairSymbol p < 129 := by
  obtain ⟨run, nonzero, -, -⟩ := h
  unfold pairSymbol isEscaped
  split
  · omega
  · rename_i small
    simp only [decide_eq_true_eq] at small
    omega

/-- Codes of a table that passes tell their places, whatever bits follow them (R55). -/
theorem codeBits_append_inj {es : List CodeEntry} (passes : checkTable es = .pass) {i j : Nat} (hi : i < es.length)
    (hj : j < es.length) {u v : List Bool} (same : codeBits es i ++ u = codeBits es j ++ v) : i = j ∧ u = v := by
  obtain ⟨fit, free⟩ := checkTable_pass passes
  have begins : codeBits es i <+: codeBits es j ∨ codeBits es j <+: codeBits es i :=
    List.prefix_or_prefix_of_prefix (List.prefix_append _ u) (same ▸ List.prefix_append _ v)
  have equal : i = j := by
    rcases Nat.lt_trichotomy i j with less | equal | more
    · exact absurd ((conflictAt_iff fit less hj).mpr begins) (free i j less)
    · exact equal
    · exact absurd ((conflictAt_iff fit more hi).mpr begins.symm) (free j i more)
  subst equal
  exact ⟨rfl, List.append_cancel_left same⟩

/-- Pairs of one code are told apart by the bits that follow it. -/
theorem pair_eq_of_rest {p q : Nat × Int} (hp : PairInRange p) (hq : PairInRange q) (symbol : pairSymbol p = pairSymbol q)
    {u v : List Bool} (same : pairRest p ++ u = pairRest q ++ v) : p = q ∧ u = v := by
  obtain ⟨pRun, pNonzero, pLower, pUpper⟩ := hp
  obtain ⟨qRun, qNonzero, qLower, qUpper⟩ := hq
  unfold pairSymbol at symbol
  unfold pairRest at same
  unfold isEscaped at symbol same
  by_cases pEscaped : 8 < p.2.natAbs
  · by_cases qEscaped : 8 < q.2.natAbs
    · simp only [pEscaped, qEscaped, decide_true, if_true, List.append_assoc] at same
      obtain ⟨runs, rest⟩ := List.append_inj same (by simp only [bitsMsb_length])
      obtain ⟨levels, tail⟩ := List.append_inj rest (by simp only [bitsMsb_length])
      have run := bitsMsb_injective (by omega) (by omega) runs
      have level := bitsMsb_injective (by omega) (by omega) levels
      exact ⟨Prod.ext run (by omega), tail⟩
    · simp only [pEscaped, qEscaped, decide_true, decide_false, if_true, Bool.false_eq_true, if_false] at symbol
      omega
  · by_cases qEscaped : 8 < q.2.natAbs
    · simp only [pEscaped, qEscaped, decide_true, decide_false, if_true, Bool.false_eq_true, if_false] at symbol
      omega
    · simp only [pEscaped, qEscaped, decide_false, Bool.false_eq_true, if_false] at symbol same
      obtain ⟨sign, tail⟩ := List.cons.inj same
      have signs : p.2 < 0 ↔ q.2 < 0 := decide_eq_decide.mp sign
      exact ⟨Prod.ext (by omega) (by omega), tail⟩

theorem tileBits_cons (t : List CodeEntry) (p : Nat × Int) (ps : List (Nat × Int)) (u : List Bool) :
    tileBits t (p :: ps) ++ u = codeBits t (pairSymbol p) ++ (pairRest p ++ (tileBits t ps ++ u)) := by
  simp [tileBits, pairBits_eq]

/-- Tiles of a table that passes are told apart pair by pair: the next code is EOT's or that of the next pair (R43). -/
theorem tileBits_injective {es : List CodeEntry} (size : es.length = 130) (passes : checkTable es = .pass) :
    ∀ (xs ys : List (Nat × Int)) (u v : List Bool), (∀ x ∈ xs, PairInRange x) → (∀ y ∈ ys, PairInRange y) →
      tileBits es xs ++ u = tileBits es ys ++ v → xs = ys ∧ u = v := by
  intro xs
  induction xs with
  | nil =>
    rintro (_ | ⟨y, ys⟩) u v - yFits same
    · exact ⟨rfl, List.append_cancel_left same⟩
    · have bound := pairSymbol_lt (yFits y List.mem_cons_self)
      rw [tileBits_cons] at same
      have code := (codeBits_append_inj passes (by omega) (by omega) same).1
      omega
  | cons x xs ih =>
    intro ys u v xFits yFits same
    have xBound := pairSymbol_lt (xFits x List.mem_cons_self)
    rw [tileBits_cons] at same
    cases ys with
    | nil =>
      have code := (codeBits_append_inj passes (by omega) (by omega) same).1
      omega
    | cons y ys =>
      have yBound := pairSymbol_lt (yFits y List.mem_cons_self)
      rw [tileBits_cons] at same
      obtain ⟨symbol, rest⟩ := codeBits_append_inj passes (by omega) (by omega) same
      obtain ⟨rfl, tail⟩ := pair_eq_of_rest (xFits x List.mem_cons_self) (yFits y List.mem_cons_self) symbol rest
      obtain ⟨rfl, follows⟩ := ih ys u v (fun z mem => xFits z (List.mem_cons_of_mem _ mem))
        (fun z mem => yFits z (List.mem_cons_of_mem _ mem)) tail
      exact ⟨rfl, follows⟩

/-- Settles O29: the codes are prefix free, so each pair, and then EOT, is told by the bits that begin it. -/
theorem tileBitsTellTheirPairs : Obligations.TileBitsTellTheirPairs := by
  intro es size passes xs ys a b fits same
  exact tileBits_injective size passes xs ys a b (fun x mem => fits x (List.mem_append_left ys mem))
    (fun y mem => fits y (List.mem_append_right xs mem)) same

/-! ### LOAD_TABLE (R54, R203) -/

/-- A reservation that a LOAD_TABLE leaves where its reply will stand (R203, R205). -/
theorem submit_later {tag : Byte} {r : Request} {table : Nat} {s t : State} (free : Free s)
    (performs : perform r (counted s) = (.later table, t)) :
    submit tag r s = pushReply (.reserved tag table) t := by
  have processed : process ⟨tag, r⟩ s =
      pushReply (slotOf ⟨tag, r⟩ (perform r (counted s)).1) (perform r (counted s)).2 := rfl
  rw [submit_free tag r s free, processed, performs]
  rfl

theorem mem_programsNaming {table : Nat} {s : State} {p : Fin 4} :
    p ∈ programsNaming table s ↔ ∃ r, (s.prog p).record = some r ∧ r.table = table := by
  unfold programsNaming
  rw [List.mem_filter]
  cases (s.prog p).record <;> simp

theorem programsNaming_ascending (table : Nat) (s : State) : (programsNaming table s).Pairwise (· < ·) :=
  (List.pairwise_lt_finRange 4).filter _

/-- A program out of IDLE whose record names a table (R54). -/
def UsesTable (table : Nat) (s : State) (p : Fin 4) : Prop :=
  (s.prog p).st ≠ .idle ∧ ∃ r, (s.prog p).record = some r ∧ r.table = table

theorem tableUser_eq_none {table : Nat} {s : State} (h : ∀ p, ¬UsesTable table s p) : tableUser table s = none :=
  List.find?_eq_none.mpr fun p named => by
    simpa using fun busy => h p ⟨busy, mem_programsNaming.mp named⟩

/-- The search in ascending order finds the lowest element that passes. -/
theorem find?_of_lowest {n : Nat} {ok : Fin n → Bool} {l : List (Fin n)} {p : Fin n} (ascending : l.Pairwise (· < ·))
    (mem : p ∈ l) (passes : ok p = true) (lowest : ∀ q ∈ l, q < p → ok q = false) : l.find? ok = some p := by
  induction l with
  | nil => cases mem
  | cons q qs ih =>
    obtain ⟨below, ascends⟩ := List.pairwise_cons.mp ascending
    rcases List.mem_cons.mp mem with rfl | later
    · exact List.find?_cons_of_pos passes
    · rw [List.find?_cons_of_neg (by simp [lowest q List.mem_cons_self (below p later)])]
      exact ih ascends later fun r hr => lowest r (List.mem_cons_of_mem q hr)

theorem tableUser_eq_some {table : Nat} {s : State} {p : Fin 4} (uses : UsesTable table s p)
    (lowest : ∀ q, q < p → ¬UsesTable table s q) : tableUser table s = some p := by
  obtain ⟨busy, named⟩ := uses
  refine find?_of_lowest (programsNaming_ascending table s) (mem_programsNaming.mpr named) (by simpa using busy)
    fun q hq below => ?_
  have idle : ¬(s.prog q).st ≠ .idle := fun h => lowest q below ⟨h, mem_programsNaming.mp hq⟩
  simpa using idle

theorem reqLoadTable_checking {table : Nat} (es : List CodeEntry) {s : State} (letter : table ≤ 1)
    (checking : (s.table (Fin.ofNat 2 table)).st = .checking) :
    reqLoadTable table es s = (.answer ⟨.inUse, table, 1, []⟩, s) := by
  unfold reqLoadTable
  rw [if_pos letter]
  dsimp only
  rw [if_pos (by simpa using checking)]

theorem reqLoadTable_used {table : Nat} (es : List CodeEntry) {s : State} {p : Fin 4} (letter : table ≤ 1)
    (free : (s.table (Fin.ofNat 2 table)).st ≠ .checking) (user : tableUser table s = some p) :
    reqLoadTable table es s = (.answer ⟨.inUse, p.1, 0, []⟩, s) := by
  unfold reqLoadTable
  rw [if_pos letter]
  dsimp only
  rw [if_neg (by simpa using free), user]

theorem reqLoadTable_unused {table : Nat} (es : List CodeEntry) {s : State} (letter : table ≤ 1)
    (free : (s.table (Fin.ofNat 2 table)).st ≠ .checking) (user : tableUser table s = none) :
    reqLoadTable table es s =
      (.later table, s.modTable (Fin.ofNat 2 table) fun c => { c with st := .checking, entries := es }) := by
  unfold reqLoadTable
  rw [if_pos letter]
  dsimp only
  rw [if_neg (by simpa using free), user]

theorem reqLoadTable_letter {table : Nat} (es : List CodeEntry) {s : State} (letter : 1 < table) :
    reqLoadTable table es s = (.answer (outOfRange 1), s) := by
  unfold reqLoadTable
  rw [if_neg (by omega)]

/-! ### The length of a LOAD_TABLE body (R203, R212) -/

theorem rd_length {k : Nat} {b : List Byte} {x : Nat × List Byte} (h : rd k b = some x) :
    b.length = k + x.2.length := by
  unfold rd at h
  split at h
  · cases h
  · cases h
    simp
    omega

theorem rdEntries_length {n : Nat} {b : List Byte} {x : List CodeEntry × List Byte} (h : rdEntries n b = some x) :
    b.length = 3 * n + x.2.length := by
  induction n generalizing b x with
  | zero =>
    cases h
    simp
  | succ n ih =>
    unfold rdEntries at h
    obtain ⟨l, hl, h⟩ := Option.bind_eq_some_iff.mp h
    obtain ⟨v, hv, h⟩ := Option.bind_eq_some_iff.mp h
    obtain ⟨es, hes, h⟩ := Option.bind_eq_some_iff.mp h
    cases h
    have first := rd_length hl
    have second := rd_length hv
    have rest := ih hes
    dsimp only
    omega

theorem readTableLoad_whole_length {b : List Byte} {r : Request} (h : whole (readTableLoad b) = some r) :
    b.length = 391 := by
  unfold whole readTableLoad at h
  obtain ⟨y, hy, h⟩ := Option.bind_eq_some_iff.mp h
  obtain ⟨table, htable, hy⟩ := Option.bind_eq_some_iff.mp hy
  obtain ⟨es, hes, hy⟩ := Option.bind_eq_some_iff.mp hy
  cases hy
  have first := rd_length htable
  have rest := rdEntries_length hes
  have ends : es.2.length = 0 := by
    split at h
    · rename_i empty
      simpa using empty
    · cases h
  omega

theorem readRequest_misfit {body : List Byte} (h : body.length ≠ 391) : readRequest 12 body = misfit 12 body := by
  have unread : whole (readTableLoad body) = none :=
    Option.eq_none_iff_forall_ne_some.mpr fun r read => h (readTableLoad_whole_length read)
  have reads : readRequest 12 body = (whole (readTableLoad body)).getD (misfit 12 body) := rfl
  rw [reads, unread]
  rfl

/-- A letter that has the refusal of a wrong length is above 1 (R54; log entry 30). -/
theorem refusedByLetter_letter {kind : Byte} {body : List Byte} (h : refusedByLetter kind body = true) :
    ∃ letter rest, body = letter :: rest ∧ 1 < letter.toNat := by
  cases body with
  | nil => cases h
  | cons letter rest =>
    simp only [refusedByLetter, Bool.and_eq_true, decide_eq_true_eq] at h
    exact ⟨letter, rest, rfl, h.1.2⟩

/-- Settles O30. -/
theorem loadTableStartsTheCheck : Obligations.LoadTableStartsTheCheck := by
  intro tag table es s free c uses answer
  have at' : (counted s).table (Fin.ofNat 2 table) = c := rfl
  have taken := exec_loadTable tag table es s
  refine ⟨fun letter => ?_, fun letter checking => ?_, fun letter other p usesIt lowest => ?_,
    fun letter other unused => ?_, fun body length => ?_⟩
  · exact exec_answered (a := outOfRange 1) taken free (reqLoadTable_letter es letter)
  · exact exec_answered (a := ⟨.inUse, table, 1, []⟩) taken free (reqLoadTable_checking es letter checking)
  · have user : tableUser table (counted s) = some p := tableUser_eq_some (s := counted s) usesIt lowest
    exact exec_answered (a := ⟨.inUse, p.1, 0, []⟩) taken free (reqLoadTable_used (s := counted s) es letter other user)
  · have user : tableUser table (counted s) = none := tableUser_eq_none (s := counted s) unused
    rw [taken, submit_later (r := .loadTable table es) free (reqLoadTable_unused (s := counted s) es letter other user)]
    rfl
  · rw [readRequest_misfit length]
    unfold misfit
    split
    · rename_i refused
      obtain ⟨letter, rest, rfl, above⟩ := refusedByLetter_letter refused
      exact ⟨outOfRange 1, reqLoadTable_letter [] above, .inr ⟨rfl, rfl, letter, rest, rfl, above⟩⟩
    · exact ⟨refuse .badLength body.length, rfl, .inl ⟨rfl, rfl⟩⟩

end Sys2Proof.Machine
end

section
/-! PROOFS. What the requests that read give (R212, R213): encodings, lookups of the clip log, and the values of each
request in the order of its rule. -/

namespace Sys2Proof.Machine

set_option Elab.async false

/-! ### Encodings (R212) -/

/-- A field that may be absent, by the bytes of a field that is present. -/
def maybeBytes (k : Nat) (field : Option (List Byte)) : List Byte :=
  field.elim (0#8 :: List.replicate k 0#8) fun b => 1#8 :: b

/-- A list of entries, by the bytes of each. -/
def listedBytes (entries : List (List Byte)) : List Byte := u8 entries.length ++ entries.flatten

theorem encOpt_eq {α : Type} (k : Nat) (f : α → List Byte) (x : Option α) : encOpt k f x = maybeBytes k (x.map f) := by
  cases x <;> rfl

theorem encList_eq {α : Type} (f : α → List Byte) (l : List α) : encList f l = listedBytes (l.map f) := by
  simp [encList, listedBytes, List.flatMap]

/-! ### Lookups of the clip log (R175) -/

theorem clipAt_val (c : Fin 64) (s : State) : clipAt c.1 s = s.clips.recs.get c := by
  unfold clipAt
  rw [Fin.ofNat_val_eq_self]

/-- The record of a clip passes a test. -/
def clipPasses (ok : Clip → Bool) (s : State) (c : Fin 64) : Bool := (s.clips.recs.get c).any ok

theorem clipIds_eq (ok : Clip → Bool) (s : State) :
    clipIds ok s = ((List.finRange 64).filter (clipPasses ok s)).map Fin.val := by
  have same (c : Fin 64) : (match s.clips.recs.get c with
      | some k => ok k
      | none => false) = clipPasses ok s c := by
    unfold clipPasses
    cases s.clips.recs.get c <;> rfl
  unfold clipIds
  exact congrArg (fun f => ((List.finRange 64).filter f).map Fin.val) (funext same)

theorem clipPasses_iff {ok : Clip → Bool} {s : State} {c : Fin 64} :
    clipPasses ok s c = true ↔ ∃ k, s.clips.recs.get c = some k ∧ ok k = true := by
  simp [clipPasses, Option.any_eq_true]

theorem mem_clipIds {ok : Clip → Bool} {s : State} {i : Nat} :
    i ∈ clipIds ok s ↔ ∃ c : Fin 64, c.1 = i ∧ ∃ k, s.clips.recs.get c = some k ∧ ok k = true := by
  rw [clipIds_eq]
  simp only [List.mem_map, List.mem_filter, List.mem_finRange, true_and, clipPasses_iff]
  exact ⟨fun ⟨c, h, e⟩ => ⟨c, e, h⟩, fun ⟨c, e, h⟩ => ⟨c, h, e⟩⟩

theorem clipIds_head? (ok : Clip → Bool) (s : State) :
    (clipIds ok s).head? = ((List.finRange 64).find? (clipPasses ok s)).map Fin.val := by
  rw [clipIds_eq, List.head?_map, List.head?_filter]

theorem clipIds_eq_nil {ok : Clip → Bool} {s : State} (h : ∀ c k, s.clips.recs.get c = some k → ok k = false) :
    clipIds ok s = [] := by
  refine List.eq_nil_iff_forall_not_mem.mpr fun i mem => ?_
  obtain ⟨c, -, k, found, passes⟩ := mem_clipIds.mp mem
  rw [h c k found] at passes
  cases passes

/-! ### Clips by age (R196; log entry 40) -/

theorem newer32_iff (a b : Nat) : newer32 a b = true ↔ 1 ≤ diff32 a b ∧ diff32 a b ≤ 2147483647 := by
  unfold newer32
  rw [Bool.and_eq_true]
  exact ⟨fun ⟨lower, upper⟩ => ⟨of_decide_eq_true lower, of_decide_eq_true upper⟩,
    fun ⟨lower, upper⟩ => ⟨decide_eq_true lower, decide_eq_true upper⟩⟩

theorem newer32_asymm {a b : Nat} (h : newer32 a b = true) : newer32 b a = false := by
  refine Bool.eq_false_iff.mpr fun back => ?_
  obtain ⟨lower, upper⟩ := (newer32_iff a b).mp h
  obtain ⟨lower', upper'⟩ := (newer32_iff b a).mp back
  unfold diff32 at lower upper lower' upper'
  omega

theorem newer32_irrefl (a : Nat) : newer32 a a = false :=
  Bool.eq_false_iff.mpr fun h => by simpa [h] using newer32_asymm h

/-- Each clip of a list is older than those that follow it. -/
def AgeOrdered (rows : List (Nat × Clip)) : Prop :=
  rows.Pairwise fun a b => newer32 b.2.creation a.2.creation = true

theorem insertByAge_oldest {x : Nat × Clip} {ys : List (Nat × Clip)}
    (older : ∀ y ∈ ys, newer32 y.2.creation x.2.creation = true) : insertByAge x ys = x :: ys := by
  cases ys with
  | nil => rfl
  | cons y ys =>
    have behind := newer32_asymm (older y List.mem_cons_self)
    unfold insertByAge
    rw [behind]
    rfl

theorem insertByAge_cons {x y : Nat × Clip} {ys : List (Nat × Clip)} (newer : newer32 x.2.creation y.2.creation = true) :
    insertByAge x (y :: ys) = y :: insertByAge x ys := by
  conv => lhs; unfold insertByAge
  rw [if_pos newer]

/-- A clip that is inserted into part of an ordered list takes its place of that list. -/
theorem insertByAge_filter {rows : List (Nat × Clip)} (ordered : AgeOrdered rows) {ok : Nat × Clip → Bool}
    {x : Nat × Clip} (mem : x ∈ rows) (fresh : ok x = false) :
    insertByAge x (rows.filter ok) = rows.filter fun y => ok y || decide (y = x) := by
  induction rows with
  | nil => cases mem
  | cons y ys ih =>
    obtain ⟨older, rest⟩ := List.pairwise_cons.mp ordered
    by_cases first : y = x
    · subst first
      have apart : ∀ z ∈ ys, z ≠ y := fun z later same => by
        have newer := older z later
        rw [same, newer32_irrefl] at newer
        cases newer
      have others : (ys.filter fun z => ok z || decide (z = y)) = ys.filter ok :=
        List.filter_congr fun z later => by simp [apart z later]
      rw [List.filter_cons_of_neg (by simp [fresh]), List.filter_cons_of_pos (by simp), others]
      exact insertByAge_oldest fun z kept => older z (List.mem_filter.mp kept).1
    · have later : x ∈ ys := (List.mem_cons.mp mem).resolve_left (Ne.symm first)
      have next := ih rest later
      cases passes : ok y with
      | true =>
        rw [List.filter_cons_of_pos passes, List.filter_cons_of_pos (by simp [passes]), insertByAge_cons (older x later), next]
      | false => rw [List.filter_cons_of_neg (by simp [passes]), List.filter_cons_of_neg (by simp [passes, first]), next]

/-- Clips that are inserted one by one stand as in the ordered list that holds them. -/
theorem foldr_insertByAge {rows l : List (Nat × Clip)} (ordered : AgeOrdered rows) (held : ∀ x ∈ l, x ∈ rows)
    (unique : l.Nodup) : l.foldr insertByAge [] = rows.filter fun y => decide (y ∈ l) := by
  induction l with
  | nil => simp
  | cons x xs ih =>
    obtain ⟨fresh, rest⟩ := List.nodup_cons.mp unique
    rw [List.foldr_cons, ih (fun y mem => held y (List.mem_cons_of_mem x mem)) rest,
      insertByAge_filter ordered (held x List.mem_cons_self) (decide_eq_false fresh)]
    exact List.filter_congr fun y _ => by simp [Bool.or_comm]

/-- The clips of the log in ascending id, with their records. -/
def clipRows (s : State) : List (Nat × Clip) :=
  (List.finRange 64).filterMap fun c => (s.clips.recs.get c).map fun k => (c.1, k)

theorem clipsByAge_eq_foldr (s : State) : clipsByAge s = (clipRows s).foldr insertByAge [] := rfl

theorem mem_clipRows {s : State} {x : Nat × Clip} :
    x ∈ clipRows s ↔ ∃ c : Fin 64, c.1 = x.1 ∧ s.clips.recs.get c = some x.2 := by
  obtain ⟨i, k⟩ := x
  simp [clipRows, Prod.ext_iff, and_comm]

theorem clipRows_nodup (s : State) : (clipRows s).Nodup := by
  refine (List.nodup_finRange 64).filterMap fun c d x hc hd => ?_
  obtain ⟨k, -, rfl⟩ := Option.map_eq_some_iff.mp hc
  obtain ⟨m, -, same⟩ := Option.map_eq_some_iff.mp hd
  exact (Fin.ext (congrArg Prod.fst same)).symm

/-- A list of the clips that are not FREE in which each is older than those that follow it is the list by age. -/
theorem clipsByAge_eq {s : State} {rows : List (Nat × Clip)} (ordered : AgeOrdered rows)
    (all : ∀ x, x ∈ rows ↔ x ∈ clipRows s) : clipsByAge s = rows := by
  rw [clipsByAge_eq_foldr, foldr_insertByAge ordered (fun x mem => (all x).mpr mem) (clipRows_nodup s)]
  exact List.filter_eq_self.mpr fun x mem => decide_eq_true ((all x).mp mem)

/-! ### Segments by number (R105, R108) -/

/-- The numbers of a chain stand among those of all segments, and every chain apart from the others (R105). -/
theorem numbers_nodup {s : State} (conserved : SegmentsConserved s) :
    (chainNumbers (s.chain 0) ++ chainNumbers (s.chain 1) ++ chainNumbers (s.chain 2)
      ++ chainNumbers (s.chain 3)).Nodup :=
  (List.nodup_append.mp (conserved.nodup_iff.mpr List.nodup_range)).2.1

/-- The segments of the four chains with their programs. -/
def heldSegments (s : State) : List (Fin 4 × Segment) :=
  (List.finRange 4).flatMap fun p => (s.chain p).segs.map fun g => (p, g)

theorem heldSegments_numbers (s : State) : (heldSegments s).map (fun x => x.2.number) =
    chainNumbers (s.chain 0) ++ chainNumbers (s.chain 1) ++ chainNumbers (s.chain 2) ++ chainNumbers (s.chain 3) := by
  simp [heldSegments, List.finRange_succ, chainNumbers, Function.comp_def]

theorem mem_heldSegments {s : State} {p : Fin 4} {g : Segment} : (p, g) ∈ heldSegments s ↔ g ∈ (s.chain p).segs := by
  simp [heldSegments]

/-- Of a list whose keys are distinct, the search for a key finds the element that has it. -/
theorem find?_of_key {α : Type} {key : α → Nat} {l : List α} {x : α} (mem : x ∈ l) (unique : (l.map key).Nodup) :
    l.find? (fun y => key y == key x) = some x := by
  induction l with
  | nil => cases mem
  | cons y ys ih =>
    obtain ⟨fresh, rest⟩ := List.nodup_cons.mp unique
    rcases List.mem_cons.mp mem with rfl | later
    · exact List.find?_cons_of_pos (by simp)
    · have other : key y ≠ key x := fun same => fresh (same ▸ List.mem_map_of_mem later)
      rw [List.find?_cons_of_neg (by simpa using other)]
      exact ih later rest

theorem segmentBody_held {s : State} {p : Fin 4} {g : Segment} (conserved : SegmentsConserved s)
    (mem : g ∈ (s.chain p).segs) (position : Nat) : segmentBody g.number position s = heldSegmentBody p g position := by
  have found : (heldSegments s).find? (fun x => x.2.number == g.number) = some (p, g) :=
    find?_of_key (key := fun x => x.2.number) (mem_heldSegments.mpr mem)
      (by rw [heldSegments_numbers]; exact numbers_nodup conserved)
  unfold segmentBody
  rw [show ((List.finRange 4).flatMap fun p => (s.chain p).segs.map fun g => (p, g)) = heldSegments s from rfl, found]

theorem segmentBody_free {s : State} {n : Nat} (absent : ∀ p, ∀ g ∈ (s.chain p).segs, g.number ≠ n) (position : Nat) :
    segmentBody n position s = freeSegmentBody n := by
  have found : (heldSegments s).find? (fun x => x.2.number == n) = none :=
    List.find?_eq_none.mpr fun ⟨p, g⟩ mem => by simpa using absent p g (mem_heldSegments.mp mem)
  unfold segmentBody
  rw [show ((List.finRange 4).flatMap fun p => (s.chain p).segs.map fun g => (p, g)) = heldSegments s from rfl, found]

theorem number_le {s : State} {p : Fin 4} {g : Segment} (conserved : SegmentsConserved s)
    (mem : g ∈ (s.chain p).segs) : g.number ≤ 4095 := by
  have listed : g.number ∈ allNumbers s := by
    refine List.mem_append_right _ ?_
    rw [← heldSegments_numbers]
    exact List.mem_map_of_mem (f := fun x : Fin 4 × Segment => x.2.number) (mem_heldSegments.mpr mem)
  have below := List.mem_range.mp (conserved.mem_iff.mp listed)
  omega

/-! ### Replies of the requests that read (R204, R213) -/

section
variable {c : Instr} {tag : Byte} {r : Request} {given body : List Byte} {s : State}

theorem reads_checked {checks : List Bool} (free : Free s) (taken : exec c s = .next (submit tag r s))
    (performs : perform r (counted s) = atOnce (checked checks (counted s) (doneWith given, counted s)))
    (fields : ∀ ok ∈ checks, ok = true) (values : given = body) :
    exec c s = .next (answered tag r.kind .done 0 0 body s) :=
  answers_checked (a := doneWith body) free taken performs (firstFail_of_all fields) (by rw [values])

theorem reads_always (free : Free s) (taken : exec c s = .next (submit tag r s))
    (performs : perform r (counted s) = atOnce (doneWith given, counted s)) (values : given = body) :
    exec c s = .next (answered tag r.kind .done 0 0 body s) :=
  exec_answered (a := doneWith body) taken free (values ▸ performs)

theorem reads_refused {check : Bool} {act : Answer × State} (free : Free s)
    (taken : exec c s = .next (submit tag r s))
    (performs : perform r (counted s) = atOnce (checked [check] (counted s) act)) (fails : check = false) :
    exec c s = .next (answered tag r.kind .outOfRange 1 0 [] s) :=
  answers_outOfRange (k := 1) free taken performs (by rw [fails]; rfl) (by decide)

end

/-! ### The values of each request -/

theorem refState_code (r : RefState) : r.code = if r = .freeRun then 0 else 1 := by cases r <;> rfl

theorem segState_eq (g : Segment) : segState g = if g.isSealed = true then 2 else 1 := rfl

theorem hold_eq (g : Segment) : hold g =
    (if g.writer = true then 1 else 0) + (if g.pendingSend = true then 1 else 0) + g.refs
      + (if g.retention = true then 1 else 0) + g.pins := by
  unfold hold
  cases g.writer <;> cases g.pendingSend <;> cases g.retention <;> rfl

theorem encRecord_eq (r : ProgramRecord) : encRecord r =
    u8 r.port ++ u16 r.width ++ u16 r.height ++ u8 r.table ++ twos 1 r.chromaOffset ++ u8 r.qmin ++ u8 r.qstart
      ++ u8 r.qmax ++ u16 r.buffer ++ u8 r.ceiling ++ u32 r.minRate ++ u32 r.maxRate ++ u8 r.weight
      ++ listedBytes (r.buses.map u8) ++ u8 r.soundWidth ++ u16 r.retention ++ u8 r.hold ++ u16 r.slateY
      ++ u16 r.slateCb ++ u16 r.slateCr := by
  unfold encRecord
  rw [encList_eq]

theorem pendingBytes_eq (p : Fin 4) (s : State) :
    pendingBytes p s = (s.live p).cursor.elim 0 fun x => (s.prog p).streamOffset - x.2 := by
  unfold pendingBytes
  cases (s.live p).cursor <;> rfl

end Sys2Proof.Machine
end

section
/-! PROOFS. The statement of the requests that read (O60), request by request. -/

namespace Sys2Proof.Machine

set_option Elab.async false

theorem programBody_eq (p : Fin 4) (s : State) : programBody p s =
    u8 (s.prog p).st.code ++ flag (s.prog p).record.isSome ++ listedBytes ((s.prog p).record.toList.map encRecord)
      ++ u8 (s.prog p).run ++ u48 (s.prog p).streamOffset ++ u8 (s.prog p).accumulator ++ flag (s.prog p).writingEnded
      ++ intakeBody (s.intake p) ++ coderBody (s.coder p) ++ loopBody (s.alloc.shares.get p) (s.loop p)
      ++ framerBody (s.framer p) ++ chainBody (s.chain p) ++ liveBody (pendingBytes p s) (s.live p) := by
  unfold programBody
  dsimp only
  rw [encList_eq]

theorem intakeBody_eq (i : Intake) : intakeBody i =
    u16 i.missing ++ u16 i.repeats ++ u16 i.slates ++ u16 i.shorts ++ flag i.codedInRun
      ++ maybeBytes 4 (i.mismatch.map encFormat) := by
  unfold intakeBody
  rw [encOpt_eq]

theorem framerDepth_eq (f : Framer) : framerDepth f = (f.buffers.headD []).length := by
  unfold framerDepth
  cases f.buffers <;> rfl

theorem framerBody_eq (f : Framer) : framerBody f =
    u16 f.holds ++ u16 f.slips
      ++ maybeBytes 2 ((if f.filling then some (f.buffers.headD []).length else none).map u16) := by
  unfold framerBody
  rw [encOpt_eq, framerDepth_eq]

theorem chainBody_eq (c : Chain) : chainBody c = u16 c.cuts ++ maybeBytes 4 (c.cut.map u32) := by
  unfold chainBody
  rw [encOpt_eq]

theorem liveBody_eq (pending : Nat) (v : Live) : liveBody pending v =
    maybeBytes 7 (v.cursor.map fun x => u8 x.1 ++ u48 x.2) ++ u48 pending ++ u32 v.packets ++ u16 v.skips
      ++ u48 v.skippedBytes := by
  unfold liveBody
  rw [encOpt_eq]

/-- A table's result, by its kind (R53; log entry 10). -/
theorem encResult_eq (x : Option CheckResult) : encOpt 5 encResult x =
    match x with
    | none => [0, 0, 0, 0, 0, 0]
    | some .pass => [1, 0, 0, 0, 0, 0]
    | some (.outOfRange i) => [1, 1] ++ u16 i ++ [0, 0]
    | some (.ambiguous i j) => [1, 2] ++ u16 i ++ u16 j := by
  match x with
  | none => rfl
  | some .pass => rfl
  | some (.outOfRange i) => rfl
  | some (.ambiguous i j) => rfl

theorem programsNaming_eq (table : Nat) (s : State) :
    programsNaming table s = (List.finRange 4).filter fun p => (s.prog p).record.any fun r => r.table == table := by
  unfold programsNaming
  congr 1
  funext p
  cases (s.prog p).record <;> rfl

theorem measured_eq (x : Option Measured) : encOpt 4 encMeasured x =
    match x with
    | none => [0, 0, 0, 0, 0]
    | some .irregular => [1, 0, 0, 0, 0]
    | some (.regular f) => maybeBytes 4 ((some f).map encFormat) := by
  match x with
  | none => rfl
  | some .irregular => rfl
  | some (.regular f) => rfl

theorem flatMap_finRange_four {α : Type} (f : Fin 4 → List α) :
    (List.finRange 4).flatMap f = f 0 ++ (f 1 ++ (f 2 ++ f 3)) := by
  simp [List.finRange_succ]

theorem tableBody_eq (j : Fin 2) (s : State) : tableBody j s =
    u8 (s.table j).st.code ++ encOpt 5 encResult (s.table j).result
      ++ listedBytes (if (s.table j).st = .ready then (s.table j).entries.map fun e => u8 e.length ++ u16 e.value else [])
      ++ listedBytes (((List.finRange 4).filter fun p => (s.prog p).record.any fun r => r.table == j.1).map
        fun p => u8 p.1 ++ flag ((s.prog p).st == .idle)) := by
  unfold tableBody
  dsimp only
  rw [encList_eq, encList_eq, programsNaming_eq]
  simp only [beq_iff_eq]
  split <;> rfl

theorem storeBody_eq (s : State) : storeBody s =
    u16 s.store.freeList.length ++ maybeBytes 2 (s.store.freeList.head?.map u16)
      ++ maybeBytes 2 (s.store.freeList.getLast?.map u16)
      ++ u16 ((allSegs s).filter fun g => !g.isSealed).length ++ u16 ((allSegs s).filter fun g => g.isSealed).length
      ++ u16 s.store.reserve ++ flag s.store.pressure
      ++ ((List.finRange 4).flatMap fun p =>
        u16 (s.chain p).segs.length ++ u8 (s.chain p).openClips ++ u32 (s.chain p).takes
          ++ u16 ((s.chain p).segs.filter fun g => g.retention).length
          ++ u16 ((s.chain p).segs.filter fun g => 0 < g.pins).length)
      ++ u32 s.store.takes ++ u32 s.store.freed ++ u32 s.store.yields ++ u16 s.store.refused := by
  unfold storeBody
  dsimp only
  simp only [encOpt_eq, List.countP_eq_length_filter]
  rfl

theorem freeSegmentBody_eq (n : Nat) : freeSegmentBody n = u16 n ++ List.replicate 37 0 := by
  unfold freeSegmentBody
  simp only [List.append_assoc]
  exact congrArg (u16 n ++ ·) (by decide)

theorem heldSegmentBody_eq (p : Fin 4) (g : Segment) (position : Nat) : heldSegmentBody p g position =
    u16 g.number ++ u8 (segState g) ++ maybeBytes 1 ((some p.1).map u8) ++ maybeBytes 1 ((some g.run).map u8)
      ++ maybeBytes 6 ((some g.first).map u48) ++ u32 g.fill ++ maybeBytes 4 (g.firstPicture.map u32)
      ++ maybeBytes 4 (g.lastPicture.map u32) ++ flag g.writer ++ flag g.pendingSend ++ u16 g.refs ++ flag g.retention
      ++ u8 g.pins ++ u16 (hold g) ++ u16 g.marks.length
      ++ listedBytes (((g.marks.drop position).take 32).map encMark) := by
  unfold heldSegmentBody
  simp only [encOpt_eq, encList_eq]
  rfl

theorem chainListBody_eq (c : Chain) (position : Nat) : chainListBody c position =
    u16 c.segs.length ++ listedBytes (((c.segs.drop position).take 32).map fun g =>
      u16 g.number ++ u8 (segState g) ++ u8 g.run ++ u48 g.first ++ u32 g.fill ++ maybeBytes 4 (g.firstPicture.map u32)
        ++ maybeBytes 4 (g.lastPicture.map u32) ++ u16 (hold g)) := by
  unfold chainListBody
  simp only [encOpt_eq, encList_eq]
  rfl

theorem pathRate_by_state (p : Path) : pathRate p =
    if p.st = .probing then p.probeRate else if p.st = .up ∨ p.st = .degraded then p.estimate else 0 := by
  unfold pathRate
  cases p.st <;> rfl

theorem windowBody_eq (s : State) : windowBody s =
    u32 s.sched.nextSend ++ u16 s.sched.deadline ++ u16 s.sched.guardMs
      ++ u16 (s.sched.window.filter fun e => e.isLive).length ++ u16 (s.sched.window.filter fun e => !e.isLive).length
      ++ u16 (s.sched.window.filter fun e => e.queued).length ++ maybeBytes 4 ((s.sched.window.head?.map Entry.send).map u32)
      ++ maybeBytes 4 ((s.sched.window.getLast?.map Entry.send).map u32) ++ listedBytes (s.sched.labelQueue.map u8)
      ++ maybeBytes 13 (s.sched.clipCursor.map fun k => u8 k.clip ++ u48 k.next ++ u48 k.out) ++ u32 s.sched.bucket
      ++ u8 s.sched.lastServed.1 ++ u32 s.sched.acked ++ u32 s.sched.resent ++ u32 s.sched.lateAcks
      ++ u32 s.sched.displaced ++ u32 s.sched.byAge ++ u32 s.sched.byLoss ++ u32 s.sched.byDisplacement
      ++ u32 (s.sched.byAge + s.sched.byLoss + s.sched.byDisplacement) ++ u16 s.sched.abandoned.length := by
  unfold windowBody
  dsimp only
  simp only [encOpt_eq, encList_eq]
  rfl

theorem clipFields_eq (k : Clip) : clipFields k =
    u8 k.program.1 ++ u8 k.run ++ u32 k.creation ++ u8 k.source.code
      ++ u32 k.inPicture ++ encTimecode k.inTimecode ++ u48 k.inOffset ++ maybeBytes 4 (k.outPicture.map u32)
      ++ maybeBytes 4 (k.outTimecode.map encTimecode) ++ maybeBytes 6 (k.outOffset.map u48)
      ++ maybeBytes 4 (k.requestedOut.map u32)
      ++ flag k.shipAtClose ++ u8 k.text.length ++ k.text ++ u8 k.tags.length ++ k.tags ++ u8 k.rating
      ++ flag k.yieldable ++ flag k.trimmed ++ u8 k.revision ++ u8 k.label.code ++ maybeBytes 6 (k.shipCursor.map u48)
      ++ if k.st = .opened ∨ k.st = .closing then [1] ++ u16 k.pinned.length else [0] := by
  have pins : encList u16 (if (k.st == .opened || k.st == .closing) = true then [k.pinned.length] else []) =
      if k.st = .opened ∨ k.st = .closing then [1] ++ u16 k.pinned.length else [0] := by
    simp only [Bool.or_eq_true, beq_iff_eq]
    split
    · simp [encList]
      rfl
    · rfl
  have text (b : List Byte) : encList (fun b => [b]) b = u8 b.length ++ b := by simp [encList]
  unfold clipFields
  rw [pins, text, text]
  simp only [encOpt_eq, List.append_assoc]

/-- The first clip, by id, that passes a test. -/
theorem clipIds_first (ok : Clip → Bool) (s : State) : (clipIds ok s).head? =
    ((List.finRange 64).find? fun c => (s.clips.recs.get c).any ok).map Fin.val := clipIds_head? ok s

theorem clipListHead_eq (s : State) : clipListHead s =
    let first := fun ok : Clip → Bool => (List.finRange 64).find? fun c => (s.clips.recs.get c).any ok
    listedBytes (s.clips.shipQueue.map u8)
      ++ maybeBytes 7 ((first fun k => k.st == .shipping).map fun c =>
        u8 c.1 ++ u48 (((s.clips.recs.get c).bind Clip.shipCursor).getD 0))
      ++ u32 s.clips.nextCreation
      ++ ((List.finRange 4).flatMap fun p =>
        maybeBytes 1 (((first fun k => k.program == p && k.st == .opened).map Fin.val).map u8)
          ++ maybeBytes 4 ((s.clips.lastWritten.get p).map u32))
      ++ ((List.finRange 2).flatMap fun m =>
        maybeBytes 1 ((s.line m).binding.map u8) ++ u16 (s.line m).preRoll ++ flag (s.line m).yieldable
          ++ maybeBytes 4 ((s.line m).lastPress.map u32) ++ u16 (s.line m).bounces ++ u16 (s.line m).refused
          ++ u16 (s.line m).presses)
      ++ u32 s.clips.created ++ u16 s.clips.trims ++ u32 s.clips.confirmed ++ u32 s.clips.shippedCount
      ++ u32 s.clips.shipQueued ++ u32 s.clips.homeAccepted ++ u16 s.clips.homeRefused ++ u32 s.clips.released
      ++ u32 s.clips.yielded := by
  unfold clipListHead shippingClip openClipOf
  dsimp only
  simp only [encOpt_eq, encList_eq, clipIds_first, Option.map_map, Function.comp_def, clipAt_val]

theorem clipRow_eq (i : Nat) (k : Clip) : clipRow i k =
    u8 i ++ u32 k.creation ++ u8 k.st.code ++ u8 k.program.1 ++ u8 k.run ++ u8 k.source.code ++ u32 k.inPicture
      ++ maybeBytes 4 (k.outPicture.map u32) ++ u8 k.revision ++ u8 k.label.code ++ flag k.yieldable := by
  unfold clipRow
  rw [encOpt_eq]

theorem clipListBody_eq {s : State} {rows : List (Fin 64 × Clip)}
    (all : ∀ c k, (c, k) ∈ rows ↔ s.clips.recs.get c = some k)
    (ordered : rows.Pairwise fun a b => newer32 b.2.creation a.2.creation = true) :
    clipListBody s =
      clipListHead s ++ u8 (min rows.length ((1024 - (5 + (clipListHead s).length + 2)) / 21))
        ++ u8 (rows.length - min rows.length ((1024 - (5 + (clipListHead s).length + 2)) / 21))
        ++ (rows.take (min rows.length ((1024 - (5 + (clipListHead s).length + 2)) / 21))).flatMap
          fun a => clipRow a.1.1 a.2 := by
  have byAge : clipsByAge s = rows.map fun a => (a.1.1, a.2) := by
    refine clipsByAge_eq (List.pairwise_map.mpr ordered) fun x => ?_
    obtain ⟨i, k⟩ := x
    simp only [mem_clipRows, List.mem_map, Prod.mk.injEq, Prod.exists]
    exact ⟨fun ⟨c, m, mem, hc, hm⟩ => ⟨c, hc, hm ▸ (all c m).mp mem⟩, fun ⟨c, hc, found⟩ => ⟨c, k, (all c k).mpr found, hc, rfl⟩⟩
  unfold clipListBody
  dsimp only
  rw [byAge, List.length_map, ← List.map_take, List.flatMap_map]

/-! ### RESTART, which is answered with DONE (R210) -/

theorem exec_restart_answered (tag : Byte) {s : State} (free : Free s) :
    exec (.restart tag) s = .next (replied tag 50 done (restartAll (counted s))) := by
  rw [exec_restart, submit_answer tag .restart s (restartAll (counted s)) done free rfl]
  rfl

theorem replied_uplink (tag kind : Byte) (a : Answer) (t : State) : (replied tag kind a t).uplink = t.uplink := rfl

theorem listedBytes_single (b : List Byte) : listedBytes [b] = [1] ++ b := by
  simp [listedBytes]
  rfl

/-- The notice that a link makes when it becomes ready (R209, R211). -/
theorem becomeReady_notices {s : State} (off : s.link.ready = false) (room : s.link.notices.length < 32) :
    becomeReady s = { s with
      link := { s.link with
        ready := true, noticeNumber := (s.link.noticeNumber + 1) % 2 ^ 16
        notices := s.link.notices ++
          [⟨(s.link.noticeNumber + 1) % 2 ^ 16, 255, s.tb.picture, s.tb.pacing, identity⟩] } } := by
  unfold becomeReady makeNotice
  rw [off]
  simp only [State.modLink, Config.maxNotices, room, if_true, Bool.false_eq_true, if_false]
  rfl

/-- Settles O60. -/
theorem readsChangeOnlyTheLink : Obligations.ReadsChangeOnlyTheLink := by
  intro tag s free gives refuses listed maybe maybe8 maybe16 maybe32 maybe48 format heldBy stored u names
  have program (p : Fin 4) : ∀ ok ∈ [isProgram p.1], ok = true := by simp [isProgram]; omega
  have port (p : Fin 4) : ∀ ok ∈ [decide (p.1 ≤ 3)], ok = true := by simp; omega
  refine ⟨?_, fun p => ?_, fun i => ?_, fun j => ?_, ?_, fun i => ?_, ?_, fun p position conserved g mem => ?_,
    fun n position small absent => ?_, fun p position => ?_, fun l => ?_, ?_, ⟨rfl, rfl, rfl⟩, ?_, ?_, fun c => ?_,
    ?_, ?_, fun r off room => ?_, fun n position => ?_⟩
  · refine reads_always free (exec_readTimebase tag s) rfl ?_
    show timebaseBody s.tb = _
    unfold timebaseBody
    rw [refState_code]
  · refine reads_checked free (exec_programStatus tag p.1 s) rfl (program p) ?_
    show programBody (idx4 p.1) (counted s) = _
    rw [idx4_val, programBody_eq, intakeBody_eq, framerBody_eq, chainBody_eq, liveBody_eq, pendingBytes_eq]
    rw [funext encRecord_eq]
    simp only [coderBody, loopBody, List.append_assoc]
    rfl
  · refine reads_checked free (exec_readPicturePort tag i.1 s) rfl (port i) ?_
    rw [idx4_val]
    show portBody (s.port i) = _
    unfold portBody
    rw [measured_eq, encOpt_eq, encOpt_eq, encOpt_eq]
    rfl
  · refine reads_checked free (exec_readTable tag j.1 s) rfl (by simp; omega) ?_
    rw [show Fin.ofNat 2 j.1 = j from Fin.ofNat_val_eq_self j]
    show tableBody j s = _
    rw [tableBody_eq, encResult_eq]
    rfl
  · refine reads_always free (exec_readBudget tag s) rfl ?_
    show budgetBody s.alloc = _
    unfold budgetBody
    rw [encOpt_eq]
    simp only [flatMap_finRange_four, List.append_assoc]
    rfl
  · refine reads_checked free (exec_readSlotPort tag i.1 s) rfl (port i) ?_
    rw [idx4_val]
    show slotBody (s.slot i) = _
    unfold slotBody
    rw [encOpt_eq]
    rfl
  · refine reads_always free (exec_readStore tag s) rfl ?_
    show storeBody s = _
    rw [storeBody_eq]
    rfl
  · refine reads_checked free (exec_readSegment tag g.number position s) rfl
      (by simpa using number_le conserved mem) ?_
    show segmentBody g.number position s = _
    rw [segmentBody_held conserved mem, heldSegmentBody_eq, segState_eq, hold_eq]
    rfl
  · refine reads_checked free (exec_readSegment tag n position s) rfl (by simpa using small) ?_
    show segmentBody n position s = _
    rw [segmentBody_free absent, freeSegmentBody_eq]
  · refine reads_checked free (exec_readChain tag p.1 position s) rfl (program p) ?_
    rw [idx4_val]
    show chainListBody (s.chain p) position = _
    rw [chainListBody_eq]
    simp only [segState_eq, hold_eq]
    rfl
  · refine reads_checked free (exec_readPath tag l.1 s) rfl (by simp; omega) ?_
    rw [show idx6 l.1 = l from Fin.ofNat_val_eq_self l]
    show pathBody (s.path l) = _
    unfold pathBody creditCap
    rw [pathRate_by_state]
  · refine reads_always free (exec_readUplink tag s) rfl ?_
    show uplinkBody s = _
    unfold uplinkBody
    rw [encOpt_eq]
    rfl
  · have kept : (restartAll (counted s)).uplink = (counted s).uplink := (restartAll_inner (counted s)).same .uplink (by decide)
    exact ⟨_, exec_restart_answered tag free, (replied_uplink ..).trans kept⟩
  · refine reads_always free (exec_readWindow tag s) rfl ?_
    show windowBody s = _
    rw [windowBody_eq]
    rfl
  · have clip : ∀ ok ∈ [isClipId c.1], ok = true := by simp [isClipId]; omega
    refine ⟨fun none' => ?_, fun k found => ?_⟩
    · refine reads_checked free (exec_readClip tag c.1 s) rfl clip ?_
      show clipReadBody c.1 s = _
      unfold clipReadBody
      rw [clipAt_val, none']
      rfl
    · refine reads_checked free (exec_readClip tag c.1 s) rfl clip ?_
      show clipReadBody c.1 s = _
      unfold clipReadBody
      rw [clipAt_val, found]
      simp only [Option.toList_some, encList_eq, List.map_cons, List.map_nil, listedBytes_single, clipFields_eq,
        List.append_assoc]
      rfl
  · intro x first head rows all ordered given
    refine reads_always free (exec_listClips tag s) rfl ?_
    show clipListBody s = _
    have leads : clipListHead s = head := clipListHead_eq s
    rw [clipListBody_eq all ordered, leads]
    simp only [clipRow_eq]
    rfl
  · exact reads_always free (exec_identify tag s) rfl (by decide)
  · refine ⟨_, exec_linkReady r, ?_⟩
    have given : identity = names := by decide
    rw [becomeReady_notices off room, given]
  · refine ⟨fun outside => ⟨?_, ?_, ?_, ?_⟩, fun outside => ?_, fun outside => ?_, fun outside => ?_, fun outside => ?_⟩
    · exact reads_refused free (exec_programStatus tag n s) rfl ((isProgram_eq_false n).mpr outside)
    · exact reads_refused free (exec_readPicturePort tag n s) rfl ((le_eq_false n 3).mpr outside)
    · exact reads_refused free (exec_readSlotPort tag n s) rfl ((le_eq_false n 3).mpr outside)
    · exact reads_refused free (exec_readChain tag n position s) rfl ((isProgram_eq_false n).mpr outside)
    · exact reads_refused free (exec_readTable tag n s) rfl ((le_eq_false n 1).mpr outside)
    · exact reads_refused free (exec_readSegment tag n position s) rfl ((le_eq_false n 4095).mpr outside)
    · exact reads_refused free (exec_readPath tag n s) rfl ((le_eq_false n 5).mpr outside)
    · exact reads_refused free (exec_readClip tag n s) rfl ((le_eq_false n 63).mpr outside)

end Sys2Proof.Machine
end

section
/-! PROOFS. Request bodies (R212): what a field's bytes read back as, and with it the body of every request. -/

namespace Sys2Proof.Machine

set_option Elab.async false

/-! ### Numbers and their bytes (R212) -/

theorem be_length (k n : Nat) : (be k n).length = k := Laws.be_length k n

theorem fromBe_be (k n : Nat) : fromBe (be k n) = n % 256 ^ k := by
  induction k with
  | zero => simp [be, fromBe, Nat.mod_one]
  | succ k ih =>
    have top : (BitVec.ofNat 8 (n / 256 ^ k)).toNat = n / 256 ^ k % 256 := by simp
    have split : n % 256 ^ (k + 1) = n % 256 ^ k + 256 ^ k * (n / 256 ^ k % 256) := by
      rw [Nat.pow_succ, Nat.mod_mul]
    rw [be, fromBe, top, be_length, ih, split, Nat.mul_comm, Nat.add_comm]

/-- A number that fits its bytes is read back, and the bytes after it are left. -/
theorem rd_be {k n : Nat} (fits : n < 256 ^ k) (rest : List Byte) : rd k (be k n ++ rest) = some (n, rest) := by
  have length := be_length k n
  unfold rd
  rw [if_neg (by simp [length])]
  simp [List.take_left' length, List.drop_left' length, fromBe_be, Nat.mod_eq_of_lt fits]

theorem rd_be_append {k n : Nat} (fits : n < 256 ^ k) (more rest : List Byte) :
    rd k (be k n ++ more ++ rest) = some (n, more ++ rest) := by
  rw [List.append_assoc, rd_be fits]

theorem rdBytes_append (bytes rest : List Byte) : rdBytes bytes.length (bytes ++ rest) = some (bytes, rest) := by
  unfold rdBytes
  rw [if_neg (by simp)]
  simp

theorem flatMap_single (l : List Byte) : (l.flatMap fun b => [b]) = l := by simp

/-- A list of bytes is read back with its count. -/
theorem rdList_encList {bytes : List Byte} (fits : bytes.length < 256) (rest : List Byte) :
    rdList (encList (fun b => [b]) bytes ++ rest) = some (bytes, rest) := by
  unfold rdList encList
  rw [flatMap_single, List.append_assoc, show u8 bytes.length = be 1 bytes.length from rfl, rd_be (by simpa using fits)]
  exact rdBytes_append bytes rest

theorem flatMap_u8 (l : List Nat) : l.flatMap u8 = l.map (BitVec.ofNat 8) := by
  induction l with
  | nil => rfl
  | cons n l ih =>
    have single : u8 n = [BitVec.ofNat 8 n] := by simp [u8, be]
    simp [ih, single]

/-- A list of small numbers is read back as bytes. -/
theorem rdList_encList_u8 {l : List Nat} (fits : l.length < 256) (rest : List Byte) :
    rdList (encList u8 l ++ rest) = some (l.map (BitVec.ofNat 8), rest) := by
  have bytes : encList u8 l = encList (fun b => [b]) (l.map (BitVec.ofNat 8)) := by
    unfold encList
    rw [flatMap_single, flatMap_u8, List.length_map]
  rw [bytes]
  exact rdList_encList (by simpa using fits) rest

theorem map_toNat_ofNat {l : List Nat} (fits : ∀ n ∈ l, n < 256) : (l.map (BitVec.ofNat 8)).map BitVec.toNat = l := by
  rw [List.map_map]
  exact (List.map_congr_left fun n mem => by simp [Nat.mod_eq_of_lt (fits n mem)]).trans (List.map_id l)

/-- A two's complement byte reads back as its number. -/
theorem signedOf_twos {x : Int} (lower : -128 ≤ x) (upper : x < 128) :
    signedOf 1 (x % ((256 ^ 1 : Nat) : Int)).toNat = x := by
  unfold signedOf
  split <;> omega

theorem rdEntries_body {es : List CodeEntry} (fits : ∀ e ∈ es, e.length < 256 ∧ e.value < 65536) (rest : List Byte) :
    rdEntries es.length ((es.flatMap fun e => u8 e.length ++ u16 e.value) ++ rest) = some (es, rest) := by
  induction es with
  | nil => rfl
  | cons e es ih =>
    obtain ⟨length, value⟩ := fits e List.mem_cons_self
    have next := ih fun f mem => fits f (List.mem_cons_of_mem e mem)
    simp only [List.length_cons, List.flatMap_cons, List.append_assoc, rdEntries]
    rw [show u8 e.length = be 1 e.length from rfl, rd_be length, Option.bind_some]
    dsimp only
    rw [show u16 e.value = be 2 e.value from rfl, rd_be value, Option.bind_some]
    dsimp only
    rw [next]
    rfl

/-! ### Bodies of numbers -/

section
variable {a b c d e g x1 x2 x3 x4 x5 x6 : Nat} (h1 : x1 < 256 ^ a) (h2 : x2 < 256 ^ b) (h3 : x3 < 256 ^ c)
  (h4 : x4 < 256 ^ d) (h5 : x5 < 256 ^ e) (h6 : x6 < 256 ^ g)
include h1

theorem read1_be (f : Nat → Request) (rest : List Byte) : read1 a f (be a x1 ++ rest) = some (f x1, rest) := by
  unfold read1
  rw [rd_be h1]
  rfl

include h2 in
theorem read2_be (f : Nat → Nat → Request) (rest : List Byte) :
    read2 a b f (be a x1 ++ (be b x2 ++ rest)) = some (f x1 x2, rest) := by
  unfold read2
  rw [rd_be h1]
  exact read1_be h2 (f x1) rest

include h2 h3 in
theorem read3_be (f : Nat → Nat → Nat → Request) (rest : List Byte) :
    read3 a b c f (be a x1 ++ (be b x2 ++ (be c x3 ++ rest))) = some (f x1 x2 x3, rest) := by
  unfold read3
  rw [rd_be h1]
  exact read2_be h2 h3 (f x1) rest

include h2 h3 h4 in
theorem read4_be (f : Nat → Nat → Nat → Nat → Request) (rest : List Byte) :
    read4 a b c d f (be a x1 ++ (be b x2 ++ (be c x3 ++ (be d x4 ++ rest)))) = some (f x1 x2 x3 x4, rest) := by
  unfold read4
  rw [rd_be h1]
  exact read3_be h2 h3 h4 (f x1) rest

include h2 h3 h4 h5 in
theorem read5_be (f : Nat → Nat → Nat → Nat → Nat → Request) (rest : List Byte) :
    read5 a b c d e f (be a x1 ++ (be b x2 ++ (be c x3 ++ (be d x4 ++ (be e x5 ++ rest))))) =
      some (f x1 x2 x3 x4 x5, rest) := by
  unfold read5
  rw [rd_be h1]
  exact read4_be h2 h3 h4 h5 (f x1) rest

include h2 h3 h4 h5 h6 in
theorem read6_be (f : Nat → Nat → Nat → Nat → Nat → Nat → Request) (rest : List Byte) :
    read6 a b c d e g f (be a x1 ++ (be b x2 ++ (be c x3 ++ (be d x4 ++ (be e x5 ++ (be g x6 ++ rest)))))) =
      some (f x1 x2 x3 x4 x5 x6, rest) := by
  unfold read6
  rw [rd_be h1]
  exact read5_be h2 h3 h4 h5 h6 (f x1) rest

end

/-- A kind and a body that its reader takes to the end spell a request. -/
theorem readRequest_of {kind : Byte} {body : List Byte} {r : Request} {f : Reading Request}
    (reads : readingOf kind.toNat = some f) (taken : f (body ++ []) = some (r, [])) : readRequest kind body = r := by
  rw [List.append_nil] at taken
  unfold readRequest
  rw [reads]
  simp [taken, whole]

/-! ### The body of every request -/

/-- A record's fields are read back one by one (R10, R212). -/
theorem readConfigure_body {program : Nat} {r : ProgramRecord} (number : program < 256) (fits : r.wf = true)
    (rest : List Byte) :
    readConfigure ((Request.configureProgram program r).body ++ rest) = some (.configureProgram program r, rest) := by
  simp only [ProgramRecord.wf, fits8, fits16, fits32, fitsSigned8, fitsList, Bool.and_eq_true, decide_eq_true_eq,
    List.all_eq_true] at fits
  obtain ⟨⟨⟨⟨⟨⟨⟨⟨⟨⟨⟨⟨⟨⟨⟨⟨⟨⟨⟨⟨port, width⟩, height⟩, table⟩, chromaLow, chromaHigh⟩, qmin⟩, qstart⟩, qmax⟩, buffer⟩, ceiling⟩,
    minRate⟩, maxRate⟩, weight⟩, listed⟩, buses⟩, soundWidth⟩, retention⟩, hold⟩, slateY⟩, slateCb⟩, slateCr⟩ := fits
  have chroma : (r.chromaOffset % ((256 ^ 1 : Nat) : Int)).toNat < 256 ^ 1 := by omega
  unfold readConfigure Request.body recordBody u8 u16 u32 twos
  dsimp only
  rw [rd_be_append (by exact number), Option.bind_some]
  dsimp only
  rw [rd_be_append (by exact port), Option.bind_some]
  dsimp only
  rw [rd_be_append (by exact width), Option.bind_some]
  dsimp only
  rw [rd_be_append (by exact height), Option.bind_some]
  dsimp only
  rw [rd_be_append (by exact table), Option.bind_some]
  dsimp only
  rw [rd_be_append chroma, Option.bind_some]
  dsimp only
  rw [rd_be_append (by exact qmin), Option.bind_some]
  dsimp only
  rw [rd_be_append (by exact qstart), Option.bind_some]
  dsimp only
  rw [rd_be_append (by exact qmax), Option.bind_some]
  dsimp only
  rw [rd_be_append (by exact buffer), Option.bind_some]
  dsimp only
  rw [rd_be_append (by exact ceiling), Option.bind_some]
  dsimp only
  rw [rd_be_append (by exact minRate), Option.bind_some]
  dsimp only
  rw [rd_be_append (by exact maxRate), Option.bind_some]
  dsimp only
  rw [rd_be_append (by exact weight), Option.bind_some]
  dsimp only
  rw [show (fun n => be 1 n) = u8 from rfl, List.append_assoc, rdList_encList_u8 listed, Option.bind_some]
  dsimp only [readRecordTail]
  simp only [List.append_assoc]
  rw [read6_be (by exact soundWidth) (by exact retention) (by exact hold) (by exact slateY) (by exact slateCb)
    (by exact slateCr), map_toNat_ofNat buses, signedOf_twos chromaLow chromaHigh]

theorem readTableLoad_body {table : Nat} {es : List CodeEntry} (letter : table < 256) (size : es.length = 130)
    (fits : ∀ e ∈ es, e.length < 256 ∧ e.value < 65536) (rest : List Byte) :
    readTableLoad ((Request.loadTable table es).body ++ rest) = some (.loadTable table es, rest) := by
  unfold readTableLoad Request.body
  rw [List.append_assoc, show u8 table = be 1 table from rfl, rd_be letter, Option.bind_some]
  dsimp only
  rw [← size, rdEntries_body fits]
  rfl

theorem readLabel_body {clip rating yieldable : Nat} {text tags : List Byte} (hclip : clip < 256)
    (htext : text.length < 256) (htags : tags.length < 256) (hrating : rating < 256) (hyield : yieldable < 256)
    (rest : List Byte) :
    readLabel ((Request.setLabel clip text tags rating yieldable).body ++ rest) =
      some (.setLabel clip text tags rating yieldable, rest) := by
  unfold readLabel Request.body
  rw [List.append_assoc, show u8 clip = be 1 clip from rfl, rd_be hclip, Option.bind_some]
  dsimp only
  rw [List.append_assoc, rdList_encList htext, Option.bind_some]
  dsimp only
  rw [List.append_assoc, rdList_encList htags, Option.bind_some]
  dsimp only [u8]
  rw [List.append_assoc, read2_be hrating hyield]

theorem readBindInput_body {input : Nat} {binding : Option (Nat × Nat)} (hinput : input < 256)
    (fits : ∀ b, binding = some b → b.1 < 256 ∧ b.2 < 256) (rest : List Byte) :
    readBindInput ((Request.bindInput input binding).body ++ rest) = some (.bindInput input binding, rest) := by
  unfold readBindInput
  cases binding with
  | none => exact read4_be (x2 := 0) (x3 := 0) (x4 := 0) hinput (by decide) (by decide) (by decide) _ rest
  | some b =>
    obtain ⟨port, slot⟩ := fits b rfl
    exact read4_be (x2 := 1) hinput (by decide) port slot _ rest

theorem readMarkLine_body {line preRoll yieldable : Nat} {binding : Option Nat} (hline : line < 256)
    (fits : ∀ b, binding = some b → b < 256) (hroll : preRoll < 65536) (hyield : yieldable < 256) (rest : List Byte) :
    readMarkLine ((Request.setMarkLine line binding preRoll yieldable).body ++ rest) =
      some (.setMarkLine line binding preRoll yieldable, rest) := by
  unfold readMarkLine
  cases binding with
  | none => exact read5_be (x2 := 0) (x3 := 0) hline (by decide) (by decide) hroll hyield _ rest
  | some b => exact read5_be (x2 := 1) hline (by decide) (fits b rfl) hroll hyield _ rest

theorem readRequest_unknown {kind : Byte} (h : isUnknownKind kind = true) (body : List Byte) :
    readRequest kind body = .unknownKind kind := by
  have absent : readingOf kind.toNat = none := by
    simp only [isUnknownKind, Bool.or_eq_true, beq_iff_eq, decide_eq_true_eq] at h
    rcases h with zero | above
    · rw [zero]
      rfl
    · obtain ⟨m, number⟩ := Nat.exists_eq_add_of_lt above
      rw [number, Nat.add_right_comm, Nat.add_comm]
      rfl
  unfold readRequest
  rw [absent]

/-- The body that a well-formed request command spells reads back as its request (R212). -/
theorem readRequest_body {c : Instr} {tag : Byte} {r : Request} (request : requestOf c = some (tag, r))
    (fits : c.wf = true) : readRequest r.kind r.body = r := by
  cases c <;> simp only [requestOf, reduceCtorEq, Option.some.injEq, Prod.mk.injEq] at request
  all_goals
    obtain ⟨rfl, rfl⟩ := request
    simp only [Instr.wf, fits8, fits16, fits32, fitsList, Bool.and_eq_true, decide_eq_true_eq] at fits
  case unknownKind kind => exact readRequest_unknown fits []
  case readTimebase | readBudget | readStore | readUplink | readWindow | listClips | identify | restart =>
    exact readRequest_of rfl rfl
  case start | stop | abort | programStatus | readPicturePort | readTable | enableSlotPort | disableSlotPort
      | readSlotPort | enablePath | disablePath | readPath | ship | cancelShip | release | readClip | setReserve | status
      | subscribe =>
    exact readRequest_of rfl (read1_be fits _ [])
  case setStation | selectTable | configureSlotPort | setMonitor | readMixer | setRetention | readSegment | readChain
      | setDelivery =>
    obtain ⟨one, two⟩ := fits
    exact readRequest_of rfl (read2_be one two _ [])
  case setBus | markOut =>
    obtain ⟨⟨one, two⟩, three⟩ := fits
    exact readRequest_of rfl (read3_be one two three _ [])
  case setRateLimits | setGain | markIn =>
    obtain ⟨⟨⟨one, two⟩, three⟩, four⟩ := fits
    exact readRequest_of rfl (read4_be one two three four _ [])
  case setSlate =>
    obtain ⟨⟨⟨⟨one, two⟩, three⟩, four⟩, five⟩ := fits
    exact readRequest_of rfl (read5_be one two three four five _ [])
  case configurePath | setUplink =>
    obtain ⟨⟨⟨⟨⟨one, two⟩, three⟩, four⟩, five⟩, six⟩ := fits
    exact readRequest_of rfl (read6_be one two three four five six _ [])
  case setTimecode label =>
    simp only [Timecode.wf, fits8, Bool.and_eq_true, decide_eq_true_eq] at fits
    obtain ⟨⟨⟨hours, minutes⟩, seconds⟩, pictures⟩ := fits
    refine readRequest_of rfl ?_
    simp only [Request.body, encTimecode, List.append_assoc]
    exact read4_be hours minutes seconds pictures _ []
  case configureProgram program record =>
    obtain ⟨number, ranges⟩ := fits
    exact readRequest_of rfl (readConfigure_body number ranges [])
  case loadTable table entries =>
    simp only [beq_iff_eq, List.all_eq_true, CodeEntry.wf, fits8, fits16, Bool.and_eq_true, decide_eq_true_eq] at fits
    obtain ⟨⟨letter, size⟩, ranges⟩ := fits
    exact readRequest_of rfl (readTableLoad_body letter size ranges [])
  case bindInput input binding =>
    rcases binding with _ | ⟨port, slot⟩
    · exact readRequest_of rfl (readBindInput_body (of_decide_eq_true fits) (by simp) [])
    · simp only [Bool.and_eq_true, decide_eq_true_eq] at fits
      obtain ⟨⟨hinput, hport⟩, hslot⟩ := fits
      exact readRequest_of rfl (readBindInput_body hinput (by simp [hport, hslot]) [])
  case setMarkLine line binding preRoll yieldable =>
    rcases binding with _ | program
    · simp only [Bool.and_eq_true, decide_eq_true_eq] at fits
      obtain ⟨⟨hline, hroll⟩, hyield⟩ := fits
      exact readRequest_of rfl (readMarkLine_body hline (by simp) hroll hyield [])
    · simp only [Bool.and_eq_true, decide_eq_true_eq] at fits
      obtain ⟨⟨⟨hline, hprogram⟩, hroll⟩, hyield⟩ := fits
      exact readRequest_of rfl (readMarkLine_body hline (by simp [hprogram]) hroll hyield [])
  case setLabel clip text tags rating yieldable =>
    obtain ⟨⟨⟨⟨hclip, htext⟩, htags⟩, hrating⟩, hyield⟩ := fits
    exact readRequest_of rfl (readLabel_body hclip htext htags hrating hyield [])

end Sys2Proof.Machine
end

section
/-! PROOFS. The control link byte by byte (R198 to R211): frames that are received, bytes that carry no frame, and what the
outbound port sends. -/

namespace Sys2Proof.Machine

set_option Elab.async false

/-- The body of a well-formed request command fits a frame (R200). -/
theorem body_length_le {c : Instr} {tag : Byte} {r : Request} (request : requestOf c = some (tag, r))
    (fits : c.wf = true) : r.body.length ≤ 1024 := by
  cases c <;> simp only [requestOf, reduceCtorEq, Option.some.injEq, Prod.mk.injEq] at request
  all_goals obtain ⟨rfl, rfl⟩ := request
  case configureProgram => exact Laws.BodyFitsFrame.configureProgram _ _ _ fits _ _ rfl
  case loadTable => exact Laws.BodyFitsFrame.loadTable _ _ _ fits _ _ rfl
  case bindInput => exact Laws.BodyFitsFrame.bindInput _ _ _ fits _ _ rfl
  case setMarkLine => exact Laws.BodyFitsFrame.setMarkLine _ _ _ _ _ fits _ _ rfl
  case setLabel => exact Laws.BodyFitsFrame.setLabel _ _ _ _ _ _ fits _ _ rfl
  all_goals simp [Request.body]

/-! ### The receiver between and inside frames (R201) -/

/-- `s` with its receiver and its count of link errors replaced. -/
def receiving (rx : Receiver) (errors : Nat) (s : State) : State :=
  { s with link := { s.link with rx := rx, linkErrors := errors } }

theorem firstMade_eq_none {l : Link} (unmade : ∀ r ∈ l.replies, r.isMade = false) : firstMade l = none :=
  List.findIdx?_eq_none_iff.mpr unmade

theorem nextFrame_of_empty {l : Link} (empty : OutboundEmpty l) : nextFrame l = none := by
  obtain ⟨-, notices, replies⟩ := empty
  unfold nextFrame
  rw [firstMade_eq_none replies, notices]
  rfl

theorem inProgress_of_empty {l : Link} (empty : OutboundEmpty l) : inProgress l = none := by
  unfold inProgress
  rw [empty.1]
  exact nextFrame_of_empty empty

/-- While nothing is clocked out, a byte that is clocked in is the receiver's alone (R198). -/
theorem exchangeByte_quiet {s : State} (b : Byte) (ready : s.link.ready = true) (empty : OutboundEmpty s.link) :
    exchangeByte s b = takeByte b s := by
  unfold exchangeByte clockOut
  rw [if_pos ready, if_pos ready, inProgress_of_empty empty]

theorem exchange_nil (s : State) : exchange [] s = s := rfl

theorem exchange_of_not_ready (bytes : List Byte) {s : State} (off : s.link.ready = false) : exchange bytes s = s := by
  induction bytes with
  | nil => rfl
  | cons b bytes ih =>
    have discarded : exchangeByte s b = s := by
      unfold exchangeByte
      rw [off]
      rfl
    unfold exchange at ih ⊢
    rw [List.foldl_cons, discarded]
    exact ih

section
variable {s : State} {errors : Nat} (ready : s.link.ready = true) (empty : OutboundEmpty s.link)
include ready empty

/-- A byte that is clocked in between frames and inside one, while nothing is clocked out. -/
theorem exchange_cons (rx : Receiver) (b : Byte) (bytes : List Byte) :
    exchange (b :: bytes) (receiving rx errors s) = exchange bytes (takeByte b (receiving rx errors s)) := by
  unfold exchange
  rw [List.foldl_cons, exchangeByte_quiet (s := receiving rx errors s) b ready empty]

theorem exchange_single (rx : Receiver) (b : Byte) :
    exchange [b] (receiving rx errors s) = takeByte b (receiving rx errors s) := by
  rw [exchange_cons ready empty, exchange_nil]

/-- The start and the two length bytes of a frame. -/
theorem exchange_head (inRun fresh : Bool) (a b : Byte) (rest : List Byte) :
    exchange (0xC3#8 :: a :: b :: rest) (receiving (.hunt inRun fresh) errors s) =
      exchange rest (if minLength ≤ fromBe [a, b] ∧ fromBe [a, b] ≤ maxLength then
        receiving (.content (fromBe [a, b]) []) errors s
      else receiving (.hunt false true) (incWrap32 errors) s) := by
  have start : takeByte 0xC3#8 (receiving (.hunt inRun fresh) errors s) = receiving (.length none) errors s := rfl
  have upper : takeByte a (receiving (.length none) errors s) = receiving (.length (some a)) errors s := rfl
  have lower : takeByte b (receiving (.length (some a)) errors s) =
      if minLength ≤ fromBe [a, b] ∧ fromBe [a, b] ≤ maxLength then receiving (.content (fromBe [a, b]) []) errors s
      else receiving (.hunt false true) (incWrap32 errors) s := rfl
  rw [exchange_cons ready empty, start, exchange_cons ready empty, upper, exchange_cons ready empty, lower]

/-- The content of a frame, byte after byte. -/
theorem exchange_content (n : Nat) (bytes rest : List Byte) : ∀ got : List Byte, bytes ≠ [] →
    got.length + bytes.length = n →
    exchange (bytes ++ rest) (receiving (.content n got) errors s) =
      exchange rest (receiving (.check (got ++ bytes) none) errors s) := by
  induction bytes with
  | nil => exact fun got absent => absurd rfl absent
  | cons b bytes ih =>
    intro got _ size
    rw [List.cons_append, exchange_cons ready empty]
    simp only [List.length_cons] at size
    cases bytes with
    | nil =>
      have last : takeByte b (receiving (.content n got) errors s) = receiving (.check (got ++ [b]) none) errors s :=
        if_neg (by simp only [List.length_nil] at size; omega)
      rw [last]
      rfl
    | cons c more =>
      have inner : takeByte b (receiving (.content n got) errors s) = receiving (.content n (got ++ [b])) errors s :=
        if_pos (by simp only [List.length_cons] at size; omega)
      rw [inner, ih (got ++ [b]) (by simp) (by simp only [List.length_append, List.length_singleton]; omega)]
      simp

/-- A frame up to its last check byte (R200, R201). -/
theorem exchange_frame (inRun fresh : Bool) (content : List Byte) (a b : Byte) (lower : 2 ≤ content.length)
    (upper : content.length ≤ 1026) :
    exchange (0xC3#8 :: u16 content.length ++ content ++ [a, b]) (receiving (.hunt inRun fresh) errors s) =
      frameTaken content (fromBe [a, b]) (receiving (.check content (some a)) errors s) := by
  have size : fromBe (u16 content.length) = content.length := by
    rw [show u16 content.length = be 2 content.length from rfl, fromBe_be, Nat.mod_eq_of_lt (by omega)]
  obtain ⟨x, y, bytes⟩ : ∃ x y, u16 content.length = [x, y] := ⟨_, _, rfl⟩
  have inside : minLength ≤ fromBe [x, y] ∧ fromBe [x, y] ≤ maxLength := by
    rw [← bytes, size]
    exact ⟨lower, upper⟩
  have first : takeByte a (receiving (.check content none) errors s) = receiving (.check content (some a)) errors s := rfl
  have second : takeByte b (receiving (.check content (some a)) errors s) =
      frameTaken content (fromBe [a, b]) (receiving (.check content (some a)) errors s) := rfl
  rw [bytes, List.append_assoc]
  simp only [List.cons_append, List.nil_append]
  rw [exchange_head ready empty, if_pos inside, ← bytes, size,
    exchange_content ready empty content.length content [a, b] [] (by rintro rfl; simp at lower) (by simp),
    List.nil_append, exchange_cons ready empty, first, exchange_single ready empty, second]

end

/-! ### Request frames (O55) -/

theorem frameBytes_eq (tag kind : Byte) (body : List Byte) : frameBytes tag kind body =
    0xC3#8 :: u16 (tag :: kind :: body).length ++ (tag :: kind :: body) ++
      u16 (crc16 (u16 (tag :: kind :: body).length ++ (tag :: kind :: body))) := by
  simp [frameBytes]

theorem frameTaken_request {s : State} {tag kind : Byte} {body : List Byte} {check : Nat}
    (correct : check = crc16 (u16 (tag :: kind :: body).length ++ (tag :: kind :: body))) :
    frameTaken (tag :: kind :: body) check s =
      acceptFrame ⟨tag, readRequest kind body⟩ (s.modLink fun l => { l with rx := .hunt false false }) := by
  unfold frameTaken
  rw [if_pos correct]

theorem crc16_lt (bytes : List Byte) : crc16 bytes < 65536 := BitVec.isLt _

/-- A request command does at a later time what it does when its frame is taken (log entry 1). -/
theorem exec_of_frame {c : Instr} {tag : Byte} {r : Request} {t : State} {time now : Nat}
    (request : requestOf c = some (tag, r)) (ready : t.link.ready = true) (at' : t.tb.now = max now time)
    (earlier : ∀ u tg rate drop, c = .setStation u tg rate drop → u ≤ time) :
    exec c t = .next (acceptFrame ⟨tag, r⟩ t) := by
  rw [← submit_of_ready tag r ready]
  cases c <;> cases request
  case setStation.refl u rate drop =>
    have before := earlier u tag rate drop rfl
    have stands : arrive u t = t := by
      unfold arrive State.modTb
      dsimp only
      rw [max_eq_left (by omega)]
    rw [exec_setStation, stands]
  all_goals rfl

/-- Settles O55. -/
theorem requestFramesReadBack : Obligations.RequestFramesReadBack := by
  intro c tag r request fits
  have read := readRequest_body request fits
  refine ⟨read, fun time inRun fresh s ready hunts empty earlier => ?_⟩
  have size := body_length_le request fits
  obtain ⟨a, b, check⟩ : ∃ a b, u16 (crc16 (u16 (tag :: r.kind :: r.body).length ++ (tag :: r.kind :: r.body))) = [a, b] :=
    ⟨_, _, rfl⟩
  have value : fromBe [a, b] = crc16 (u16 (tag :: r.kind :: r.body).length ++ (tag :: r.kind :: r.body)) := by
    rw [← check]
    exact (fromBe_be 2 _).trans (Nat.mod_eq_of_lt (crc16_lt _))
  have arrived : arrive time s = receiving (.hunt inRun fresh) s.link.linkErrors (arrive time s) := by
    rw [← hunts]
    rfl
  rw [exec_of_frame request (time := time) (now := s.tb.now) (by exact ready) rfl earlier, exec_inboundFrame, frameBytes_eq,
    check, arrived, exchange_frame (by exact ready) (by exact empty) inRun fresh _ a b (by simp) (by simp only [List.length_cons]; omega),
    frameTaken_request value, read]
  rfl

/-! ### Bytes that carry no frame (O56) -/

theorem frameTaken_wrong {s : State} {content : List Byte} {check : Nat}
    (wrong : check ≠ crc16 (u16 content.length ++ content)) :
    frameTaken content check s = s.modLink fun l => linkError { l with rx := .hunt false true } := by
  unfold frameTaken
  rw [if_neg wrong]

section
variable {s : State} (ready : s.link.ready = true) (empty : OutboundEmpty s.link)
include ready empty

theorem exchange_zeros (errors n : Nat) (inRun fresh : Bool) :
    exchange (List.replicate (n + 1) 0) (receiving (.hunt inRun fresh) errors s) =
      receiving (.hunt inRun false) errors s := by
  induction n generalizing fresh with
  | zero => exact exchange_single ready empty _ _
  | succ n ih =>
    have taken : takeByte 0 (receiving (.hunt inRun fresh) errors s) = receiving (.hunt inRun false) errors s := rfl
    rw [List.replicate_succ, exchange_cons ready empty, taken]
    exact ih false

/-- A run of bytes that has been counted counts no more (R201). -/
theorem exchange_run (errors : Nat) (bytes : List Byte) (noStart : ∀ x ∈ bytes, x ≠ 0xC3#8) :
    exchange bytes (receiving (.hunt true false) errors s) = receiving (.hunt true false) errors s := by
  induction bytes with
  | nil => rfl
  | cons b bytes ih =>
    have taken : takeByte b (receiving (.hunt true false) errors s) = receiving (.hunt true false) errors s := by
      have hunted : huntByte true false b (receiving (.hunt true false) errors s).link =
          (receiving (.hunt true false) errors s).link := by
        unfold huntByte
        rw [if_neg (noStart b List.mem_cons_self)]
        split <;> rfl
      exact congrArg (fun l => { receiving (.hunt true false) errors s with link := l }) hunted
    rw [exchange_cons ready empty, taken]
    exact ih fun x mem => noStart x (List.mem_cons_of_mem b mem)

omit ready empty in
theorem takeByte_stray (errors : Nat) (inRun fresh : Bool) {b : Byte} (nonzero : b ≠ 0) (noStart : b ≠ 0xC3#8) :
    takeByte b (receiving (.hunt inRun fresh) errors s) = receiving (.hunt true false)
      (if inRun ∨ fresh then errors else (errors + 1) % 2 ^ 32) s := by
  have hunted : huntByte inRun fresh b (receiving (.hunt inRun fresh) errors s).link =
      (receiving (.hunt true false) (if inRun ∨ fresh then errors else (errors + 1) % 2 ^ 32) s).link := by
    unfold huntByte
    rw [if_neg noStart, if_neg nonzero]
    cases inRun <;> cases fresh <;> rfl
  exact congrArg (fun l => { receiving (.hunt inRun fresh) errors s with link := l }) hunted

end

/-- Settles O56. -/
theorem badBytesCountOneLinkError : Obligations.BadBytesCountOneLinkError := by
  intro time s leaves counted
  refine ⟨fun off bytes => ?_, fun inRun fresh ready hunts empty => ?_⟩
  · have off' : (arrive time s).link.ready = false := off
    show exec (.inboundFrame time bytes) s = _
    rw [exec_inboundFrame, exchange_of_not_ready bytes off']
    rfl
  · have ready' : (arrive time s).link.ready = true := ready
    have empty' : OutboundEmpty (arrive time s).link := empty
    have arrived : arrive time s = receiving (.hunt inRun fresh) s.link.linkErrors (arrive time s) := by
      rw [← hunts]
      rfl
    have leavesBy {bytes : List Byte} {rx : Receiver} {errors : Nat}
        (h : exchange bytes (receiving (.hunt inRun fresh) s.link.linkErrors (arrive time s)) =
          receiving rx errors (arrive time s)) : leaves bytes rx errors := by
      rw [← arrived] at h
      show exec (.inboundFrame time bytes) s = _
      rw [exec_inboundFrame, h]
      rfl
    refine ⟨fun n some' => leavesBy ?_, fun b rest nonzero noStart others => leavesBy ?_, fun a b outside => leavesBy ?_,
      fun tag kind a b body size => ?_⟩
    · obtain ⟨m, rfl⟩ := Nat.exists_eq_succ_of_ne_zero (by omega : n ≠ 0)
      exact exchange_zeros ready' empty' _ m inRun fresh
    · rw [exchange_cons ready' empty', takeByte_stray _ inRun fresh nonzero noStart]
      exact exchange_run ready' empty' _ rest others
    · have value : fromBe [a, b] = a.toNat * 256 + b.toNat := by simp [fromBe]
      rw [exchange_head ready' empty', if_neg (by rw [value]; unfold minLength maxLength; omega), exchange_nil]
      rfl
    · intro covered wrong
      refine leavesBy ?_
      have value : fromBe [a, b] = a.toNat * 256 + b.toNat := by simp [fromBe]
      have content : (0xC3#8 :: covered ++ [a, b] : List Byte) =
          0xC3#8 :: u16 (tag :: kind :: body).length ++ (tag :: kind :: body) ++ [a, b] := by
        simp [covered]
      have unlike : fromBe [a, b] ≠ crc16 (u16 (tag :: kind :: body).length ++ (tag :: kind :: body)) := by
        rw [value]
        simpa [covered] using wrong
      rw [content, exchange_frame ready' empty' inRun fresh _ a b (by simp) (by simp only [List.length_cons]; omega), frameTaken_wrong unlike]
      rfl

/-! ### The outbound queues (O57) -/

theorem pump_of_empty {s : State} (idle : s.link.requests = []) : pump s = s := by
  unfold pump
  rw [idle]
  rfl

theorem pump_single {s : State} {w : Waiting} (waiting : s.link.requests = [w]) (room : s.link.replies.length < 32) :
    pump s = process w (s.modLink fun l => { l with requests := [] }) := by
  unfold pump
  rw [waiting, List.length_singleton]
  unfold pumpN
  split
  · rename_i none'
    rw [waiting] at none'
    cases none'
  · rename_i w' rest found
    rw [waiting] at found
    cases found
    have roomy : replyRoom s = true := decide_eq_true room
    rw [if_pos roomy]
    rfl

theorem firstMade_of_append {l : Link} {front back : List ReplySlot} {r : Reply}
    (replies : l.replies = front ++ .made r :: back) (unmade : ∀ x ∈ front, x.isMade = false) :
    firstMade l = some front.length := by
  unfold firstMade
  rw [replies, List.findIdx?_append, List.findIdx?_eq_none_iff.mpr unmade]
  simp [List.findIdx?_cons, ReplySlot.isMade]

theorem outboundFrameSent_of_frame {s : State} {x : Sending} (ready : s.link.ready = true)
    (idle : s.link.sending = none) (next : nextFrame s.link = some x) : outboundFrameSent s = frameDone x s := by
  have now : inProgress s.link = some x := by
    unfold inProgress
    rw [idle]
    exact next
  unfold outboundFrameSent
  rw [if_pos ready, now]

theorem outboundFrameSent_quiet {s : State} (h : s.link.ready = false ∨ OutboundEmpty s.link) :
    outboundFrameSent s = s := by
  unfold outboundFrameSent
  rcases h with off | empty
  · rw [off]
    rfl
  · rw [inProgress_of_empty empty]
    split <;> rfl

/-- The first made reply leaves (R205). -/
theorem outboundFrameSent_reply {s : State} {front back : List ReplySlot} {r : Reply} (ready : s.link.ready = true)
    (idle : s.link.sending = none) (replies : s.link.replies = front ++ .made r :: back)
    (unmade : ∀ x ∈ front, x.isMade = false) :
    outboundFrameSent s = pump { s with link := { s.link with replies := front ++ back } } := by
  have next : nextFrame s.link = some ⟨false, front.length, 0⟩ := by
    unfold nextFrame
    rw [firstMade_of_append replies unmade]
  have left : s.link.replies.eraseIdx front.length = front ++ back := by
    rw [replies, List.eraseIdx_append_of_length_le (Nat.le_refl _)]
    simp
  rw [outboundFrameSent_of_frame ready idle next]
  unfold frameDone State.modLink
  dsimp only
  rw [left, ← idle]
  rfl

/-- Without a made reply the head of the notices leaves, and the NOTICE_LOST test is made (R205). -/
theorem outboundFrameSent_notice {s : State} {n : Notice} {rest : List Notice} (ready : s.link.ready = true)
    (idle : s.link.sending = none) (unmade : ∀ x ∈ s.link.replies, x.isMade = false)
    (notices : s.link.notices = n :: rest) :
    outboundFrameSent s = pump (noticeLostTest { s with link := { s.link with notices := rest } }) := by
  have next : nextFrame s.link = some ⟨true, 0, 0⟩ := by
    unfold nextFrame
    rw [firstMade_eq_none unmade, notices]
    rfl
  rw [outboundFrameSent_of_frame ready idle next]
  unfold frameDone State.modLink
  dsimp only
  rw [notices, ← idle]
  rfl

theorem reset_path (l : Fin 6) : State.reset.path l = Path.reset := by
  simp [State.path, State.reset, get_eq_getElem]

/-- Settles O57. -/
theorem linkServesItsQueues : Obligations.LinkServesItsQueues := by
  intro time s s0 l number
  refine ⟨?_, fun ready => ?_, fun off room => ?_, fun quiet => ?_, fun ready idle =>
    ⟨fun front r back replies unmade => ⟨fun none' => ?_, fun w a t waiting full performed => ?_⟩,
      fun n rest unmade notices none' => ⟨fun kept => ?_, fun lost subscribed room => ?_⟩⟩⟩
  · have paths : mapAll (fun l p => { p with carrier := (s.path l).carrier }) State.reset.paths =
        Vec.tab fun k => { Path.reset with carrier := (s.path k).carrier } := by
      unfold mapAll
      congr 1
      funext k
      rw [show State.reset.paths.get k = Path.reset from reset_path k]
    show Host.Outcome.next (afterHardReset s) = _
    unfold afterHardReset
    rw [paths]
  · rw [exec_linkReady]
    unfold becomeReady
    rw [if_pos ready]
  · rw [exec_linkReady, becomeReady_notices off room]
  · rw [exec_outboundFrameSent, outboundFrameSent_quiet (s := arrive time s) quiet]
    rfl
  · rw [exec_outboundFrameSent, outboundFrameSent_reply (s := arrive time s) ready idle replies unmade,
      pump_of_empty (by exact none')]
    rfl
  · have below : (front ++ back).length < 32 := by
      rw [replies] at full
      simp only [List.length_append, List.length_cons] at full ⊢
      omega
    rw [exec_outboundFrameSent, outboundFrameSent_reply (s := arrive time s) ready idle replies unmade,
      pump_single (by exact waiting) (by exact below)]
    have processed (t' : State) : process w t' =
        pushReply (slotOf w (perform w.req (counted t')).1) (perform w.req (counted t')).2 := rfl
    have stands : (({ arrive time s with link := { (arrive time s).link with replies := front ++ back } } : State).modLink
        fun l => { l with requests := [] }) =
        { s0 with link := { l with replies := front ++ back, requests := [] } } := rfl
    rw [stands, processed, performed]
    rfl
  · have untested := noticeLostTest_idle
      (s := { arrive time s with link := { (arrive time s).link with notices := rest } }) (.inl kept)
    rw [exec_outboundFrameSent, outboundFrameSent_notice (s := arrive time s) ready idle unmade notices, untested,
      pump_of_empty (by exact none')]
    rfl
  · have made := noticeLostTest_makes
      (s := { arrive time s with link := { (arrive time s).link with notices := rest } }) lost subscribed room
    rw [exec_outboundFrameSent, outboundFrameSent_notice (s := arrive time s) ready idle unmade notices, made,
      pump_of_empty (by exact none')]
    rfl

end Sys2Proof.Machine
end

section
/-! PROOFS. The budget allocator (R60 to R71): its sums over the programs that run, the shares, and the allocation tick. -/

namespace Sys2Proof.Machine

set_option Elab.async false

/-! ### Sums over programs and paths (R63, R64, R67) -/

/-- A value of the record of a program that runs, and 0 of any other program. -/
def runningValue (s : State) (f : ProgramRecord → Nat) (p : Fin 4) : Nat :=
  if (s.prog p).st = .running then ((s.prog p).record.map f).getD 0 else 0

theorem runningValue_of_record {s : State} {p : Fin 4} {r : ProgramRecord} (runs : (s.prog p).st = .running)
    (present : (s.prog p).record = some r) (f : ProgramRecord → Nat) : runningValue s f p = f r := by
  unfold runningValue
  rw [if_pos runs, present]
  rfl

/-- The sum of a list of optional values. -/
theorem sum_filterMap {α β : Type} (g : α → Option β) (f : β → Nat) (l : List α) :
    ((l.filterMap g).map f).sum = (l.map fun a => ((g a).map f).getD 0).sum := by
  induction l with
  | nil => rfl
  | cons a l ih => cases h : g a <;> simp [h, ih]

theorem sum_runningRecords (s : State) (f : ProgramRecord → Nat) :
    ((runningRecords s).map f).sum = ∑ p : Fin 4, runningValue s f p := by
  have value (p : Fin 4) : (((if ((s.prog p).st == .running) = true then (s.prog p).record else none).map f).getD 0) =
      runningValue s f p := by
    unfold runningValue
    by_cases runs : (s.prog p).st = .running <;> simp [runs]
  unfold runningRecords
  rw [sum_filterMap, Fin.sum_univ_def]
  exact congrArg List.sum (List.map_congr_left fun p _ => value p)

theorem sumEstimates_eq (s : State) : sumEstimates s =
    ∑ l : Fin 6, if (s.path l).st = .up ∨ (s.path l).st = .degraded then (s.path l).estimate else 0 := by
  unfold sumEstimates
  rw [Fin.sum_univ_def]
  exact congrArg List.sum (List.map_congr_left fun l _ => by simp only [carries_iff])

theorem clipWaits_iff (s : State) :
    clipWaits s = true ↔ ∃ c k, s.clips.recs.get c = some k ∧ (k.st = .queued ∨ k.st = .shipping) := by
  have listed : clipWaits s = true ↔ ∃ i, i ∈ clipIds (fun k => k.st == .queued || k.st == .shipping) s := by
    simp [clipWaits, List.eq_nil_iff_forall_not_mem]
  rw [listed]
  simp only [mem_clipIds, Bool.or_eq_true, beq_iff_eq]
  exact ⟨fun ⟨_, c, _, k, h⟩ => ⟨c, k, h⟩, fun ⟨c, k, h⟩ => ⟨c.1, c, rfl, k, h⟩⟩

theorem runningRecords_isEmpty (s : State) (h : (runningRecords s).isEmpty = true) (f : ProgramRecord → Nat) :
    ((runningRecords s).map f).sum = 0 := by
  rw [List.isEmpty_iff.mp h]
  rfl

/-! ### Shares (R67 to R70) -/

/-- Parts of a number in proportion, each rounded down, make up no more than the number. -/
theorem sum_proportions_le {n : Nat} (a : Nat) (w : Fin n → Nat) : ∑ i, a * w i / ∑ j, w j ≤ a := by
  rcases Nat.eq_zero_or_pos (∑ j, w j) with zero | positive
  · simp [zero]
  · refine Nat.le_of_mul_le_mul_right ?_ positive
    rw [Finset.sum_mul, Finset.mul_sum]
    exact Finset.sum_le_sum fun i _ => Nat.div_mul_le_self ..

section
variable (s : State) (video : Nat)

/-- The minima and the weights of the programs that run, summed (R67). -/
def minSumOf (s : State) : Nat := ∑ p : Fin 4, runningValue s ProgramRecord.minRate p
def weightSumOf (s : State) : Nat := ∑ p : Fin 4, runningValue s ProgramRecord.weight p

theorem shareOf_running {p : Fin 4} {r : ProgramRecord} (runs : (s.prog p).st = .running)
    (present : (s.prog p).record = some r) (minSum weights : Nat) :
    shareOf s video minSum weights p =
      if minSum ≤ video then min r.maxRate (r.minRate + (video - minSum) * r.weight / weights)
      else video * r.minRate / minSum := by
  unfold shareOf
  rw [runs, present]
  rfl

theorem shareOf_not_running {p : Fin 4} (rests : (s.prog p).st ≠ .running) (minSum weights : Nat) :
    shareOf s video minSum weights p = 0 := by
  unfold shareOf
  split
  · exact absurd ‹_› rests
  · rfl

theorem shareOf_no_record {p : Fin 4} (absent : (s.prog p).record = none) (minSum weights : Nat) :
    shareOf s video minSum weights p = 0 := by
  unfold shareOf
  rw [absent]
  split
  · rename_i present
    cases present
  · rfl

/-- A share is at most its program's minimum and its part of what is left above the minima. -/
theorem shareOf_le_above (above : minSumOf s ≤ video) (p : Fin 4) :
    shareOf s video (minSumOf s) (weightSumOf s) p ≤ runningValue s ProgramRecord.minRate p +
      (video - minSumOf s) * runningValue s ProgramRecord.weight p / weightSumOf s := by
  by_cases runs : (s.prog p).st = .running
  · cases present : (s.prog p).record with
    | none =>
      rw [shareOf_no_record s video present]
      exact Nat.zero_le _
    | some r =>
      rw [shareOf_running s video runs present, if_pos above, runningValue_of_record runs present,
        runningValue_of_record runs present]
      exact Nat.min_le_right ..
  · rw [shareOf_not_running s video runs]
    exact Nat.zero_le _

theorem shareOf_le_below (below : ¬minSumOf s ≤ video) (p : Fin 4) :
    shareOf s video (minSumOf s) (weightSumOf s) p ≤ video * runningValue s ProgramRecord.minRate p / minSumOf s := by
  by_cases runs : (s.prog p).st = .running
  · cases present : (s.prog p).record with
    | none =>
      rw [shareOf_no_record s video present]
      exact Nat.zero_le _
    | some r =>
      rw [shareOf_running s video runs present, if_neg below, runningValue_of_record runs present]
  · rw [shareOf_not_running s video runs]
    exact Nat.zero_le _

/-- The shares make up no more than the video budget (R68, R69). -/
theorem sum_shareOf_le : ∑ p : Fin 4, shareOf s video (minSumOf s) (weightSumOf s) p ≤ video := by
  by_cases above : minSumOf s ≤ video
  · calc ∑ p : Fin 4, shareOf s video (minSumOf s) (weightSumOf s) p
        ≤ ∑ p : Fin 4, (runningValue s ProgramRecord.minRate p +
            (video - minSumOf s) * runningValue s ProgramRecord.weight p / weightSumOf s) :=
          Finset.sum_le_sum fun p _ => shareOf_le_above s video above p
      _ = minSumOf s + ∑ p : Fin 4, (video - minSumOf s) * runningValue s ProgramRecord.weight p / weightSumOf s :=
          Finset.sum_add_distrib
      _ ≤ minSumOf s + (video - minSumOf s) := Nat.add_le_add_left (sum_proportions_le _ _) _
      _ = video := by omega
  · exact (Finset.sum_le_sum fun p _ => shareOf_le_below s video above p).trans (sum_proportions_le _ _)

end

/-! ### The outputs of a run -/

section
variable (cause : AllocCause) (s : State)

theorem allocate_minSum : (allocate cause s).minSum = minSumOf s := sum_runningRecords s _

theorem allocate_share (p : Fin 4) : (allocate cause s).shares.get p =
    shareOf s (allocate cause s).video (minSumOf s) (weightSumOf s) p := by
  have minima := sum_runningRecords s ProgramRecord.minRate
  have weights := sum_runningRecords s ProgramRecord.weight
  have share : (allocate cause s).shares.get p = shareOf s (allocate cause s).video
      ((runningRecords s).map ProgramRecord.minRate).sum ((runningRecords s).map ProgramRecord.weight).sum p :=
    Vec_get_tab _ p
  rw [share, minima, weights]
  rfl

/-- The outputs of a run, each by its name. -/
theorem allocate_eq : allocate cause s =
    { s.alloc with
      usable := (allocate cause s).usable, sound := (allocate cause s).sound,
      clipCounted := (allocate cause s).clipCounted, video := (allocate cause s).video,
      minSum := (allocate cause s).minSum, shares := (allocate cause s).shares, spare := (allocate cause s).spare,
      clipRate := (allocate cause s).clipCounted + (allocate cause s).spare, starved := (allocate cause s).starved,
      runs := (s.alloc.runs + 1) % 2 ^ 32, starvedCount := (allocate cause s).starvedCount, cause := some cause } := rfl

theorem allocate_spare : (allocate cause s).spare =
    (allocate cause s).video - ∑ p : Fin 4, (allocate cause s).shares.get p := by
  rw [Fin.sum_univ_four]
  rfl

theorem sum_shares_le : ∑ p : Fin 4, (allocate cause s).shares.get p ≤ (allocate cause s).video := by
  simp only [allocate_share]
  exact sum_shareOf_le s _

/-- The starved indication: the video budget does not meet the minima (R71). -/
theorem allocate_starved : (allocate cause s).starved = decide ((allocate cause s).video < minSumOf s) := by
  have formed : (allocate cause s).starved =
      (!(runningRecords s).isEmpty && decide ((allocate cause s).video < (allocate cause s).minSum)) := rfl
  rw [formed, allocate_minSum]
  cases none' : (runningRecords s).isEmpty with
  | false => rfl
  | true =>
    have zero : minSumOf s = 0 := (sum_runningRecords s _).symm.trans (runningRecords_isEmpty s none' _)
    simp [zero]

end

/-- Settles O23. -/
theorem sharesMakeUpTheVideoBudget : Obligations.SharesMakeUpTheVideoBudget := by
  intro cause s ordered a
  have formed : a = allocate cause s := runAllocator_alloc cause s
  rw [formed]
  refine ⟨?_, Nat.sub_le .., fun p r runs present => ?_⟩
  · have total := sum_shares_le cause s
    rw [allocate_spare]
    omega
  · have order := ordered p r runs present
    have share := (allocate_share cause s p).trans (shareOf_running s _ runs present _ _)
    rw [share, allocate_starved]
    by_cases above : minSumOf s ≤ (allocate cause s).video
    · rw [if_pos above]
      exact ⟨Nat.min_le_left .., fun _ => Nat.le_min.mpr ⟨order, Nat.le_add_right ..⟩⟩
    · rw [if_neg above]
      refine ⟨(Nat.div_le_of_le_mul ?_).trans order, fun fed => absurd fed (by simpa using above)⟩
      exact Nat.mul_le_mul_right _ (by omega)

/-! ### The allocation tick (R7, R61) -/

/-- A run raises STARVED when the indication is set from clear (R71). -/
theorem runAllocator_raises (cause : AllocCause) (s : State) : (runAllocator cause s).link.raises.get 7 =
    if (allocate cause s).starved = true ∧ s.alloc.starved = false then (s.link.raises.get 7 + 1) % 2 ^ 32
    else s.link.raises.get 7 := by
  rw [runAllocator_eq]
  by_cases set : ((allocate cause s).starved && !s.alloc.starved) = true
  · rw [if_pos set, if_pos (by simpa using set)]
    exact raise_raises .starved _ (allocated cause s) (by decide)
  · rw [if_neg set, if_neg (by simpa using set)]
    rfl

theorem takeAllocationTick_eq {s : State} (due : s.tb.allocDue = true) :
    takeAllocationTick s = runAllocator .allocationTick (s.modTb fun t => { t with allocDue := false }) := by
  unfold takeAllocationTick
  rw [if_pos due]

/-- Settles O22. -/
theorem allocationTickDividesTheBudget : Obligations.AllocationTickDividesTheBudget := by
  intro s
  refine ⟨fun none' => ?_, fun due => ?_⟩
  · rw [exec_allocationTick]
    unfold takeAllocationTick
    rw [none']
    rfl
  intro sum U S clips M W
  obtain ⟨s1, taken⟩ : ∃ s1, s1 = s.modTb fun t => { t with allocDue := false } := ⟨_, rfl⟩
  have a := allocate_share .allocationTick s1
  refine ⟨takeAllocationTick s, (allocate .allocationTick s1).clipCounted, exec_allocationTick s, ?_⟩
  rw [takeAllocationTick_eq due, ← taken, runAllocator_alloc]
  have sums (f : ProgramRecord → Nat) : ((runningRecords s1).map f).sum = sum f := by
    rw [sum_runningRecords, taken]
    rfl
  have usable : (allocate .allocationTick s1).usable = U := by
    have estimates : sumEstimates s1 = _ := sumEstimates_eq s1
    show sumEstimates s1 * s1.alloc.headroom / 16 = U
    rw [estimates, taken]
    rfl
  have sound : (allocate .allocationTick s1).sound = S := sums soundRate
  have waits : clipWaits s1 = true ↔ clips := by
    rw [clipWaits_iff, taken]
    rfl
  have counted : (allocate .allocationTick s1).clipCounted = if clipWaits s1 then s1.alloc.clipFloor else 0 := rfl
  refine ⟨fun yes => ?_, fun no => ?_, ?_⟩
  · rw [counted, if_pos (waits.mpr yes), taken]
    rfl
  · rw [counted, if_neg (mt waits.mp no)]
  intro V
  have video : (allocate .allocationTick s1).video = V := by
    show (allocate .allocationTick s1).usable - ((allocate .allocationTick s1).sound + s1.alloc.labelReserve
      + (allocate .allocationTick s1).clipCounted) = V
    have reserve : s1.alloc.labelReserve = s.alloc.labelReserve := by rw [taken]; rfl
    rw [usable, sound, reserve]
  have minima : minSumOf s1 = M := by
    rw [taken]
    rfl
  have weights : weightSumOf s1 = W := by
    rw [taken]
    rfl
  have starved : (allocate .allocationTick s1).starved = decide (V < M) := by
    rw [allocate_starved, video, minima]
  have share (p : Fin 4) : (allocate .allocationTick s1).shares.get p = shareOf s V M W p := by
    rw [a, video, minima, weights, taken]
    rfl
  have before : s1.alloc.starved = s.alloc.starved := by rw [taken]; rfl
  refine ⟨fun p r runs present => ?_, fun p rests => ?_, ?_, ?_, ?_⟩
  · rw [share]
    exact shareOf_running s V runs present M W
  · rw [share]
    exact shareOf_not_running s V rests M W
  · intro spare
    have left : (allocate .allocationTick s1).spare = spare := by
      rw [allocate_spare, video]
    have count : (allocate .allocationTick s1).starvedCount =
        if V < M ∧ s.alloc.starved = false then (s.alloc.starvedCount + 1) % 2 ^ 32 else s.alloc.starvedCount := by
      show (if (allocate .allocationTick s1).starved && !s1.alloc.starved then _ else _) = _
      rw [starved, before, taken]
      simp only [Bool.and_eq_true, decide_eq_true_eq, Bool.not_eq_true']
      rfl
    have stands : s1.alloc = s.alloc := by rw [taken]; rfl
    refine (allocate_eq .allocationTick s1).trans ?_
    rw [usable, sound, video, allocate_minSum, minima, left, starved, count, stands]
  · rw [runAllocator_raises, starved, before, taken]
    simp only [decide_eq_true_eq]
    rfl
  · rw [runAllocator_frame, taken]
    rfl

end Sys2Proof.Machine
end

section
/-! PROOFS. The slot ports (R81, R83, R85) and the sample tick of the mixer (R88 to R95, R97). -/

namespace Sys2Proof.Machine

set_option Elab.async false

/-! ### The class of a slot (R81) -/

section
variable {q : SlotPort}

theorem slotClass_correctMarker (place : expectedSlot q = 0) (known : q.position ≠ none) :
    slotClass q true = .correctMarker := by
  obtain ⟨n, known⟩ := Option.ne_none_iff_exists'.mp known
  simp [slotClass, place, known]

theorem slotClass_wrongMarker (wrong : expectedSlot q ≠ 0 ∨ q.position = none) : slotClass q true = .wrongMarker := by
  rcases wrong with place | unknown
  · simp [slotClass, place]
  · simp [slotClass, unknown]

theorem slotClass_missedMarker (place : expectedSlot q = 0) : slotClass q false = .missedMarker := by
  simp [slotClass, place]

theorem slotClass_other (place : expectedSlot q ≠ 0) : slotClass q false = .other := by
  simp [slotClass, place]

/-- A port has frame lock in PENDING, ALIGNED and UNALIGNED (R81). -/
def HasLock (q : SlotPort) : Prop := q.st = .pending ∨ q.st = .aligned ∨ q.st = .unaligned

/-! ### What a slot makes of the port -/

theorem slotStep_off (rests : q.st = .off) (marker : Bool) (x : Sample24) : slotStep marker x q = q := by
  simp [slotStep, rests]

theorem slotStep_lost {marker : Bool} {position : Option Nat} {c : SlotClass} (lock : HasLock q)
    (cls : slotClass q marker = c) (cause : c = .wrongMarker ∧ position = some 0 ∨ c = .missedMarker ∧ position = none)
    (x : Sample24) : slotStep marker x q = loseLock position q := by
  rcases cause with ⟨rfl, rfl⟩ | ⟨rfl, rfl⟩ <;> rcases lock with st | st | st <;> simp [slotStep, st, cls]

theorem slotStep_correct (lock : HasLock q) (cls : slotClass q true = .correctMarker) (x : Sample24) :
    slotStep true x q = growFrame 0 [x] { q with lock := min (q.lock + 1) 2 } := by
  rcases lock with st | st | st <;> simp [slotStep, st, cls]

theorem slotStep_other (lock : HasLock q) (cls : slotClass q false = .other) (x : Sample24) :
    slotStep false x q = growFrame (expectedSlot q) (q.partFrame ++ [x]) q := by
  rcases lock with st | st | st <;> simp [slotStep, st, cls]

theorem silentSlot_lost (lock : HasLock q) : silentSlot q = loseLock none q := by
  rcases lock with st | st | st <;> simp [silentSlot, st]

theorem growFrame_inside {position : Nat} (inside : position + 1 ≠ q.count) (samples : List Sample24) :
    growFrame position samples q = { q with position := some position, partFrame := samples } := if_neg inside

theorem growFrame_last {position : Nat} (last : position + 1 = q.count) (samples : List Sample24) :
    growFrame position samples q =
      { q with
        position := some position, partFrame := []
        buffer := (q.buffer ++ [samples]).drop (q.buffer.length + 1 - 16) } := by
  simp [growFrame, last, slotBufferFrames]

end

/-! ### The depth of the buffer (R85) -/

theorem checkDepth_within {i : Fin 4} {s : State}
    (within : (s.slot i).st = .aligned → 2 ≤ (s.slot i).buffer.length ∧ (s.slot i).buffer.length ≤ 14) :
    checkDepth i s = s := by
  refine if_neg fun left => ?_
  simp only [Bool.and_eq_true, Bool.or_eq_true, beq_iff_eq, decide_eq_true_eq] at left
  have := within left.1
  omega

/-- A depth that leaves 2 to 14 takes the port to UNALIGNED and raises PORT_UNALIGNED. -/
theorem checkDepth_outside {i : Fin 4} {s : State} (aligned : (s.slot i).st = .aligned)
    (outside : (s.slot i).buffer.length < 2 ∨ 14 < (s.slot i).buffer.length) :
    checkDepth i s = raise .portUnaligned (u8 i.1 ++ u8 (s.slot i).buffer.length)
      (s.modSlot i fun q => { q with st := .unaligned, unaligneds := incSat16 q.unaligneds }) := by
  refine if_pos ?_
  simp only [Bool.and_eq_true, Bool.or_eq_true, beq_iff_eq, decide_eq_true_eq]
  exact ⟨aligned, outside⟩

@[simp] theorem raise_slot (k : EventKind) (details : List Byte) (s : State) (i : Fin 4) :
    (raise k details s).slot i = s.slot i := by
  rw [raise_eq]
  rfl

theorem takeSlot_within {i : Fin 4} {marker : Bool} {x : Sample24} {s : State} {y : SlotPort}
    (stepped : slotStep marker x (s.slot i) = y)
    (within : y.st = .aligned → 2 ≤ y.buffer.length ∧ y.buffer.length ≤ 14) :
    exec (.slot i marker x) s = .next (s.modSlot i fun _ => y) := by
  have moved : s.modSlot i (slotStep marker x) = s.modSlot i fun _ => y := by
    rw [← stepped]
    rfl
  rw [exec_slot]
  unfold takeSlot
  rw [moved, checkDepth_within]
  rwa [modSlot_slot, if_pos rfl]

/-- Settles O34, by the class of the slot in each state of the port. -/
theorem slotsKeepFrameLock : Obligations.SlotsKeepFrameLock := by
  intro i marker x s q expected lost takes silent hasLock
  have place : expected = expectedSlot q := rfl
  have quiet {y : SlotPort} (h : silentSlot q = y) : silent y := by
    show exec (.slotSilenceExpiry i) s = _
    rw [exec_slotSilenceExpiry, ← h]
    rfl
  have takes_of {y : SlotPort} (h : slotStep marker x q = y)
      (within : y.st = .aligned → 2 ≤ y.buffer.length ∧ y.buffer.length ≤ 14) : takes y := takeSlot_within h within
  have seeks {y : SlotPort} (h : slotStep marker x q = y) (st : y.st = .seeking) : takes y :=
    takes_of h fun aligned => absurd (st.symm.trans aligned) (by decide)
  rw [place]
  refine ⟨fun off => ⟨takes_of (slotStep_off off marker x) fun h => absurd (off.symm.trans h) (by decide),
    quiet (by simp [silentSlot, off])⟩, fun seeking => ⟨quiet (by simp [silentSlot, seeking]), ?_, ?_, ?_, ?_, ?_⟩,
    fun lock => ⟨quiet (silentSlot_lost lock), ?_, ?_, ?_, ?_, ?_, ?_⟩⟩
  · rintro rfl first known unlocked
    exact seeks (by simp [slotStep, seeking, slotClass_correctMarker first known, unlocked]) seeking
  · rintro rfl first known one slots
    have grown := growFrame_inside (q := { q with st := .pending, lock := 2 }) (Nat.ne_of_lt slots) [x]
    refine takes_of (y := { q with st := .pending, position := some 0, lock := 2, partFrame := [x] }) ?_ nofun
    simp [slotStep, seeking, slotClass_correctMarker first known, one, grown]
  · rintro rfl wrong
    exact seeks (by simp [slotStep, seeking, slotClass_wrongMarker wrong]) seeking
  · rintro rfl missed
    exact seeks (by simp [slotStep, seeking, slotClass_missedMarker missed]) seeking
  · rintro rfl later
    exact seeks (by simp [slotStep, seeking, slotClass_other later]) seeking
  · rintro rfl wrong
    exact seeks (slotStep_lost lock (slotClass_wrongMarker wrong) (.inl ⟨rfl, rfl⟩) x) rfl
  · rintro rfl first known slots within
    exact takes_of ((slotStep_correct lock (slotClass_correctMarker first known) x).trans
      (growFrame_inside (q := { q with lock := min (q.lock + 1) 2 }) (Nat.ne_of_lt slots) [x])) within
  · rintro rfl missed
    exact seeks (slotStep_lost lock (slotClass_missedMarker missed) (.inr ⟨rfl, rfl⟩) x) rfl
  · rintro rfl later inside within
    exact takes_of ((slotStep_other lock (slotClass_other later) x).trans (growFrame_inside inside _)) within
  · rintro rfl later last within
    refine takes_of ((slotStep_other lock (slotClass_other later) x).trans (growFrame_last last _)) fun aligned => ?_
    have := within aligned
    simp only [List.length_drop, List.length_append, List.length_singleton]
    omega
  · rintro rfl later last aligned full
    have stepped := (slotStep_other lock (slotClass_other later) x).trans (growFrame_last last _)
    have length : (slotStep false x q).buffer.length = 15 := by
      rw [stepped]
      simp [full]
    have st : (slotStep false x q).st = .aligned := by rw [stepped]; exact aligned
    have count : (slotStep false x q).unaligneds = q.unaligneds := by rw [stepped]
    have port : (s.modSlot i (slotStep false x)).slot i = slotStep false x q := by rw [modSlot_slot, if_pos rfl]
    have run : takeSlot i false x s = _ := checkDepth_outside (i := i) (s := s.modSlot i (slotStep false x))
      (by rw [port, st]) (by rw [port, length]; decide)
    refine ⟨takeSlot i false x s, exec_slot .., ?_, ?_, ?_, ?_⟩ <;> rw [run]
    · rw [raise_slot, modSlot_slot, if_pos rfl]
    · rw [raise_slot, modSlot_slot, if_pos rfl]
      show ((s.modSlot i (slotStep false x)).slot i).buffer.length = 15
      rw [port, length]
    · rw [raise_slot, modSlot_slot, if_pos rfl]
      show incSat16 ((s.modSlot i (slotStep false x)).slot i).unaligneds = _
      rw [port, count]
      rfl
    · exact raise_raises .portUnaligned _ _ (by decide)

end Sys2Proof.Machine
end

section
/-! PROOFS. The sample tick of the mixer (R85, R88 to R95, R97, R101). -/

namespace Sys2Proof.Machine

set_option Elab.async false

/-! ### Counts of events, and one slice of the state at a time -/

/-- The next value of a count of 32 bits. -/
def inc32 (x : Nat) : Nat := (x + 1) % 2 ^ 32

/-- Raising one kind leaves the counts of the other kinds, but NOTICE_LOST. -/
theorem raise_raises_ne (k : EventKind) (details : List Byte) (s : State) {j : Fin 18} (other : k.index ≠ j)
    (lost : j ≠ EventKind.noticeLost.index) : (raise k details s).link.raises.get j = s.link.raises.get j := by
  have made (kind : Nat) (t : State) : (makeNotice kind details t).link.raises.get j = t.link.raises.get j := by
    unfold makeNotice
    simp only [modLink_link]
    split
    · rfl
    · simp [latchEvent, Ne.symm lost]
  have counted : (latchEvent k s.link).raises.get j = s.link.raises.get j := by simp [latchEvent, other]
  unfold raise
  dsimp only
  split
  · rw [made]
    exact counted
  · exact counted

/-- An operation that for every program touches the slice of that program alone. -/
theorem eachProgram_at {α : Type} {f : Fin 4 → State → State} {g : State → Fin 4 → α} {h : Fin 4 → α → α}
    (own : ∀ i s, g (f i s) i = h i (g s i)) (others : ∀ i j s, j ≠ i → g (f i s) j = g s j) (s : State) (j : Fin 4) :
    g (eachProgram f s) j = h j (g s j) := by
  unfold eachProgram
  match j with
  | 0 => rw [others 3 _ _ (by decide), others 2 _ _ (by decide), others 1 _ _ (by decide), own]
  | 1 => rw [others 3 _ _ (by decide), others 2 _ _ (by decide), own, others 0 _ _ (by decide)]
  | 2 => rw [others 3 _ _ (by decide), own, others 1 _ _ (by decide), others 0 _ _ (by decide)]
  | 3 => rw [own, others 2 _ _ (by decide), others 1 _ _ (by decide), others 0 _ _ (by decide)]

theorem eachProgram_eq_foldl (f : Fin 4 → State → State) (s : State) :
    eachProgram f s = (List.finRange 4).foldl (fun t i => f i t) s := rfl

/-- A run of operations that each count a kind when `c` holds, in the slice that the operations before them leave. -/
theorem foldl_counts {n : Nat} {β : Type} {f : Fin n → State → State} {g : State → Fin n → β} {c : Fin n → β → Bool}
    {raises : State → Nat} (own : ∀ i t, raises (f i t) = if c i (g t i) then inc32 (raises t) else raises t)
    (others : ∀ i j t, j ≠ i → g (f i t) j = g t j) {s : State} :
    ∀ (l : List (Fin n)) (t : State), l.Nodup → (∀ i ∈ l, g t i = g s i) →
      raises (l.foldl (fun t i => f i t) t) = inc32^[l.countP fun i => c i (g s i)] (raises t)
  | [], _, _, _ => rfl
  | i :: l, t, nodup, same => by
    have fresh := List.nodup_cons.mp nodup
    have rest (j) (h : j ∈ l) : g (f i t) j = g s j :=
      (others i j t fun e => fresh.1 (e ▸ h)).trans (same j (List.mem_cons_of_mem _ h))
    rw [List.foldl_cons, foldl_counts own others l _ fresh.2 rest, own, same i List.mem_cons_self, List.countP_cons]
    cases c i (g s i) <;> rfl

/-! ### The hand-over of the slot ports (R85) -/

/-- The port after it has handed its oldest frame. -/
def handedOver (q : SlotPort) : SlotPort := if q.st = .aligned then { q with buffer := q.buffer.tail } else q

/-- Whether the depth of an ALIGNED port leaves 2 to 14. -/
def leavesDepth (q : SlotPort) : Bool :=
  q.st == .aligned && (decide (q.buffer.length < 2) || decide (14 < q.buffer.length))

/-- The port after its depth is looked at. -/
def depthChecked (q : SlotPort) : SlotPort :=
  if leavesDepth q then { q with st := .unaligned, unaligneds := min (q.unaligneds + 1) 65535 } else q

theorem checkDepth_slot (i j : Fin 4) (s : State) :
    (checkDepth i s).slot j = if i = j then depthChecked (s.slot j) else s.slot j := by
  have split' : checkDepth i s = if leavesDepth (s.slot i) then raise .portUnaligned
      (u8 i.1 ++ u8 (s.slot i).buffer.length)
      (s.modSlot i fun q => { q with st := .unaligned, unaligneds := incSat16 q.unaligneds }) else s := rfl
  rw [split']
  by_cases here : i = j
  · subst here
    unfold depthChecked
    cases leavesDepth (s.slot i) with
    | false => simp
    | true => simp [incSat16]
  · rw [if_neg here]
    cases leavesDepth (s.slot i) with
    | false => rfl
    | true => simp [here]

theorem checkDepth_raises (i : Fin 4) (s : State) : (checkDepth i s).link.raises.get 8 =
    if leavesDepth (s.slot i) then inc32 (s.link.raises.get 8) else s.link.raises.get 8 := by
  show (if leavesDepth (s.slot i) = true then _ else _ : State).link.raises.get 8 = _
  by_cases leaves : leavesDepth (s.slot i) = true
  · rw [if_pos leaves, if_pos leaves]
    exact raise_raises .portUnaligned _ _ (by decide)
  · rw [if_neg leaves, if_neg leaves]

theorem checkDepth_raises_ne (i : Fin 4) (s : State) {j : Fin 18} (other : EventKind.portUnaligned.index ≠ j)
    (lost : j ≠ EventKind.noticeLost.index) : (checkDepth i s).link.raises.get j = s.link.raises.get j := by
  unfold checkDepth
  dsimp only
  split
  · exact raise_raises_ne .portUnaligned _ _ other lost
  · rfl

/-- One port hands its oldest frame. -/
def handFrame (i : Fin 4) (t : State) : State := checkDepth i (t.modSlot i handedOver)

theorem handFrames_eq (s : State) : handFrames s = eachProgram handFrame s := by
  have one (i : Fin 4) (t : State) :
      (t.modSlot i fun q => if q.st == .aligned then { q with buffer := q.buffer.tail } else q) =
        t.modSlot i handedOver := by
    congr 1
    funext q
    simp [handedOver]
  unfold handFrames
  simp only [one]
  rfl

theorem handFrame_slot (i j : Fin 4) (t : State) :
    (handFrame i t).slot j = if i = j then depthChecked (handedOver (t.slot j)) else t.slot j := by
  unfold handFrame
  rw [checkDepth_slot]
  by_cases here : i = j
  · simp [here]
  · simp [here]

theorem handFrames_slot (s : State) (i : Fin 4) :
    (handFrames s).slot i = depthChecked (handedOver (s.slot i)) := by
  rw [handFrames_eq]
  exact eachProgram_at (g := fun t i => t.slot i) (h := fun _ q => depthChecked (handedOver q))
    (fun i t => by rw [handFrame_slot, if_pos rfl])
    (fun i j t other => by rw [handFrame_slot, if_neg (Ne.symm other)]) s i

theorem handFrames_raises (s : State) : (handFrames s).link.raises.get 8 =
    inc32^[(List.finRange 4).countP fun i => leavesDepth (handedOver (s.slot i))] (s.link.raises.get 8) := by
  rw [handFrames_eq, eachProgram_eq_foldl]
  refine foldl_counts (g := fun t i => t.slot i) (c := fun _ q => leavesDepth (handedOver q))
    (raises := fun t => t.link.raises.get 8) (fun i t => ?_) (fun i j t other => ?_) _ s (List.nodup_finRange 4)
    fun _ _ => rfl
  · unfold handFrame
    rw [checkDepth_raises, modSlot_slot, if_pos rfl, modSlot_link]
  · rw [handFrame_slot, if_neg (Ne.symm other)]

theorem handFrames_raises_ne (s : State) {j : Fin 18} (other : EventKind.portUnaligned.index ≠ j)
    (lost : j ≠ EventKind.noticeLost.index) : (handFrames s).link.raises.get j = s.link.raises.get j := by
  have one (i : Fin 4) (t : State) : (handFrame i t).link.raises.get j = t.link.raises.get j :=
    checkDepth_raises_ne i _ other lost
  rw [handFrames_eq]
  unfold eachProgram
  rw [one, one, one, one]

/-! ### The inputs (R89) -/

/-- The sample that a port hands for one of its slots. -/
theorem inputSample_of_binding {s : State} {i : Fin 32} {port slot : Nat}
    (bound : s.mixer.bindings.get i = some (port, slot)) : inputSample s i =
      let q := s.slot (Fin.ofNat 4 port)
      if q.st = .aligned ∧ slot < q.count then ((q.buffer.headD []).getD slot 0).toInt else 0 := by
  unfold inputSample
  rw [bound]
  dsimp only [idx4, handed]
  generalize s.slot (Fin.ofNat 4 port) = q
  by_cases aligned : q.st = .aligned
  · cases buffer : q.buffer with
    | nil => simp [aligned]
    | cons f rest => simp [aligned]
  · simp [aligned]

theorem inputSample_unbound {s : State} {i : Fin 32} (free : s.mixer.bindings.get i = none) : inputSample s i = 0 := by
  unfold inputSample
  rw [free]

/-! ### The dither generators (R95) -/

section
variable {w : Nat} {step : BitVec w → Bool × BitVec w} {bit : BitVec w → Bool} {next : BitVec w → BitVec w}

/-- `k` steps of a generator that gives the bits `bit` and steps as `next`: the first bit is the most significant. -/
theorem genSteps_eq (moves : ∀ r, step r = (bit r, next r)) (k acc : Nat) (r : BitVec w) :
    genSteps step k acc r =
      (acc * 2 ^ k + ∑ j ∈ Finset.range k, (bit (next^[j] r)).toNat * 2 ^ (k - 1 - j), next^[k] r) := by
  induction k generalizing acc r with
  | zero => rw [Finset.sum_range_zero, pow_zero, Nat.mul_one]; rfl
  | succ k ih =>
    have first := Finset.sum_range_succ' (fun j => (bit (next^[j] r)).toNat * 2 ^ (k - j)) k
    have later : ∑ j ∈ Finset.range k, (bit (next^[j + 1] r)).toNat * 2 ^ (k - (j + 1)) =
        ∑ j ∈ Finset.range k, (bit (next^[j] (next r))).toNat * 2 ^ (k - 1 - j) :=
      Finset.sum_congr rfl fun j _ => by rw [Function.iterate_succ_apply, Nat.sub_sub, Nat.add_comm 1 j]
    rw [genSteps, moves, ih, Nat.add_sub_cancel, first, later, Nat.sub_zero, pow_succ, Function.iterate_succ_apply,
      Function.iterate_zero_apply]
    congr 1
    ring

/-- The byte that eight steps spell (R95). -/
theorem eightSteps_eq (moves : ∀ r, step r = (bit r, next r)) (r : BitVec w) :
    eightSteps step r = (∑ j : Fin 8, if bit (next^[j.1] r) then 2 ^ (7 - j.1) else 0, next^[8] r) := by
  unfold eightSteps
  rw [genSteps_eq moves, Finset.sum_range, Nat.zero_mul, Nat.zero_add]
  congr 1
  refine Finset.sum_congr rfl fun j _ => ?_
  cases bit (next^[j.1] r)
  · exact Nat.zero_mul _
  · exact Nat.one_mul _

end

theorem ofNat_toNat_bit (w : Nat) (b : Bool) : BitVec.ofNat w b.toNat = if b then 1#w else 0#w := by cases b <;> rfl

theorem stepA_eq (r : BitVec 17) : stepA r = (r.getLsbD 16 != r.getLsbD 13,
    (r <<< 1) ||| (if (r.getLsbD 16 != r.getLsbD 13) = true then 1#17 else 0#17)) := by
  have bit : (r.getLsbD 16 ^^ r.getLsbD 13) = (r.getLsbD 16 != r.getLsbD 13) := rfl
  unfold stepA
  dsimp only
  rw [ofNat_toNat_bit, bit]

theorem stepB_eq (r : BitVec 23) : stepB r = (r.getLsbD 22 != r.getLsbD 17,
    (r <<< 1) ||| (if (r.getLsbD 22 != r.getLsbD 17) = true then 1#23 else 0#23)) := by
  have bit : (r.getLsbD 22 ^^ r.getLsbD 17) = (r.getLsbD 22 != r.getLsbD 17) := rfl
  unfold stepB
  dsimp only
  rw [ofNat_toNat_bit, bit]

/-! ### The tick in its steps (R88) -/

/-- What the buses give at a sample tick. -/
def busOuts (s : State) : Vector BusOut 8 :=
  Vec.tab fun k => busTick (Vec.tab (inputSample s)) (s.mixer.buses.get k)

/-- The mixer with the buses that a sample tick gives. -/
def mixedBuses (outs : Vector BusOut 8) (m : Mixer) : Mixer :=
  { m with
    buses := Vec.tab fun k => (outs.get k).bus
    monOut := ((outs.get m.left).y24, (outs.get m.right).y24) }

/-- The framing buffers of one program at a sample tick. -/
def frameProgram (outs : Vector BusOut 8) (p : Fin 4) (t : State) : State :=
  (t.prog p).record.elim t fun r => t.modFramer p (frameTick outs r)

theorem frameProgram_inner (outs : Vector BusOut 8) (p : Fin 4) (t : State) :
    Inner [.framers] t (frameProgram outs p t) := by
  unfold frameProgram
  cases (t.prog p).record with
  | none => exact .refl _ t
  | some r => exact modFramer_inner t p _

theorem frameProgram_own (outs : Vector BusOut 8) (p : Fin 4) (t : State) :
    (frameProgram outs p t).framer p = (t.prog p).record.elim (t.framer p) fun r => frameTick outs r (t.framer p) := by
  unfold frameProgram
  cases (t.prog p).record with
  | none => rfl
  | some r => simp

theorem frameProgram_other (outs : Vector BusOut 8) {p q : Fin 4} (other : q ≠ p) (t : State) :
    (frameProgram outs p t).framer q = t.framer q := by
  unfold frameProgram
  cases (t.prog p).record with
  | none => rfl
  | some r => simp [Ne.symm other]

theorem raiseSaturation_raises (m : Mixer) (outs : Vector BusOut 8) (k : Fin 8) (t : State) :
    (raiseSaturation m outs k t).link.raises.get 9 =
      if (outs.get k).clipped && !(m.buses.get k).saturated then inc32 (t.link.raises.get 9)
      else t.link.raises.get 9 := by
  unfold raiseSaturation
  by_cases raised : ((outs.get k).clipped && !(m.buses.get k).saturated) = true
  · rw [if_pos raised, if_pos raised]
    exact raise_raises .busSaturation _ _ (by decide)
  · rw [if_neg raised, if_neg raised]

theorem raiseSaturation_raises_ne (m : Mixer) (outs : Vector BusOut 8) (k : Fin 8) (t : State) {j : Fin 18}
    (other : EventKind.busSaturation.index ≠ j) (lost : j ≠ EventKind.noticeLost.index) :
    (raiseSaturation m outs k t).link.raises.get j = t.link.raises.get j := by
  unfold raiseSaturation
  split
  · exact raise_raises_ne .busSaturation _ _ other lost
  · rfl

/-- BUS_SATURATION for every bus that asks for it. -/
def saturationsRaised (before : Mixer) (outs : Vector BusOut 8) (t : State) : State :=
  (List.finRange 8).foldl (fun t k => raiseSaturation before outs k t) t

section
variable (before : Mixer) (outs : Vector BusOut 8) (t : State)

theorem saturationsRaised_inner : Inner [.link] t (saturationsRaised before outs t) :=
  .foldl _ (fun t k => raiseSaturation_inner _ _ k t) _ _

theorem saturationsRaised_raises : (saturationsRaised before outs t).link.raises.get 9 =
    inc32^[(List.finRange 8).countP fun k => (outs.get k).clipped && !(before.buses.get k).saturated]
      (t.link.raises.get 9) :=
  foldl_counts (g := fun _ _ => ()) (raises := fun t => t.link.raises.get 9)
    (c := fun k _ => (outs.get k).clipped && !(before.buses.get k).saturated)
    (fun k t => raiseSaturation_raises before outs k t) (fun _ _ _ _ => rfl) (s := t) _ _ (List.nodup_finRange 8)
    fun _ _ => rfl

theorem saturationsRaised_raises_unaligned :
    (saturationsRaised before outs t).link.raises.get 8 = t.link.raises.get 8 := by
  unfold saturationsRaised
  induction List.finRange 8 generalizing t with
  | nil => rfl
  | cons k l ih =>
    rw [List.foldl_cons, ih]
    exact raiseSaturation_raises_ne before outs k t (by decide) (by decide)

/-- The sample tick after the ports have handed: the buses, their events, and the framing buffers. -/
def mixedFrom : State := eachProgram (frameProgram outs) (saturationsRaised before outs (t.modMixer (mixedBuses outs)))

theorem mixedFrom_framed :
    Inner [.framers] (saturationsRaised before outs (t.modMixer (mixedBuses outs))) (mixedFrom before outs t) :=
  .eachProgram _ (frameProgram_inner outs) _

theorem mixedFrom_mixer : (mixedFrom before outs t).mixer = mixedBuses outs t.mixer :=
  ((mixedFrom_framed before outs t).same .mixer (by decide)).trans
    ((saturationsRaised_inner before outs _).same .mixer (by decide))

theorem mixedFrom_slots : (mixedFrom before outs t).slots = t.slots :=
  ((mixedFrom_framed before outs t).same .slots (by decide)).trans
    ((saturationsRaised_inner before outs _).same .slots (by decide))

theorem mixedFrom_raises_saturation : (mixedFrom before outs t).link.raises.get 9 =
    inc32^[(List.finRange 8).countP fun k => (outs.get k).clipped && !(before.buses.get k).saturated]
      (t.link.raises.get 9) := by
  have link := (mixedFrom_framed before outs t).same .link (by decide)
  have raised := saturationsRaised_raises before outs (t.modMixer (mixedBuses outs))
  rw [modMixer_link] at raised
  rw [← raised]
  exact congrArg (fun l : Link => l.raises.get 9) link

theorem mixedFrom_raises_unaligned : (mixedFrom before outs t).link.raises.get 8 = t.link.raises.get 8 := by
  have link := (mixedFrom_framed before outs t).same .link (by decide)
  have raised := saturationsRaised_raises_unaligned before outs (t.modMixer (mixedBuses outs))
  rw [modMixer_link] at raised
  rw [← raised]
  exact congrArg (fun l : Link => l.raises.get 8) link

theorem mixedFrom_framer (p : Fin 4) : (mixedFrom before outs t).framer p =
    (t.prog p).record.elim (t.framer p) fun r => frameTick outs r (t.framer p) := by
  have raised := saturationsRaised_inner before outs (t.modMixer (mixedBuses outs))
  have framer : (saturationsRaised before outs (t.modMixer (mixedBuses outs))).framer p = t.framer p :=
    congrArg (fun v => v.get p) (raised.same .framers (by decide))
  have prog : (saturationsRaised before outs (t.modMixer (mixedBuses outs))).prog p = t.prog p :=
    congrArg (fun v => v.get p) (raised.same .progs (by decide))
  have progs (p q : Fin 4) (u : State) : (frameProgram outs p u).prog q = u.prog q :=
    congrArg (fun v => v.get q) ((frameProgram_inner outs p u).same .progs (by decide))
  have each := eachProgram_at (f := frameProgram outs) (g := fun u p => (u.framer p, u.prog p))
    (h := fun _ x => (x.2.record.elim x.1 fun r => frameTick outs r x.1, x.2))
    (fun p u => by rw [frameProgram_own, progs]) (fun p q u other => by rw [frameProgram_other _ other, progs])
    (saturationsRaised before outs (t.modMixer (mixedBuses outs))) p
  rw [← framer, ← prog]
  exact congrArg Prod.fst each

end

theorem sampleTick_eq (s : State) : sampleTick s = mixedFrom s.mixer (busOuts s) (handFrames s) := by
  have frames (outs : Vector BusOut 8) : frameProgram outs = fun p t => match (t.prog p).record with
      | some r => t.modFramer p (frameTick outs r)
      | none => t := by
    funext p t
    unfold frameProgram
    cases (t.prog p).record <;> rfl
  unfold mixedFrom
  rw [frames]
  rfl

theorem sampleTick_mixer (s : State) : (sampleTick s).mixer = mixedBuses (busOuts s) s.mixer := by
  rw [sampleTick_eq, mixedFrom_mixer]
  exact congrArg _ ((handFrames_inner s).same .mixer (by decide))

theorem sampleTick_slot (s : State) (i : Fin 4) : (sampleTick s).slot i = depthChecked (handedOver (s.slot i)) := by
  rw [sampleTick_eq, ← handFrames_slot]
  unfold State.slot
  rw [mixedFrom_slots]

theorem sampleTick_raises_unaligned (s : State) : (sampleTick s).link.raises.get 8 =
    inc32^[(List.finRange 4).countP fun i => leavesDepth (handedOver (s.slot i))] (s.link.raises.get 8) := by
  rw [sampleTick_eq, mixedFrom_raises_unaligned, handFrames_raises]

theorem sampleTick_raises_saturation (s : State) : (sampleTick s).link.raises.get 9 =
    inc32^[(List.finRange 8).countP fun k => ((busOuts s).get k).clipped && !(s.mixer.buses.get k).saturated]
      (s.link.raises.get 9) := by
  rw [sampleTick_eq, mixedFrom_raises_saturation, handFrames_raises_ne s (by decide) (by decide)]

theorem sampleTick_framer (s : State) (p : Fin 4) : (sampleTick s).framer p =
    (s.prog p).record.elim (s.framer p) fun r => frameTick (busOuts s) r (s.framer p) := by
  have framer : (handFrames s).framer p = s.framer p :=
    congrArg (fun v => v.get p) ((handFrames_inner s).same .framers (by decide))
  have prog : (handFrames s).prog p = s.prog p :=
    congrArg (fun v => v.get p) ((handFrames_inner s).same .progs (by decide))
  rw [sampleTick_eq, mixedFrom_framer, framer, prog]

/-! ### One sample tick -/

theorem appendSample_eq (b : List Int) (x : Int) :
    appendSample b x = (if 8192 ≤ b.length then b.tail else b) ++ [x] := by
  show (if 8192 ≤ b.length then b.tail ++ [x] else b ++ [x]) = _
  split <;> rfl

/-- Settles O36: each port, bus and framer by itself, and the counts of the two kinds of event. -/
theorem sampleTickFormsTheBuses : Obligations.SampleTickFormsTheBuses := by
  intro s
  refine ⟨sampleTick s, exec_sampleTick s, ?_⟩
  intro sample ramped bitA bitB nextA nextB sum y line delayed ditherA ditherB wide narrow
  have inputs (i : Fin 32) : inputSample s i = sample i := by
    cases bound : s.mixer.bindings.get i with
    | none =>
      rw [inputSample_unbound bound]
      simp only [sample, bound]
    | some binding =>
      rw [inputSample_of_binding bound]
      simp only [sample, bound]
  have byteA (r : BitVec 17) : eightSteps stepA r =
      (∑ j : Fin 8, if bitA (nextA^[j.1] r) then 2 ^ (7 - j.1) else 0, nextA^[8] r) :=
    eightSteps_eq stepA_eq r
  have byteB (r : BitVec 23) : eightSteps stepB r =
      (∑ j : Fin 8, if bitB (nextB^[j.1] r) then 2 ^ (7 - j.1) else 0, nextB^[8] r) :=
    eightSteps_eq stepB_eq r
  have sums (k : Fin 8) : busSum (Vec.tab (inputSample s)) (mapAll (fun _ => rampStep) (s.mixer.buses.get k).cells) =
      sum k := by
    unfold busSum
    simp only [Vec_get_tab, get_mapAll, inputs, sum, Fin.sum_univ_def]
    rfl
  have out (k : Fin 8) : (busOuts s).get k =
      { bus :=
          { s.mixer.buses.get k with
            cells := mapAll (fun _ => ramped) (s.mixer.buses.get k).cells, line := line k
            genA := nextA^[8] (s.mixer.buses.get k).genA, genB := nextB^[8] (s.mixer.buses.get k).genB
            saturations := if sum k != y k then incSat16 (s.mixer.buses.get k).saturations
              else (s.mixer.buses.get k).saturations
            narrowings := if wide k != narrow k then incSat16 (s.mixer.buses.get k).narrowings
              else (s.mixer.buses.get k).narrowings
            saturated := (s.mixer.buses.get k).saturated || sum k != y k }
        clipped := sum k != y k, y24 := delayed k, y16 := narrow k } := by
    unfold busOuts
    rw [Vec_get_tab]
    unfold busTick
    dsimp only
    rw [sums k, byteA, byteB]
    rfl
  rw [sampleTick_mixer]
  refine ⟨fun k => ?_, ?_, rfl, rfl, rfl, ?_, ?_, fun p => ⟨fun idle => ?_, fun r present filling => ?_⟩⟩
  · intro b c
    have formed : c = ((busOuts s).get k).bus := Vec_get_tab _ k
    rw [formed, out]
    refine ⟨fun i => get_mapAll .., rfl, rfl, rfl, rfl, rfl, rfl, ?_, rfl, ?_⟩
    · by_cases same : sum k = y k <;> simp [same, incSat16, b]
    · by_cases same : wide k = narrow k <;> simp [same, incSat16, b]
  · rw [sampleTick_raises_saturation]
    simp only [out]
    rfl
  · show (((busOuts s).get _).y24, ((busOuts s).get _).y24) = _
    rw [out, out]
  · intro leaves
    refine ⟨fun i => ⟨fun aligned => ?_, fun other => ?_⟩, ?_⟩
    · rw [sampleTick_slot]
      simp [handedOver, depthChecked, leavesDepth, aligned, leaves]
    · rw [sampleTick_slot]
      simp [handedOver, depthChecked, leavesDepth, other]
    · rw [sampleTick_raises_unaligned]
      refine congrFun (congrArg _ (List.countP_congr fun i _ => ?_)) _
      by_cases aligned : (s.slot i).st = .aligned <;> simp [handedOver, leavesDepth, aligned, leaves]
  · rw [sampleTick_framer]
    rcases idle with absent | still
    · rw [absent]; rfl
    · cases (s.prog p).record with
      | none => rfl
      | some r => exact if_neg (by simpa using still)
  · have filled : frameTick (busOuts s) r (s.framer p) = _ := if_pos filling
    rw [sampleTick_framer, present]
    refine filled.trans ?_
    simp only [out, List.zipWith_map_right]
    refine congrArg₂ (fun b n => { s.framer p with buffers := b, slips := n }) ?_ rfl
    congr 1
    funext b k
    exact appendSample_eq b _

end Sys2Proof.Machine
end

section
/-! PROOFS. The segment store and the resend window, one rule for each operation: frames, frees, the retention release
(R114, R116) and the age expiry (R165, R169). -/

namespace Sys2Proof.Machine

set_option Elab.async false

/-! ### Frames -/

/-- Two states agree where each of their parts does. -/
theorem State.eq_of_same {s t : State} (h : ∀ p, samePart p s t) : t = s := by
  obtain ⟨_, _, _, _, _, _, _, _, _, _, _, _, _, _, _, _, _, _, _, _, _, _⟩ := s
  obtain ⟨_, _, _, _, _, _, _, _, _, _, _, _, _, _, _, _, _, _, _, _, _, _⟩ := t
  obtain rfl := h .tb
  obtain rfl := h .progs
  obtain rfl := h .ports
  obtain rfl := h .intakes
  obtain rfl := h .coders
  obtain rfl := h .loops
  obtain rfl := h .tables
  obtain rfl := h .alloc
  obtain rfl := h .slots
  obtain rfl := h .mixer
  obtain rfl := h .framers
  obtain rfl := h .store
  obtain rfl := h .chains
  obtain rfl := h .mem
  obtain rfl := h .paths
  obtain rfl := h .uplink
  obtain rfl := h .sched
  obtain rfl := h .lives
  obtain rfl := h .clips
  obtain rfl := h .lines
  obtain rfl := h .link
  obtain rfl := h .pending
  rfl

/-- The state `s` with the parts `ps` as they stand in `t`. -/
def withParts (ps : List Part) (s t : State) : State :=
  { tb := if Part.tb ∈ ps then t.tb else s.tb
    progs := if Part.progs ∈ ps then t.progs else s.progs
    ports := if Part.ports ∈ ps then t.ports else s.ports
    intakes := if Part.intakes ∈ ps then t.intakes else s.intakes
    coders := if Part.coders ∈ ps then t.coders else s.coders
    loops := if Part.loops ∈ ps then t.loops else s.loops
    tables := if Part.tables ∈ ps then t.tables else s.tables
    alloc := if Part.alloc ∈ ps then t.alloc else s.alloc
    slots := if Part.slots ∈ ps then t.slots else s.slots
    mixer := if Part.mixer ∈ ps then t.mixer else s.mixer
    framers := if Part.framers ∈ ps then t.framers else s.framers
    store := if Part.store ∈ ps then t.store else s.store
    chains := if Part.chains ∈ ps then t.chains else s.chains
    mem := if Part.mem ∈ ps then t.mem else s.mem
    paths := if Part.paths ∈ ps then t.paths else s.paths
    uplink := if Part.uplink ∈ ps then t.uplink else s.uplink
    sched := if Part.sched ∈ ps then t.sched else s.sched
    lives := if Part.lives ∈ ps then t.lives else s.lives
    clips := if Part.clips ∈ ps then t.clips else s.clips
    lines := if Part.lines ∈ ps then t.lines else s.lines
    link := if Part.link ∈ ps then t.link else s.link
    pending := if Part.pending ∈ ps then t.pending else s.pending }

/-- What an operation leaves is the state before it but for the parts that it may change. -/
theorem Inner.frame {ps : List Part} {s t : State} (h : Inner ps s t) : t = withParts ps s t :=
  State.eq_of_same fun p => by
    by_cases listed : p ∈ ps
    · cases p <;> first | trivial | exact (if_pos listed).symm
    · have same := h.same p listed
      cases p <;> first | trivial | exact same.trans (if_neg listed).symm

theorem freeZero_frame (s : State) :
    freeZero s = { s with chains := (freeZero s).chains, store := (freeZero s).store } := (freeZero_inner s).frame

theorem removeEntries_frame (gone : Entry → Bool) (s : State) : removeEntries gone s =
    { s with
      chains := (removeEntries gone s).chains
      sched := { s.sched with window := s.sched.window.filter fun e => !gone e } } := by
  rw [← removeEntries_sched]
  exact (removeEntries_inner gone s).frame

/-- Entries that are abandoned leave the window and join the abandoned list (R165). -/
theorem abandon_frame (gone : Entry → Bool) (s : State) : abandon gone s =
    { s with
      chains := (abandon gone s).chains
      sched := { s.sched with
        window := s.sched.window.filter fun e => !gone e
        abandoned := abandonedWith s.sched.abandoned ((s.sched.window.filter gone).map Entry.send) } } := by
  show (removeEntries gone s).modSched (fun c =>
    { c with abandoned := abandonedWith c.abandoned ((s.sched.window.filter gone).map Entry.send) }) = _
  have chains : (abandon gone s).chains = (removeEntries gone s).chains := rfl
  rw [chains, removeEntries_frame]
  rfl

/-! ### Frees (R116) -/

theorem modSegs_chain (p q : Fin 4) (f : Segment → Segment) (s : State) :
    (modSegs p f s).chain q = if p = q then { s.chain q with segs := (s.chain q).segs.map f } else s.chain q := by
  unfold modSegs
  rw [modChain_chain]
  by_cases same : p = q
  · rw [if_pos same, if_pos same, same]
  · rw [if_neg same, if_neg same]

/-- The numbers of the segments that nothing holds, by program. -/
def zeroNumbers (s : State) : List Nat :=
  zeroHolds (s.chain 0) ++ zeroHolds (s.chain 1) ++ zeroHolds (s.chain 2) ++ zeroHolds (s.chain 3)

theorem ascending_eq_nil {l : List Nat} : ascending l = [] ↔ l = [] := by
  rw [← List.length_eq_zero_iff, (ascending_perm l).length_eq, List.length_eq_zero_iff]

theorem zeroHolds_eq_nil {c : Chain} (h : zeroHolds c = []) : (c.segs.filter fun g => hold g != 0) = c.segs := by
  have none' := List.map_eq_nil_iff.mp h
  refine List.filter_eq_self.mpr fun g mem => ?_
  have := List.filter_eq_nil_iff.mp none' g mem
  simpa using this

theorem mem_zeroNumbers {s : State} {n : Nat} :
    n ∈ zeroNumbers s ↔ ∃ p, ∃ g ∈ (s.chain p).segs, hold g = 0 ∧ g.number = n := by
  have one (c : Chain) : n ∈ zeroHolds c ↔ ∃ g ∈ c.segs, hold g = 0 ∧ g.number = n := by
    simp [zeroHolds, and_assoc]
  simp only [zeroNumbers, List.mem_append, one, Fin.exists_fin_succ, Fin.exists_fin_zero, or_false, or_assoc]
  rfl

theorem freeZero_of_none {s : State} (none' : zeroNumbers s = []) : freeZero s = s := by
  have sorted := ascending_eq_nil.mpr none'
  unfold zeroNumbers at sorted
  unfold freeZero
  rw [sorted]

/-- The state in which every segment of hold 0 has left its chain. -/
def freedState (s : State) : State :=
  { s with
    chains := mapAll (fun _ c => { c with segs := c.segs.filter fun g => hold g != 0 }) s.chains
    store :=
      { s.store with
        freeList := s.store.freeList ++ ascending (zeroNumbers s)
        freed := (s.store.freed + (zeroNumbers s).length) % 2 ^ 32 } }

theorem freeZero_of_some {s : State} (some' : zeroNumbers s ≠ []) : freeZero s = clearPressure (freedState s) := by
  have length : (ascending (zeroNumbers s)).length = (zeroNumbers s).length := (ascending_perm _).length_eq
  obtain ⟨n, ns, sorted⟩ := List.exists_cons_of_ne_nil (mt ascending_eq_nil.mp some')
  have sorted' := sorted
  unfold zeroNumbers at sorted'
  unfold freeZero freedState
  rw [sorted', ← length, sorted]

theorem freeZero_chain (s : State) (p : Fin 4) :
    (freeZero s).chain p = { s.chain p with segs := (s.chain p).segs.filter fun g => hold g != 0 } := by
  by_cases none' : zeroNumbers s = []
  · have empty : zeroHolds (s.chain p) = [] := by
      simp only [zeroNumbers, List.append_eq_nil_iff] at none'
      obtain ⟨⟨⟨h0, h1⟩, h2⟩, h3⟩ := none'
      match p with
      | 0 => exact h0
      | 1 => exact h1
      | 2 => exact h2
      | 3 => exact h3
    rw [freeZero_of_none none', zeroHolds_eq_nil empty]
  · rw [freeZero_of_some none']
    have chains : (clearPressure (freedState s)).chains = (freedState s).chains :=
      (clearPressure_inner _).same .chains (by decide)
    unfold State.chain
    rw [chains]
    exact get_mapAll ..

theorem clearPressure_freeList (s : State) : (clearPressure s).store.freeList = s.store.freeList := by
  unfold clearPressure
  split <;> rfl

theorem clearPressure_freed (s : State) : (clearPressure s).store.freed = s.store.freed := by
  unfold clearPressure
  split <;> rfl

theorem freeZero_freeList (s : State) :
    (freeZero s).store.freeList = s.store.freeList ++ ascending (zeroNumbers s) := by
  by_cases none' : zeroNumbers s = []
  · rw [freeZero_of_none none', none']
    exact (List.append_nil _).symm
  · rw [freeZero_of_some none', clearPressure_freeList]
    rfl

theorem freeZero_freed {s : State} (some' : zeroNumbers s ≠ []) :
    (freeZero s).store.freed = (s.store.freed + (zeroNumbers s).length) % 2 ^ 32 := by
  rw [freeZero_of_some some', clearPressure_freed]
  rfl

theorem zeroNumbers_nodup {s : State} (conserved : SegmentsConserved s) : (zeroNumbers s).Nodup := by
  have part (c : Chain) : (zeroHolds c).Sublist (chainNumbers c) := List.filter_sublist.map _
  exact (numbers_nodup conserved).sublist ((((part _).append (part _)).append (part _)).append (part _))

theorem ascending_strict {l : List Nat} (nodup : l.Nodup) : (ascending l).Pairwise (· < ·) := by
  have distinct : (ascending l).Nodup := (ascending_perm l).nodup_iff.mpr nodup
  exact ((ascending_sorted l).and distinct).imp fun h => Nat.lt_of_le_of_ne h.1 h.2

/-! ### The retention release (R114) -/

/-- A segment at the retention release. -/
def retentionCleared (s : State) (p : Fin 4) (g : Segment) : Segment :=
  if g.isSealed && g.retention && retentionOver s (s.tb.retentions.get p) g then { g with retention := false } else g

theorem retentionRelease_chain (s : State) (p : Fin 4) : (retentionRelease s).chain p =
    { s.chain p with segs := (s.chain p).segs.map (retentionCleared s p) } := by
  have each := eachProgram_at (f := fun p t => modSegs p (retentionCleared t p) t)
    (g := fun t p => (t.chain p, t.tb)) (h := fun p x =>
      ({ x.1 with segs := x.1.segs.map (retentionCleared { s with tb := x.2 } p) }, x.2))
    (fun p t => by rw [modSegs_chain, if_pos rfl]; rfl)
    (fun p q t other => by rw [modSegs_chain, if_neg (Ne.symm other)]; rfl) s p
  exact congrArg Prod.fst each

/-- Settles O39. -/
theorem retentionReleaseFreesSegments : Obligations.RetentionReleaseFreesSegments := by
  intro s conserved
  have conserved' : SegmentsConserved (retentionRelease s) := (retentionRelease_inner s).numbers.trans conserved
  have frame := freeZero_inner (retentionRelease s)
  have released := retentionRelease_inner s
  refine ⟨retentionTick s, ascending (zeroNumbers (retentionRelease s)), exec_retentionRelease s, ?_⟩
  intro past cleared heldBy
  have held (g : Segment) : heldBy g = hold g := (hold_eq g).symm
  have clears (p : Fin 4) : ((retentionRelease s).chain p).segs = cleared p := by
    have exceeds (g : Segment) : retentionOver s (s.tb.retentions.get p) g = past p g := rfl
    rw [retentionRelease_chain]
    exact List.map_congr_left fun g _ => by unfold retentionCleared; rw [exceeds]
  refine ⟨fun p => ?_, fun n => ?_, ascending_strict (zeroNumbers_nodup conserved'), ?_, fun some' => ?_, ?_, ?_, ?_, ?_,
    ?_⟩
  · have chain := freeZero_chain (retentionRelease s) p
    rw [clears] at chain
    simp only [held]
    refine chain.trans ?_
    rw [retentionRelease_chain]
  · rw [(ascending_perm _).mem_iff, mem_zeroNumbers]
    simp only [clears, held]
  · have list := freeZero_freeList (retentionRelease s)
    rwa [released.same .store (by decide)] at list
  · have count := freeZero_freed (mt ascending_eq_nil.mpr some')
    rw [released.same .store (by decide)] at count
    rw [(ascending_perm _).length_eq]
    exact count
  · exact (frame.same .mem (by decide)).trans (released.same .mem (by decide))
  · exact (frame.same .progs (by decide)).trans (released.same .progs (by decide))
  · exact (frame.same .sched (by decide)).trans (released.same .sched (by decide))
  · exact (frame.same .clips (by decide)).trans (released.same .clips (by decide))
  · exact (frame.same .link (by decide)).trans (released.same .link (by decide))

/-! ### The age expiry (R169) -/

/-- The entries that an age expiry takes. -/
def expires (due : Entry → Bool) (s : State) (e : Entry) : Bool :=
  due e && e.isLive && decide (s.sched.deadlineInForce ≤ age s e)

theorem expireEntries_frame (due : Entry → Bool) (s : State) : expireEntries due s =
    { s with
      chains := (expireEntries due s).chains
      sched := { s.sched with
        window := s.sched.window.filter fun e => !expires due s e
        abandoned := abandonedWith s.sched.abandoned ((s.sched.window.filter (expires due s)).map Entry.send)
        byAge := (s.sched.byAge + s.sched.window.countP (expires due s)) % 2 ^ 32 } } := by
  have formed : expireEntries due s = (abandon (expires due s) s).modSched fun c =>
      { c with byAge := (c.byAge + (s.sched.window.filter (expires due s)).length) % 2 ^ 32 } := rfl
  have chains : (expireEntries due s).chains = (abandon (expires due s) s).chains := by
    rw [formed, modSched_chains]
  rw [chains, formed, List.countP_eq_length_filter]
  conv_lhs => rw [abandon_frame]
  unfold State.modSched
  dsimp only

/-- Settles O47. -/
theorem agedEntriesAreAbandoned : Obligations.AgedEntriesAreAbandoned := by
  intro n s
  refine ⟨_, exec_entryAgeExpiry n s, ?_⟩
  intro aged numbers
  have same (e : Entry) : expires (fun e => e.send == n) s e = aged e := by
    obtain ⟨send, place, path, first, resends, queued⟩ := e
    cases place with
    | label c r => exact (Bool.and_assoc ..).trans (Bool.and_false _)
    | clip => exact (Bool.and_assoc ..).trans (Bool.and_false _)
    | live => exact congrArg (· && _) (Bool.and_true _)
  have sends : (s.sched.window.filter aged).map Entry.send = List.replicate (s.sched.window.countP aged) n := by
    rw [List.countP_eq_length_filter]
    refine List.eq_replicate_iff.mpr ⟨List.length_map _, fun m mem => ?_⟩
    obtain ⟨e, selected, rfl⟩ := List.mem_map.mp mem
    have is := (List.mem_filter.mp selected).2
    rw [← same, expires, Bool.and_eq_true, Bool.and_eq_true, beq_iff_eq] at is
    exact is.1.1
  have expired := expireEntries_frame (fun e => e.send == n) s
  rw [show expires (fun e => e.send == n) s = aged from funext same, sends] at expired
  refine (freeZero_frame _).trans ?_
  rw [expired]
  rfl

end Sys2Proof.Machine
end

section
/-! PROOFS. What the end of an event keeps: a property of states that each operation of the scheduler, of drains and of
shipping keeps, `settle` keeps (R16, R116, R135, R157, R162, R189). -/

namespace Sys2Proof.Machine

set_option Elab.async false

/-- A path that walks the class order: UP or DEGRADED, with an idle port (R157). -/
def Idles (l : Fin 6) (s : State) : Prop := carries (s.path l) = true ∧ (s.path l).port = none

/-- A path that may take a packet: one that walks the class order, and has credit (R157). -/
def Asks (l : Fin 6) (s : State) : Prop := carries (s.path l) = true ∧ (s.path l).port = none ∧ 0 < (s.path l).credit

theorem Idles.of_paths {l : Fin 6} {s t : State} (idles : Idles l s) (paths : t.paths = s.paths) : Idles l t := by
  unfold Idles State.path at idles ⊢
  rwa [paths]

/-- What each operation inside the end of an event keeps, under the conditions that it is taken on. -/
structure SettleKeeps (P : State → Prop) : Prop where
  asking : ∀ s v, P s → P (s.modSched fun c => { c with asking := v })
  probe : ∀ l s, P s → (s.path l).st = .probing → (s.path l).port = none → Config.probeBits ≤ (s.path l).credit →
    P (sendProbe l s)
  label : ∀ l c k rest s, P s → Asks l s → (reliableEntries s).length < 2048 → s.sched.labelQueue = c :: rest →
    clipAt c s = some k → P (takeLabel l c k s)
  resend : ∀ l e s, P s → Asks l s → e ∈ resendQueue s → P (takeResend l e s)
  live : ∀ l p s, P s → Asks l s → liveLength p s ≠ 0 → P (takeLive l p (liveLength p s) s)
  clip : ∀ l k len s, P s → Asks l s → (reliableEntries s).length < 2048 → s.sched.clipCursor = some k →
    0 < len → len ≤ k.out - k.next → P (takeClip l k len s)
  stale : ∀ p s, P s → P (staleCheck p s)
  ended : ∀ p s, P s → writingDone p s = true → P (endWriting p s)
  drain : ∀ p s, P s → drained p s = true → P (completeDrain p s)
  shipped : ∀ s, P s → shipDone s = true → P (completeShip s)
  started : ∀ s, P s → shipCanStart s = true → P (startShip s)
  frees : ∀ s, P s → P (freeZero s)

section
variable {P : State → Prop}

/-- What a walk of a path keeps. -/
def WalkHolds (P : State → Prop) (l : Fin 6) : Walk → Prop
  | .goOn s => P s ∧ Idles l s
  | .ended s => P s

theorem WalkHolds.next {l : Fin 6} {w : Walk} {f : State → Walk} (holds : WalkHolds P l w)
    (rest : ∀ s, P s → Idles l s → WalkHolds P l (f s)) : WalkHolds P l (w.next f) := by
  cases w with
  | goOn s => exact rest s holds.1 holds.2
  | ended s => exact holds

theorem WalkHolds.state {l : Fin 6} {w : Walk} (holds : WalkHolds P l w) : P w.state := by
  cases w with
  | goOn s => exact holds.1
  | ended s => exact holds

/-- A candidate that a path may take is one that its credit pays for. -/
theorem asks_of_judge {l : Fin 6} {bytes : Nat} {s : State} (idles : Idles l s) (pays : judge l (packetBits bytes) s = .take) :
    Asks l s := by
  refine ⟨idles.1, idles.2, ?_⟩
  unfold judge at pays
  dsimp only at pays
  split at pays
  · cases pays
  · split at pays
    · cases pays
    · rename_i enough
      exact Nat.lt_of_lt_of_le (by unfold packetBits; omega) (Nat.not_lt.mp enough)

theorem offer_holds {l : Fin 6} {s : State} {take : State → State} (bytes : Nat) (holds : P s) (idles : Idles l s)
    (taken : Asks l s → P (take s)) : WalkHolds P l (offer l (packetBits bytes) take s) := by
  unfold offer
  split
  · exact ⟨holds, idles⟩
  · exact holds
  · exact taken (asks_of_judge idles ‹_›)

theorem offerResends_holds (K : SettleKeeps P) {l : Fin 6} {s : State} (holds : P s) (idles : Idles l s) :
    ∀ es : List Entry, (∀ e ∈ es, e ∈ resendQueue s) → WalkHolds P l (offerResends l es s)
  | [], _ => ⟨holds, idles⟩
  | e :: es, queued => by
    unfold offerResends offer
    split
    · exact offerResends_holds K holds idles es fun x mem => queued x (List.mem_cons_of_mem _ mem)
    · exact holds
    · exact K.resend l e s holds (asks_of_judge idles ‹_›) (queued e List.mem_cons_self)

theorem resendCandidates_queued (l : Fin 6) (strict : Bool) (s : State) :
    ∀ e ∈ resendCandidates l strict s, e ∈ resendQueue s := by
  intro e mem
  unfold resendCandidates at mem
  dsimp only at mem
  split at mem
  · split at mem
    · cases mem
    · exact mem
  · exact (List.mem_filter.mp mem).1

section
variable (K : SettleKeeps P) {l : Fin 6} {s : State} (holds : P s) (idles : Idles l s)
include K holds idles

theorem labelStep_holds : WalkHolds P l (labelStep l s) := by
  unfold labelStep
  split
  · exact ⟨holds, idles⟩
  · rename_i full
    have room : (reliableEntries s).length < 2048 := by simpa [Config.maxReliableEntries] using full
    split
    · exact ⟨holds, idles⟩
    · rename_i c rest waits
      split
      · exact ⟨holds, idles⟩
      · rename_i k present
        exact offer_holds _ holds idles fun asks => K.label l c k rest s holds asks room waits present

theorem repairStep_holds : WalkHolds P l (repairStep l s) := by
  unfold repairStep
  split
  · exact offerResends_holds K holds idles _ (resendCandidates_queued l true s)
  · exact ⟨holds, idles⟩

theorem resendStep_holds : WalkHolds P l (resendStep l s) :=
  offerResends_holds K holds idles _ (resendCandidates_queued l false s)

theorem liveTurn_holds (p : Fin 4) : WalkHolds P l (liveTurn l p s) := by
  have stale := K.stale p s holds
  have idles' := idles.of_paths ((staleCheck_inner p s).same .paths (by decide))
  unfold liveTurn
  dsimp only
  split
  · exact ⟨stale, idles'⟩
  · exact offer_holds _ stale idles' fun asks => K.live l p _ stale asks ‹_›

theorem liveStep_holds : WalkHolds P l (liveStep l s) :=
  (((liveTurn_holds K holds idles _).next fun _ h a => liveTurn_holds K h a _).next fun _ h a =>
    liveTurn_holds K h a _).next fun _ h a => liveTurn_holds K h a _

theorem clipStep_holds : WalkHolds P l (clipStep l s) := by
  unfold clipStep
  split
  · exact ⟨holds, idles⟩
  · rename_i full
    have room : (reliableEntries s).length < 2048 := by simpa [Config.maxReliableEntries] using full
    split
    · exact ⟨holds, idles⟩
    · rename_i k cursor
      dsimp only
      split
      · exact ⟨holds, idles⟩
      · rename_i some'
        split
        · exact ⟨holds, idles⟩
        · split
          · exact holds
          · exact offer_holds _ holds idles fun asks => K.clip l k _ s holds asks room cursor
              (Nat.pos_of_ne_zero some') (Nat.min_le_right ..)

theorem walk_holds : P (walk l s) :=
  (((((labelStep_holds K holds idles).next fun _ h a => repairStep_holds K h a).next fun _ h a =>
    liveStep_holds K h a).next fun _ h a => resendStep_holds K h a).next fun _ h a => clipStep_holds K h a).state

end

section
variable (K : SettleKeeps P) {s : State} (holds : P s)
include K holds

theorem askPath_holds (l : Fin 6) : P (askPath l s) := by
  unfold askPath
  split
  · rename_i may
    rw [Bool.and_eq_true, Option.isNone_iff_eq_none] at may
    exact walk_holds K holds may
  · exact holds

theorem sendProbe_holds (l : Fin 6) : P (sendProbe l s) := by
  by_cases may : ((s.path l).st == .probing && (s.path l).port.isNone &&
      decide (Config.probeBits ≤ (s.path l).credit)) = true
  · have conditions := may
    rw [Bool.and_eq_true, Bool.and_eq_true, beq_iff_eq, Option.isNone_iff_eq_none, decide_eq_true_eq] at conditions
    exact K.probe l s holds conditions.1.1 conditions.1.2 conditions.2
  · have stands : sendProbe l s = s := if_neg may
    rwa [stands]

omit K holds in
theorem eachPath_holds {f : Fin 6 → State → State} (each : ∀ l s, P s → P (f l s)) {s : State} (holds : P s) :
    P (eachPath f s) :=
  each 5 _ (each 4 _ (each 3 _ (each 2 _ (each 1 _ (each 0 s holds)))))

omit K holds in
theorem eachProgram_holds {f : Fin 4 → State → State} (each : ∀ p s, P s → P (f p s)) {s : State} (holds : P s) :
    P (eachProgram f s) :=
  each 3 _ (each 2 _ (each 1 _ (each 0 s holds)))

theorem servePaths_holds : P (servePaths s) := by
  unfold servePaths
  dsimp only
  refine eachPath_holds (P := P) (fun l t held => ?_) (K.asking s _ holds)
  refine sendProbe_holds K ?_ l
  split
  · exact askPath_holds K held l
  · exact held

theorem endWriting_holds (p : Fin 4) : P (endWriting p s) := by
  by_cases done : writingDone p s = true
  · exact K.ended p s holds done
  · have stands : endWriting p s = s := if_neg done
    rwa [stands]

theorem completeDrain_holds (p : Fin 4) : P (completeDrain p s) := by
  by_cases done : drained p s = true
  · exact K.drain p s holds done
  · have stands : completeDrain p s = s := if_neg done
    rwa [stands]

theorem settlePrograms_holds : P (settlePrograms s) := by
  unfold settlePrograms
  exact eachProgram_holds (P := P) (fun p _ held => completeDrain_holds K (endWriting_holds K held p) p) holds

theorem settleShipN_holds (n : Nat) : P (settleShipN n s) := by
  induction n generalizing s with
  | zero => exact holds
  | succ n ih =>
    unfold settleShipN
    split
    · exact ih (K.shipped s holds ‹_›)
    · split
      · exact ih (K.started s holds ‹_›)
      · exact holds

theorem settleQuiet_holds : P (settleQuiet s) := by
  unfold settleQuiet settleShip
  exact settleShipN_holds K (settlePrograms_holds K holds) 130

theorem settleN_holds (n : Nat) : P (settleN n s) := by
  induction n generalizing s with
  | zero => exact K.asking s _ holds
  | succ n ih =>
    have once := settleQuiet_holds K (servePaths_holds K holds)
    unfold settleN
    dsimp only
    split
    · exact once
    · exact ih once

/-- What each operation inside the end of an event keeps, the end of the event keeps. -/
theorem settle_holds : P (settle s) := by
  unfold settle
  exact K.frees _ (settleN_holds K (settleQuiet_holds K holds) 16)

end

end

/-! ### The parts that each packet changes -/

/-- The parts that a packet of no program changes. -/
abbrev packetParts : List Part := [.overfull, .paths, .sched, .chains, .clips]

theorem takeLabel_parts (l : Fin 6) (c : Nat) (k : Clip) (s : State) : Inner packetParts s (takeLabel l c k s) := by
  unfold takeLabel
  dsimp only
  refine Inner.andThen ?_ (labelSent_inner c k.revision _)
  refine Inner.andThen ?_ (enterWindow_inner _ _)
  exact ((handOver_inner l _ _ s).widen).andThen (modSched_inner' _ _)

theorem takeResend_parts (l : Fin 6) (e : Entry) (s : State) : Inner packetParts s (takeResend l e s) := by
  unfold takeResend
  dsimp only
  refine Inner.andThen ?_ (modSched_inner' _ _)
  refine Inner.andThen ?_ (reportLabel_inner _ _)
  refine Inner.andThen ?_ (removeEntries_inner _ _)
  refine Inner.andThen ?_ (enterWindow_inner _ _)
  exact (handOver_inner l _ _ s).widen

theorem takeClip_parts (l : Fin 6) (k : ClipCursor) (len : Nat) (s : State) :
    Inner packetParts s (takeClip l k len s) := by
  unfold takeClip
  dsimp only
  refine Inner.andThen ?_ (modClip_inner _ _ _)
  refine Inner.andThen ?_ (modSched_inner' _ _)
  refine Inner.andThen ?_ (enterWindow_inner _ _)
  exact (handOver_inner l _ _ s).widen

end Sys2Proof.Machine
end

section
/-! PROOFS. What the end of an event leaves unchanged: programs that do not drain, live cursors with nothing to send,
paths that send nothing, counts of events, and the ages of the live entries. -/

namespace Sys2Proof.Machine

set_option Elab.async false

/-! ### Programs -/

theorem prog_of_same {ps : List Part} {s t : State} (kept : Inner ps s t) (not : Part.progs ∉ ps) (p : Fin 4) :
    t.prog p = s.prog p := congrArg (fun v => v.get p) (kept.same .progs not)

theorem enterIdle_prog (p q : Fin 4) (cause : IdleCause) (s : State) : (enterIdle p cause s).prog q =
    if p = q then { s.prog q with st := .idle, drainPicture := none } else s.prog q := by
  unfold enterIdle
  rw [prog_of_same (closeAtIdle_inner p _) (by decide), prog_of_same (raise_inner .programIdle _ _) (by decide),
    modProg_prog]
  by_cases same : p = q
  · rw [if_pos same, if_pos same, same]
  · rw [if_neg same, if_neg same]

theorem endWriting_of_done {p : Fin 4} {s : State} (done : writingDone p s = true) :
    endWriting p s = (sealOpen p s).modProg p fun g => { g with writingEnded := true } := if_pos done

theorem completeDrain_of_drained {p : Fin 4} {s : State} (done : drained p s = true) :
    completeDrain p s = enterIdle p .drained (s.modLive p fun v => { v with cursor := none }) := if_pos done

theorem endWriting_prog {p : Fin 4} {s : State} (done : writingDone p s = true) (q : Fin 4) :
    (endWriting p s).prog q = if p = q then { s.prog q with writingEnded := true } else s.prog q := by
  have sealed := prog_of_same (sealOpen_inner p s) (by decide)
  rw [endWriting_of_done done, modProg_prog, sealed, sealed]
  by_cases same : p = q
  · rw [if_pos same, if_pos same, same]
  · rw [if_neg same, if_neg same]

theorem completeDrain_prog {p : Fin 4} {s : State} (done : drained p s = true) (q : Fin 4) :
    (completeDrain p s).prog q =
      if p = q then { s.prog q with st := .idle, drainPicture := none } else s.prog q := by
  rw [completeDrain_of_drained done, enterIdle_prog]
  rfl

theorem draining_of_done {p : Fin 4} {s : State} (done : writingDone p s = true) : (s.prog p).st = .draining := by
  unfold writingDone at done
  simp only [Bool.and_eq_true, beq_iff_eq] at done
  exact done.1.1.1.1

theorem draining_of_drained {p : Fin 4} {s : State} (done : drained p s = true) : (s.prog p).st = .draining := by
  unfold drained at done
  simp only [Bool.and_eq_true, beq_iff_eq] at done
  exact done.1.1

/-- The programs' blocks, kept by every operation that neither ends the writing nor a drain. -/
theorem SettleKeeps.of_progs {P : Vector Program 4 → Prop}
    (ended : ∀ p s, P s.progs → writingDone p s = true → P (endWriting p s).progs)
    (drain : ∀ p s, P s.progs → drained p s = true → P (completeDrain p s).progs) :
    SettleKeeps fun s => P s.progs := by
  have kept {ps : List Part} {s t : State} (h : Inner ps s t) (not : Part.progs ∉ ps) (holds : P s.progs) :
      P t.progs := by rwa [h.same .progs not]
  constructor
  · exact fun s v holds => holds
  · exact fun l s holds _ _ _ => kept (sendProbe_inner l s) (by decide) holds
  · exact fun l c k rest s holds _ _ _ _ => kept (takeLabel_parts l c k s) (by decide) holds
  · exact fun l e s holds _ _ => kept (takeResend_parts l e s) (by decide) holds
  · exact fun l p s holds _ _ => kept (takeLive_inner l p _ s) (by decide) holds
  · exact fun l k len s holds _ _ _ _ _ => kept (takeClip_parts l k len s) (by decide) holds
  · exact fun p s holds => kept (staleCheck_inner p s) (by decide) holds
  · exact ended
  · exact drain
  · exact fun s holds _ => kept (completeShip_inner s) (by decide) holds
  · exact fun s holds _ => kept (startShip_inner s) (by decide) holds
  · exact fun s holds => kept (freeZero_inner s) (by decide) holds

/-- A program that does not drain keeps its values. -/
theorem settle_prog {s : State} {q : Fin 4} (runs : (s.prog q).st ≠ .draining) : (settle s).prog q = s.prog q := by
  refine settle_holds (P := fun t => t.progs.get q = s.prog q) (SettleKeeps.of_progs
    (P := fun v => v.get q = s.prog q) (fun p t holds done => ?_) fun p t holds done => ?_) rfl
  · have other : p ≠ q := fun e => runs (by rw [← holds, ← e]; exact draining_of_done done)
    exact (endWriting_prog done q).trans ((if_neg other).trans holds)
  · have other : p ≠ q := fun e => runs (by rw [← holds, ← e]; exact draining_of_drained done)
    exact (completeDrain_prog done q).trans ((if_neg other).trans holds)

/-- What the end of an event may make of a program: its writing ends, or its drain does. -/
structure DrainsTo (g h : Program) : Prop where
  record : h.record = g.record
  run : h.run = g.run
  streamOffset : h.streamOffset = g.streamOffset
  accumulator : h.accumulator = g.accumulator
  ended : g.writingEnded = true → h.writingEnded = true
  state : h.st = g.st ∨ g.st = .draining ∧ h.st = .idle

theorem settle_drainsTo (s : State) (q : Fin 4) : DrainsTo (s.prog q) ((settle s).prog q) := by
  refine settle_holds (P := fun t => DrainsTo (s.prog q) (t.progs.get q)) (SettleKeeps.of_progs
    (P := fun v => DrainsTo (s.prog q) (v.get q)) (fun p t holds done => ?_) fun p t holds done => ?_)
    ⟨rfl, rfl, rfl, rfl, id, .inl rfl⟩
  · obtain ⟨record, run, offset, accumulator, ended, state⟩ := holds
    have prog : (endWriting p t).progs.get q = _ := endWriting_prog done q
    rw [prog]
    by_cases same : p = q
    · rw [if_pos same]
      exact ⟨record, run, offset, accumulator, fun _ => rfl, state⟩
    · rw [if_neg same]
      exact ⟨record, run, offset, accumulator, ended, state⟩
  · have prog : (completeDrain p t).progs.get q = _ := completeDrain_prog done q
    have drains := draining_of_drained done
    obtain ⟨record, run, offset, accumulator, ended, state⟩ := holds
    rw [prog]
    by_cases same : p = q
    · rw [if_pos same]
      have before : (s.prog q).st = .draining := by
        rw [same] at drains
        rcases state with h | h
        · exact h.symm.trans drains
        · exact h.1
      exact ⟨record, run, offset, accumulator, ended, .inr ⟨before, rfl⟩⟩
    · rw [if_neg same]
      exact ⟨record, run, offset, accumulator, ended, state⟩

/-! ### Counts of events -/

/-- The kinds that the end of an event raises: PROGRAM_IDLE, CLIP_SHIPPED, and a lost notice. -/
def endKinds : List (Fin 18) := [EventKind.programIdle.index, EventKind.clipShipped.index, EventKind.noticeLost.index]

theorem link_of_same {ps : List Part} {s t : State} (kept : Inner ps s t) (not : Part.link ∉ ps) : t.link = s.link :=
  kept.same .link not

theorem enterIdle_link (p : Fin 4) (cause : IdleCause) (s : State) : (enterIdle p cause s).link =
    (raise .programIdle (u8 p.1 ++ u8 (s.prog p).run ++ u48 (s.prog p).streamOffset ++ u8 cause.code)
      (s.modProg p fun g => { g with st := .idle, drainPicture := none })).link := by
  unfold enterIdle
  exact link_of_same (closeAtIdle_inner p _) (by decide)

theorem enterIdle_raises (p : Fin 4) (cause : IdleCause) (s : State) {j : Fin 18} (other : j ∉ endKinds) :
    (enterIdle p cause s).link.raises.get j = s.link.raises.get j := by
  rw [enterIdle_link]
  exact raise_raises_ne .programIdle _ _ (fun e => other (by simp [endKinds, e]))
    fun e => other (by simp [endKinds, e])

theorem completeShip_raises (s : State) {j : Fin 18} (other : j ∉ endKinds) :
    (completeShip s).link.raises.get j = s.link.raises.get j := by
  unfold completeShip
  split
  · rfl
  · dsimp only
    split
    · rfl
    · exact raise_raises_ne .clipShipped _ _ (fun e => other (by simp [endKinds, e]))
        fun e => other (by simp [endKinds, e])

/-- The link, kept by every operation that neither ends a drain nor the shipping of a clip. -/
theorem SettleKeeps.of_link {P : Link → Prop} (drain : ∀ p s, P s.link → drained p s = true → P (completeDrain p s).link)
    (shipped : ∀ s, P s.link → shipDone s = true → P (completeShip s).link) : SettleKeeps fun s => P s.link := by
  have kept {ps : List Part} {s t : State} (h : Inner ps s t) (not : Part.link ∉ ps) (holds : P s.link) :
      P t.link := by rwa [h.same .link not]
  constructor
  · exact fun s v holds => holds
  · exact fun l s holds _ _ _ => kept (sendProbe_inner l s) (by decide) holds
  · exact fun l c k rest s holds _ _ _ _ => kept (takeLabel_parts l c k s) (by decide) holds
  · exact fun l e s holds _ _ => kept (takeResend_parts l e s) (by decide) holds
  · exact fun l p s holds _ _ => kept (takeLive_inner l p _ s) (by decide) holds
  · exact fun l k len s holds _ _ _ _ _ => kept (takeClip_parts l k len s) (by decide) holds
  · exact fun p s holds => kept (staleCheck_inner p s) (by decide) holds
  · exact fun p s holds _ => kept (endWriting_inner p s) (by decide) holds
  · exact drain
  · exact shipped
  · exact fun s holds _ => kept (startShip_inner s) (by decide) holds
  · exact fun s holds => kept (freeZero_inner s) (by decide) holds

theorem settle_raises (s : State) {j : Fin 18} (other : j ∉ endKinds) :
    (settle s).link.raises.get j = s.link.raises.get j := by
  refine settle_holds (P := fun t => t.link.raises.get j = s.link.raises.get j) (SettleKeeps.of_link
    (P := fun l => l.raises.get j = s.link.raises.get j) (fun p t holds done => ?_) fun t holds _ => ?_) rfl
  · rw [completeDrain_of_drained done]
    exact (enterIdle_raises p .drained _ other).trans holds
  · exact (completeShip_raises t other).trans holds

/-- Latches that are set stay set. -/
theorem settle_latches {s : State} {j : Fin 18} (set : s.link.latches.get j = true) :
    (settle s).link.latches.get j = true := ((settle_inner s).link (by decide)).latches j set

/-! ### Live cursors -/

theorem completeDrain_live {p : Fin 4} {s : State} (done : drained p s = true) (q : Fin 4) :
    (completeDrain p s).live q = if p = q then { s.live q with cursor := none } else s.live q := by
  have kept := (enterIdle_inner p .drained (s.modLive p fun v => { v with cursor := none })).same .lives (by decide)
  rw [completeDrain_of_drained done]
  unfold State.live at *
  rw [kept]
  refine (modLive_live s p q _).trans ?_
  by_cases same : p = q
  · rw [if_pos same, if_pos same, same]
    rfl
  · rw [if_neg same, if_neg same]
    rfl

theorem clearPassed_lives (p : Fin 4) (s : State) : (clearPassed p s).lives = s.lives :=
  (clearPassed_inner p s).same .lives (by decide)

theorem moveCursor_live_ne {p q : Fin 4} (other : p ≠ q) (run off : Nat) (s : State) :
    (moveCursor p run off s).live q = s.live q := by
  unfold moveCursor State.live
  rw [clearPassed_lives]
  exact (modLive_live s p q _).trans (if_neg other)

theorem staleCheck_live_ne {p q : Fin 4} (other : p ≠ q) (s : State) : (staleCheck p s).live q = s.live q := by
  unfold staleCheck
  split
  · rfl
  · split
    · rfl
    · split
      · exact (moveCursor_live_ne other ..).trans ((modLive_live s p q _).trans (if_neg other))
      · rfl

/-- With nothing pending, the staleness check does nothing (R155). -/
theorem staleCheck_of_nothing {p : Fin 4} {s : State} (nothing : pendingBytes p s = 0) : staleCheck p s = s := by
  unfold staleCheck
  split
  · rfl
  · split
    · rfl
    · rw [nothing]
      rfl

/-- With nothing pending, no live packet can be formed (R154). -/
theorem liveLength_of_nothing {p : Fin 4} {s : State} (nothing : pendingBytes p s = 0) : liveLength p s = 0 := by
  unfold liveLength
  rw [nothing]
  have small : ¬Config.maxPayload ≤ 0 := by decide
  simp only [small, if_false]
  split
  · split <;> rfl
  · rfl

/-- The oldest live entry gives way where the window is full (R152). -/
def makeRoom (s : State) : State := if Config.maxLiveEntries ≤ (liveEntries s).length then displace s else s

/-- The cursor and the turn after a live packet (R153, R160). -/
def liveServed (p : Fin 4) (run next : Nat) (s : State) : State :=
  ((moveCursor p run next s).modLive p fun v => { v with packets := incWrap32 v.packets }).modSched fun d =>
    { d with lastServed := p }

/-- The header of a live packet, and its entry (R154, R214). -/
def liveHeader (p : Fin 4) (run off : Nat) (s : State) : Header :=
  { cls := classPicture, program := p.1, clip := 255, run := run, path := 0, flags := 0, revision := 0,
    sequence := 0, send := 0, reference := off, picture := pictureAt p run off s }

def liveEntry (l : Fin 6) (p : Fin 4) (run off len : Nat) (s : State) : Entry :=
  ⟨s.sched.nextSend, .live p.1 run (segmentAt p run off s) off len, l.1, s.tb.pacing, 0, false⟩

theorem takeLive_of_cursor {p : Fin 4} {s : State} {run off : Nat} (cursor : (s.live p).cursor = some (run, off))
    (l : Fin 6) (len : Nat) : takeLive l p len s = liveServed p run (off + len) (enterWindow (liveEntry l p run off len s)
      (makeRoom (handOver l (liveHeader p run off s) (streamBytes p run off len s) s))) := by
  unfold takeLive
  rw [cursor]
  rfl

theorem takeLive_of_no_cursor {p : Fin 4} {s : State} (absent : (s.live p).cursor = none) (l : Fin 6) (len : Nat) :
    takeLive l p len s = s := by
  unfold takeLive
  rw [absent]

theorem makeRoom_inner (s : State) : Inner [.chains, .sched] s (makeRoom s) := .ite (displace_inner s) (.refl _ s)

theorem liveServed_live_ne {p q : Fin 4} (other : p ≠ q) (run next : Nat) (s : State) :
    (liveServed p run next s).live q = s.live q := by
  show ((moveCursor p run next s).modLive p fun v => { v with packets := incWrap32 v.packets }).live q = _
  rw [modLive_live, if_neg other, moveCursor_live_ne other]

theorem takeLive_live_ne {l : Fin 6} {p q : Fin 4} (other : p ≠ q) (len : Nat) (s : State) :
    (takeLive l p len s).live q = s.live q := by
  cases cursor : (s.live p).cursor with
  | none => rw [takeLive_of_no_cursor cursor]
  | some place =>
    have handed (h : Header) (b : List Byte) := (handOver_inner l h b s).same .lives (by decide)
    have roomed (u : State) := (makeRoom_inner u).same .lives (by decide)
    have entered (e : Entry) (u : State) := (enterWindow_inner e u).same .lives (by decide)
    rw [takeLive_of_cursor cursor, liveServed_live_ne other]
    exact congrArg (fun v => v.get q) ((entered _ _).trans ((roomed _).trans (handed _ _)))

/-- The live cursors, kept by the operations that do not move them. -/
theorem SettleKeeps.of_lives {P : State → Prop}
    (same : ∀ s t : State, t.lives = s.lives → t.progs = s.progs → P s → P t)
    (live : ∀ l p s, P s → liveLength p s ≠ 0 → P (takeLive l p (liveLength p s) s))
    (stale : ∀ p s, P s → P (staleCheck p s))
    (ended : ∀ p s, P s → writingDone p s = true → P (endWriting p s))
    (drain : ∀ p s, P s → drained p s = true → P (completeDrain p s)) : SettleKeeps P := by
  have kept {ps : List Part} {s t : State} (h : Inner ps s t) (lives : Part.lives ∉ ps) (progs : Part.progs ∉ ps)
      (holds : P s) : P t := same s t (h.same .lives lives) (h.same .progs progs) holds
  constructor
  · exact fun s v holds => same s _ rfl rfl holds
  · exact fun l s holds _ _ _ => kept (sendProbe_inner l s) (by decide) (by decide) holds
  · exact fun l c k rest s holds _ _ _ _ => kept (takeLabel_parts l c k s) (by decide) (by decide) holds
  · exact fun l e s holds _ _ => kept (takeResend_parts l e s) (by decide) (by decide) holds
  · exact fun l p s holds _ some' => live l p s holds some'
  · exact fun l k len s holds _ _ _ _ _ => kept (takeClip_parts l k len s) (by decide) (by decide) holds
  · exact stale
  · exact ended
  · exact drain
  · exact fun s holds _ => kept (completeShip_inner s) (by decide) (by decide) holds
  · exact fun s holds _ => kept (startShip_inner s) (by decide) (by decide) holds
  · exact fun s holds => kept (freeZero_inner s) (by decide) (by decide) holds

theorem pendingBytes_of_no_cursor {p : Fin 4} {s : State} (absent : (s.live p).cursor = none) :
    pendingBytes p s = 0 := by
  unfold pendingBytes
  rw [absent]

theorem settle_no_cursor {s : State} {q : Fin 4} (absent : (s.live q).cursor = none) :
    ((settle s).live q).cursor = none := by
  refine settle_holds (P := fun t => (t.live q).cursor = none) (SettleKeeps.of_lives ?_ ?_ ?_ ?_ ?_) absent
  · intro t u lives _ holds
    unfold State.live
    rwa [lives]
  · intro l p t holds some'
    have other : p ≠ q := fun e => some' (liveLength_of_nothing (pendingBytes_of_no_cursor (e ▸ holds)))
    rwa [takeLive_live_ne other]
  · intro p t holds
    by_cases same : p = q
    · rwa [staleCheck_of_nothing (pendingBytes_of_no_cursor (same ▸ holds))]
    · rwa [staleCheck_live_ne same]
  · intro p t holds _
    unfold State.live
    rwa [(endWriting_inner p t).same .lives (by decide)]
  · intro p t holds done
    rw [completeDrain_live done]
    split
    · rfl
    · exact holds

/-- The live cursor of a program that runs and has nothing pending stands. -/
theorem settle_live {s : State} {q : Fin 4} (runs : (s.prog q).st ≠ .draining) (nothing : pendingBytes q s = 0) :
    (settle s).live q = s.live q := by
  have pending (t : State) (h : t.live q = s.live q ∧ t.prog q = s.prog q) : pendingBytes q t = 0 := by
    rw [← nothing]
    unfold pendingBytes
    rw [h.1, h.2]
  refine (settle_holds (P := fun t => t.live q = s.live q ∧ t.prog q = s.prog q)
    (SettleKeeps.of_lives ?_ ?_ ?_ ?_ ?_) ⟨rfl, rfl⟩).1
  · intro t u lives progs holds
    unfold State.live State.prog at *
    rwa [lives, progs]
  · intro l p t holds some'
    have other : p ≠ q := fun e => some' (liveLength_of_nothing (e ▸ pending t holds))
    rw [takeLive_live_ne other, prog_of_same (takeLive_inner l p _ t) (by decide)]
    exact holds
  · intro p t holds
    rw [prog_of_same (staleCheck_inner p t) (by decide)]
    by_cases same : p = q
    · rw [staleCheck_of_nothing (same ▸ pending t holds)]
      exact holds
    · rw [staleCheck_live_ne same]
      exact holds
  · intro p t holds done
    have other : p ≠ q := fun e => runs (by rw [← holds.2, ← e]; exact draining_of_done done)
    rw [endWriting_prog done, if_neg other]
    unfold State.live
    rw [(endWriting_inner p t).same .lives (by decide)]
    exact holds
  · intro p t holds done
    have other : p ≠ q := fun e => runs (by rw [← holds.2, ← e]; exact draining_of_drained done)
    rw [completeDrain_prog done, if_neg other, completeDrain_live done, if_neg other]
    exact holds

end Sys2Proof.Machine
end

section
/-! PROOFS. The scheduler after each operation at the end of an event, and the ages of the live entries (R151 to R171). -/

namespace Sys2Proof.Machine

set_option Elab.async false

/-! ### The scheduler after each operation -/

theorem enterWindow_sched (e : Entry) (s : State) :
    (enterWindow e s).sched = { s.sched with window := s.sched.window ++ [e] } := by
  unfold enterWindow
  rw [modSched_sched, (placeAdds_inner e s).same .sched (by decide)]

theorem handOver_sched (l : Fin 6) (h : Header) (b : List Byte) (s : State) :
    (handOver l h b s).sched = { s.sched with nextSend := incWrap32 s.sched.nextSend } := rfl

/-- The entry of a first LABEL packet (R161). -/
def labelEntry (l : Fin 6) (c : Nat) (k : Clip) (s : State) : Entry :=
  ⟨s.sched.nextSend, .label c k.revision, l.1, s.tb.pacing, 0, false⟩

theorem takeLabel_sched (l : Fin 6) (c : Nat) (k : Clip) (s : State) : (takeLabel l c k s).sched =
    { s.sched with
      nextSend := incWrap32 s.sched.nextSend, labelQueue := s.sched.labelQueue.tail
      window := s.sched.window ++ [labelEntry l c k s] } := by
  have sent (u : State) := (labelSent_inner c k.revision u).same .sched (by decide)
  unfold takeLabel
  exact (sent _).trans (enterWindow_sched _ _)

/-- The entry that a resend leaves (R167). -/
def resentEntry (l : Fin 6) (e : Entry) (s : State) : Entry :=
  { e with send := s.sched.nextSend, place := resentPlace e s, path := l.1, resends := min (e.resends + 1) 255,
           queued := false }

theorem takeResend_sched (l : Fin 6) (e : Entry) (s : State) : (takeResend l e s).sched =
    { s.sched with
      nextSend := incWrap32 s.sched.nextSend, resent := incWrap32 s.sched.resent
      window := (s.sched.window ++ [resentEntry l e s]).filter fun x => !(x.send == e.send) } := by
  have reported (e : Entry) (u : State) := (reportLabel_inner e u).same .sched (by decide)
  unfold takeResend
  dsimp only
  rw [modSched_sched, reported, removeEntries_sched, enterWindow_sched, handOver_sched]
  rfl

theorem makeRoom_sched (s : State) : (makeRoom s).sched = { s.sched with
    window := (makeRoom s).sched.window, abandoned := (makeRoom s).sched.abandoned
    byDisplacement := (makeRoom s).sched.byDisplacement, displaced := (makeRoom s).sched.displaced } := by
  unfold makeRoom displace
  split
  · split
    · rfl
    · rw [modSched_sched, abandon_frame]
  · rfl

theorem makeRoom_deadlineInForce (s : State) : (makeRoom s).sched.deadlineInForce = s.sched.deadlineInForce := by
  rw [makeRoom_sched]

/-- What makes room for a live entry takes entries out of the window. -/
theorem makeRoom_window {s : State} {e : Entry} (mem : e ∈ (makeRoom s).sched.window) : e ∈ s.sched.window := by
  unfold makeRoom displace at mem
  split at mem
  · split at mem
    · exact mem
    · rw [modSched_sched, abandon_frame] at mem
      exact (List.mem_filter.mp mem).1
  · exact mem

theorem liveServed_sched (p : Fin 4) (run next : Nat) (s : State) :
    (liveServed p run next s).sched = { s.sched with lastServed := p } := by
  have moved := (moveCursor_inner p run next s).same .sched (by decide)
  show { (moveCursor p run next s).sched with lastServed := p } = _
  rw [moved]

theorem takeLive_sched {p : Fin 4} {s : State} {run off : Nat} (cursor : (s.live p).cursor = some (run, off))
    (l : Fin 6) (len : Nat) :
    let roomed := makeRoom (handOver l (liveHeader p run off s) (streamBytes p run off len s) s)
    (takeLive l p len s).sched = { roomed.sched with
      lastServed := p, window := roomed.sched.window ++ [liveEntry l p run off len s] } := by
  intro roomed
  rw [takeLive_of_cursor cursor, liveServed_sched, enterWindow_sched]

/-- The entry of a first CLIP packet (R162). -/
def clipEntry (l : Fin 6) (k : ClipCursor) (len : Nat) (s : State) : Entry :=
  ⟨s.sched.nextSend, .clip k.clip k.program k.run (segmentAt (idx4 k.program) k.run k.next s) k.next len, l.1,
    s.tb.pacing, 0, false⟩

theorem takeClip_sched (l : Fin 6) (k : ClipCursor) (len : Nat) (s : State) : (takeClip l k len s).sched =
    { s.sched with
      nextSend := incWrap32 s.sched.nextSend, window := s.sched.window ++ [clipEntry l k len s]
      clipCursor := some { k with next := k.next + len }, bucket := s.sched.bucket - packetBits len } := by
  unfold takeClip
  dsimp only
  rw [(modClip_inner _ _ _).same .sched (by decide), modSched_sched, enterWindow_sched]
  rfl

theorem sendProbe_sched (l : Fin 6) (s : State) :
    (sendProbe l s).sched = { s.sched with nextSend := (sendProbe l s).sched.nextSend } := by
  unfold sendProbe
  dsimp only
  split <;> rfl

/-- The scheduler differs in the label queue and in what may ask alone. -/
def OnlyLabels (c d : Scheduler) : Prop := d = { c with labelQueue := d.labelQueue, asking := d.asking }

theorem OnlyLabels.refl (c : Scheduler) : OnlyLabels c c := rfl

theorem OnlyLabels.trans {c d e : Scheduler} (h : OnlyLabels c d) (k : OnlyLabels d e) : OnlyLabels c e := by
  unfold OnlyLabels at *
  rw [k, h]

theorem addLabel_sched (c : Nat) (s : State) : OnlyLabels s.sched (addLabel c s).sched := by
  unfold addLabel
  split <;> rfl

theorem closeClip_sched (c q : Nat) (t : Option Timecode) (o : Nat) (s : State) :
    OnlyLabels s.sched (closeClip c q t o s).sched := by
  unfold closeClip
  split
  · exact .refl _
  · rename_i k _
    dsimp only
    have opened : (if k.st == .opened then setOpenClips k.program 0 s else s).sched = s.sched := by split <;> rfl
    have label (u : State) : OnlyLabels u.sched (if k.label == .pending then addLabel c u else u).sched := by
      split
      · exact addLabel_sched c u
      · exact .refl _
    have closed (f : Clip → Clip) (far : List Nat) : (modClip c f (unpin k.program far
        (if k.st == .opened then setOpenClips k.program 0 s else s))).sched = s.sched :=
      ((modClip_inner _ _ _).same .sched (by decide)).trans (((unpin_inner _ _ _).same .sched (by decide)).trans opened)
    have labelled (f : Clip → Clip) (far : List Nat) := label (modClip c f (unpin k.program far
        (if k.st == .opened then setOpenClips k.program 0 s else s)))
    simp only [closed] at labelled
    split
    · exact labelled _ _
    · exact labelled _ _

theorem foldl_sched {α : Type} {f : State → α → State} (each : ∀ t x, OnlyLabels t.sched (f t x).sched) (l : List α)
    (s : State) : OnlyLabels s.sched (l.foldl f s).sched := by
  induction l generalizing s with
  | nil => exact .refl _
  | cons x xs ih => exact (each s x).trans (ih _)

theorem closeAtIdle_sched (p : Fin 4) (s : State) : OnlyLabels s.sched (closeAtIdle p s).sched := by
  unfold closeAtIdle
  refine foldl_sched (fun t c => ?_) _ s
  split
  · exact .refl _
  · exact closeClip_sched ..

theorem enterIdle_sched (p : Fin 4) (cause : IdleCause) (s : State) : OnlyLabels s.sched (enterIdle p cause s).sched := by
  have closed := closeAtIdle_sched p (raise .programIdle
    (u8 p.1 ++ u8 (s.prog p).run ++ u48 (s.prog p).streamOffset ++ u8 cause.code)
    (s.modProg p fun g => { g with st := .idle, drainPicture := none }))
  rwa [(raise_inner .programIdle _ _).same .sched (by decide)] at closed

theorem completeDrain_sched (p : Fin 4) (s : State) : OnlyLabels s.sched (completeDrain p s).sched := by
  unfold completeDrain
  split
  · exact enterIdle_sched p .drained _
  · exact .refl _

theorem completeShip_sched (s : State) : (completeShip s).sched = { s.sched with clipCursor := none } := by
  unfold completeShip
  split
  · rename_i absent
    rw [← absent]
  · dsimp only
    split
    · rfl
    · rw [(raise_inner .clipShipped _ _).same .sched (by decide)]
      rfl

theorem startShip_sched (s : State) : (startShip s).sched =
    { s.sched with clipCursor := (startShip s).sched.clipCursor, asking := (startShip s).sched.asking } := by
  unfold startShip
  split
  · rfl
  · dsimp only
    split <;> rfl

/-! ### Ages of the live entries (R151, R169, R171) -/

/-- The deadline in force, and, where `sure`, that every live entry of the window is younger than it at a pacing
count. -/
structure Young (sure : Prop) (now limit : Nat) (c : Scheduler) : Prop where
  inForce : c.deadlineInForce = limit
  young : sure → ∀ e ∈ c.window, e.isLive = true → diff32 now e.firstSent < limit

section
variable {sure : Prop} {now limit : Nat} {c d : Scheduler}

theorem Young.of_window (young : Young sure now limit c) (inForce : d.deadlineInForce = c.deadlineInForce)
    (window : ∀ e ∈ d.window, e.isLive = true → sure → e ∈ c.window ∨ diff32 now e.firstSent < limit) :
    Young sure now limit d := by
  refine ⟨inForce.trans young.inForce, fun positive e mem live => ?_⟩
  rcases window e mem live positive with before | fresh
  · exact young.young positive e before live
  · exact fresh

theorem Young.of_onlyLabels (young : Young sure now limit c) (only : OnlyLabels c d) : Young sure now limit d := by
  unfold OnlyLabels at only
  rw [only]
  exact ⟨young.inForce, young.young⟩

end

theorem diff32_self (n : Nat) : diff32 n n = 0 := by
  unfold diff32
  omega

theorem resentEntry_isLive (l : Fin 6) (e : Entry) (s : State) : (resentEntry l e s).isLive = e.isLive :=
  resentPlace_isLive e s ..

/-- The end of an event leaves every live entry younger than the deadline in force, where they were. -/
theorem settleKeeps_young {sure : Prop} {now limit : Nat} (positive : sure → 0 < limit) :
    SettleKeeps fun s => s.tb.pacing = now ∧ Young sure now limit s.sched := by
  have kept {ps : List Part} {s t : State} (h : Inner ps s t) (tb : Part.tb ∉ ps) (sched : Part.sched ∉ ps)
      (holds : s.tb.pacing = now ∧ Young sure now limit s.sched) : t.tb.pacing = now ∧ Young sure now limit t.sched := by
    rwa [h.same .tb tb, h.same .sched sched]
  constructor
  · exact fun s v holds => ⟨holds.1, holds.2.inForce, holds.2.young⟩
  · intro l s ⟨now', young⟩ _ _ _
    rw [(sendProbe_inner l s).same .tb (by decide), sendProbe_sched]
    exact ⟨now', young.inForce, young.young⟩
  · intro l c k rest s ⟨now', young⟩ _ _ _ _
    rw [(takeLabel_parts l c k s).same .tb (by decide), takeLabel_sched]
    refine ⟨now', young.of_window rfl fun e mem live _ => .inl ?_⟩
    rcases List.mem_append.mp mem with before | new
    · exact before
    · rw [List.mem_singleton.mp new] at live
      cases live
  · intro l e s ⟨now', young⟩ _ mem
    rw [(takeResend_parts l e s).same .tb (by decide), takeResend_sched]
    refine ⟨now', young.of_window rfl fun x mem' live is => ?_⟩
    rcases List.mem_append.mp (List.mem_filter.mp mem').1 with before | new
    · exact .inl before
    · rw [List.mem_singleton.mp new] at live ⊢
      exact .inr (young.young is e (List.mem_filter.mp mem).1 ((resentEntry_isLive l e s).symm.trans live))
  · intro l p s ⟨now', young⟩ _ _
    rw [(takeLive_inner l p _ s).same .tb (by decide)]
    refine ⟨now', ?_⟩
    cases cursor : (s.live p).cursor with
    | none => rwa [takeLive_of_no_cursor cursor]
    | some place =>
      rw [takeLive_sched cursor]
      refine young.of_window ?_ fun x mem live is => ?_
      · exact (makeRoom_deadlineInForce _).trans rfl
      · rcases List.mem_append.mp mem with before | new
        · exact .inl (makeRoom_window (s := handOver l _ _ s) before)
        · rw [List.mem_singleton.mp new]
          refine .inr ?_
          show diff32 now s.tb.pacing < limit
          rw [now', diff32_self]
          exact positive is
  · intro l k len s ⟨now', young⟩ _ _ _ _ _
    rw [(takeClip_parts l k len s).same .tb (by decide), takeClip_sched]
    refine ⟨now', young.of_window rfl fun e mem live _ => .inl ?_⟩
    rcases List.mem_append.mp mem with before | new
    · exact before
    · rw [List.mem_singleton.mp new] at live
      cases live
  · exact fun p s holds => kept (staleCheck_inner p s) (by decide) (by decide) holds
  · exact fun p s holds _ => kept (endWriting_inner p s) (by decide) (by decide) holds
  · intro p s ⟨now', young⟩ _
    rw [(completeDrain_inner p s).same .tb (by decide)]
    exact ⟨now', young.of_onlyLabels (completeDrain_sched p s)⟩
  · intro s ⟨now', young⟩ _
    rw [(completeShip_inner s).same .tb (by decide), completeShip_sched]
    exact ⟨now', young.inForce, young.young⟩
  · intro s ⟨now', young⟩ _
    rw [(startShip_inner s).same .tb (by decide), startShip_sched]
    exact ⟨now', young.inForce, young.young⟩
  · exact fun s holds => kept (freeZero_inner s) (by decide) (by decide) holds

/-! ### The pacing tick (R7, R171) -/

theorem expireEntries_young (s : State) :
    Young (0 < s.sched.deadlineInForce) s.tb.pacing s.sched.deadlineInForce (expireEntries (fun _ => true) s).sched := by
  rw [expireEntries_frame]
  refine ⟨rfl, fun _ e mem live => ?_⟩
  have stays := (List.mem_filter.mp mem).2
  unfold expires age at stays
  rw [live] at stays
  simpa using stays

theorem loseEntries_young {sure : Prop} {now limit : Nat} (lost : Entry → Bool) {s : State} (young : Young sure now limit s.sched) :
    Young sure now limit (loseEntries lost s).sched := by
  have asks : Young sure now limit (if s.sched.window.any fun e => lost e && !e.queued && !isGivenUp s e then letAsk s else s).sched := by
    split
    · exact ⟨young.inForce, young.young⟩
    · exact young
  unfold loseEntries
  dsimp only
  rw [modSched_sched, abandon_frame]
  refine ⟨asks.inForce, fun positive e mem live => ?_⟩
  obtain ⟨x, before, rfl⟩ := List.mem_map.mp mem
  have old := (List.mem_filter.mp before).1
  split at live
  · rw [if_pos ‹_›]
    exact asks.young positive x old live
  · rw [if_neg ‹_›]
    exact asks.young positive x old live

theorem enterPath_young {sure : Prop} {now limit : Nat} (l : Fin 6) (st : PathState) (cause : PathCause) {s : State}
    (young : Young sure now limit s.sched) : Young sure now limit (enterPath l st cause s).sched := by
  have ran (u : State) (held : Young sure now limit u.sched) : Young sure now limit (runAllocator .pathState u).sched := by
    rw [runAllocator_frame]
    exact ⟨held.inForce, held.young⟩
  have asked (c : Prop) [Decidable c] (u : State) (held : Young sure now limit u.sched) :
      Young sure now limit (if c then letAskPath l u else u).sched := by
    split
    · exact ⟨held.inForce, held.young⟩
    · exact held
  have raised (d : List Byte) (u : State) (held : Young sure now limit u.sched) :
      Young sure now limit (raise .pathState d u).sched := by
    rwa [(raise_inner .pathState d u).same .sched (by decide)]
  unfold enterPath
  refine ran _ (asked _ _ (raised _ _ ?_))
  show Young sure now limit (if _ then _ else _ : State).sched
  split
  · exact loseEntries_young _ young
  · exact young

theorem silenceDue_young {sure : Prop} {now limit : Nat} (l : Fin 6) {s : State} (young : Young sure now limit s.sched) :
    Young sure now limit (silenceDue l s).sched := by
  unfold silenceDue silenceExpiry
  dsimp only
  split
  · split
    · exact enterPath_young l _ _ (enterPath_young l _ _ young)
    · exact enterPath_young l _ _ young
  · exact young

theorem silences_young {sure : Prop} {now limit : Nat} {s : State} (young : Young sure now limit s.sched) :
    Young sure now limit (eachPath silenceDue s).sched :=
  eachPath_holds (P := fun t => Young sure now limit t.sched) (fun l _ held => silenceDue_young l held) young

theorem expiries_ageFirst (s : State) : expiries true s = eachPath silenceDue (expireEntries (fun _ => true) s) := by
  unfold expiries
  exact if_pos rfl

theorem expiries_silenceFirst (s : State) :
    expiries false s = expireEntries (fun _ => true) (eachPath silenceDue s) := by
  unfold expiries
  exact if_neg Bool.false_ne_true

/-- The expiries of a pacing tick leave every live entry younger than the deadline in force. -/
theorem expiries_young (ageFirst : Bool) (s : State) :
    Young (0 < s.sched.deadlineInForce) s.tb.pacing s.sched.deadlineInForce (expiries ageFirst s).sched := by
  cases ageFirst with
  | true =>
    rw [expiries_ageFirst]
    exact silences_young (expireEntries_young s)
  | false =>
    have kept : Young False s.tb.pacing s.sched.deadlineInForce (eachPath silenceDue s).sched :=
      silences_young ⟨rfl, fun none' => none'.elim⟩
    have tb : (eachPath silenceDue s).tb = s.tb := (Inner.eachPath _ silenceDue_inner s).same .tb (by decide)
    have young := expireEntries_young (eachPath silenceDue s)
    rw [kept.inForce, tb] at young
    rw [expiries_silenceFirst]
    exact young

/-- The state of a pacing tick before its first expiry (R7, R133, R144, R145, R163, R171). -/
def pacingRefilled (s : State) : State :=
  let s1 := ((takeAllocationTick s).modTb timebasePacing).modUplink bringTimeout
  let s2 := eachPath (fun l t => t.modPath l fun p => countSilence (refill p)) s1
  s2.modSched fun c => bringDeadline (refillBucket s2.alloc.clipRate c)

theorem pacingTick_eq (s : State) : pacingTick s =
    settle (letAsk (expiries (Config.ageBeforeSilence (incWrap32 s.tb.pacing)) (pacingRefilled s))) := rfl

theorem takeAllocationTick_sched (s : State) :
    (takeAllocationTick s).sched = { s.sched with bucket := (takeAllocationTick s).sched.bucket } := by
  by_cases due : s.tb.allocDue = true
  · rw [takeAllocationTick_eq due, runAllocator_frame]
    rfl
  · have stands : takeAllocationTick s = s := if_neg due
    rw [stands]

theorem eachPath_refill_inner (s : State) :
    Inner [.paths] s (eachPath (fun l t => t.modPath l fun p => countSilence (refill p)) s) :=
  .eachPath _ (fun l t => modPath_inner t l _) s

theorem pacingRefilled_deadlineInForce (s : State) :
    (pacingRefilled s).sched.deadlineInForce = s.sched.deadline := by
  unfold pacingRefilled
  dsimp only
  rw [modSched_sched]
  show Scheduler.deadline _ = _
  rw [(eachPath_refill_inner _).same .sched (by decide), modUplink_sched, modTb_sched, takeAllocationTick_sched]
  rfl

/-- A pacing tick leaves every live entry younger than the deadline that stood at it (R171). -/
theorem pacingTick_young (s : State) :
    Young (0 < s.sched.deadline) (pacingTick s).tb.pacing s.sched.deadline (pacingTick s).sched := by
  have young := expiries_young (Config.ageBeforeSilence (incWrap32 s.tb.pacing)) (pacingRefilled s)
  have tb : (expiries (Config.ageBeforeSilence (incWrap32 s.tb.pacing)) (pacingRefilled s)).tb = (pacingRefilled s).tb :=
    (expiries_inner _ _).same .tb (by decide)
  rw [pacingRefilled_deadlineInForce, ← tb] at young
  have settled := settle_holds (settleKeeps_young (sure := 0 < s.sched.deadline) id)
    (s := letAsk (expiries (Config.ageBeforeSilence (incWrap32 s.tb.pacing)) (pacingRefilled s)))
    ⟨rfl, young.inForce, young.young⟩
  rw [← pacingTick_eq] at settled
  rw [settled.1]
  exact settled.2

/-! ### RESTART keeps the deadline and the guard (R171, R174) -/

/-- The delivery settings of a scheduler. -/
def Delivery (deadline guardMs : Nat) (c : Scheduler) : Prop := c.deadline = deadline ∧ c.guardMs = guardMs

section
variable {deadline guardMs : Nat} {c d : Scheduler}

theorem Delivery.of_onlyLabels (kept : Delivery deadline guardMs c) (only : OnlyLabels c d) :
    Delivery deadline guardMs d := by
  unfold OnlyLabels at only
  rw [only]
  exact kept

theorem Delivery.of_same (kept : Delivery deadline guardMs c) (same : d.deadline = c.deadline ∧ d.guardMs = c.guardMs) :
    Delivery deadline guardMs d := ⟨same.1.trans kept.1, same.2.trans kept.2⟩

theorem settleKeeps_delivery : SettleKeeps fun s => Delivery deadline guardMs s.sched := by
  have kept {ps : List Part} {s t : State} (h : Inner ps s t) (sched : Part.sched ∉ ps)
      (holds : Delivery deadline guardMs s.sched) : Delivery deadline guardMs t.sched := by
    rwa [h.same .sched sched]
  constructor
  · exact fun s v holds => holds
  · intro l s holds _ _ _
    rw [sendProbe_sched]
    exact holds
  · intro l c k rest s holds _ _ _ _
    rw [takeLabel_sched]
    exact holds
  · intro l e s holds _ _
    rw [takeResend_sched]
    exact holds
  · intro l p s holds _ _
    cases cursor : (s.live p).cursor with
    | none => rwa [takeLive_of_no_cursor cursor]
    | some place =>
      rw [takeLive_sched cursor, makeRoom_sched]
      exact holds
  · intro l k len s holds _ _ _ _ _
    rw [takeClip_sched]
    exact holds
  · exact fun p s holds => kept (staleCheck_inner p s) (by decide) holds
  · exact fun p s holds _ => kept (endWriting_inner p s) (by decide) holds
  · exact fun p s holds _ => holds.of_onlyLabels (completeDrain_sched p s)
  · intro s holds _
    rw [completeShip_sched]
    exact holds
  · intro s holds _
    rw [startShip_sched]
    exact holds
  · exact fun s holds => kept (freeZero_inner s) (by decide) holds

theorem endEvent_delivery (start : State) {s : State} (holds : Delivery deadline guardMs s.sched) :
    Delivery deadline guardMs (endEvent start s).sched := by
  have freed : (endEvent start s).sched = (settle s).sched := (freedTogether_inner start _).same .sched (by decide)
  rw [freed]
  exact settle_holds settleKeeps_delivery holds

end

theorem leaveRun_sched (p : Fin 4) (cause : IdleCause) (s : State) : OnlyLabels s.sched (leaveRun p cause s).sched := by
  unfold leaveRun
  dsimp only
  have idled := enterIdle_sched p cause ((((storeAbort p (((s.modCoder p coderStop).modIntake p intakeStop).modFramer p
    framerStop)).modLive p fun v => { v with cursor := none })).modProg p fun g => { g with writingEnded := true })
  rwa [modProg_sched, modLive_sched, (storeAbort_inner p _).same .sched (by decide)] at idled

theorem takeToIdle_sched (p : Fin 4) (cause : IdleCause) (s : State) :
    OnlyLabels s.sched (takeToIdle p cause s).sched := by
  unfold takeToIdle
  split
  · exact .refl _
  · exact enterIdle_sched p cause _
  · exact leaveRun_sched p cause s
  · exact leaveRun_sched p cause s

theorem eachProgram_sched {f : Fin 4 → State → State} (each : ∀ p t, OnlyLabels t.sched (f p t).sched) (s : State) :
    OnlyLabels s.sched (eachProgram f s).sched :=
  (((each 0 s).trans (each 1 _)).trans (each 2 _)).trans (each 3 _)

theorem restartPrograms_sched (s : State) : OnlyLabels s.sched (restartPrograms s).sched := by
  unfold restartPrograms
  dsimp only
  rw [modMixer_sched]
  refine (eachProgram_sched (fun p t => ?_) s).trans (eachProgram_sched (fun p t => ?_) _)
  · rw [modProg_sched]
    exact takeToIdle_sched p .restarted t
  · rw [modIntake_sched, modCoder_sched, modProg_sched]
    exact .refl _

theorem restartScheduler_settings (s : State) : (restartScheduler s).sched.deadline = s.sched.deadline ∧
    (restartScheduler s).sched.guardMs = s.sched.guardMs := ⟨rfl, rfl⟩

theorem restartStore_sched (s : State) : (restartStore s).sched = s.sched := by
  unfold restartStore
  dsimp only
  rw [(clearPressure_inner _).same .sched (by decide), (freeZero_inner _).same .sched (by decide)]
  rfl

theorem settleShip_delivery {deadline guardMs : Nat} {s : State} (holds : Delivery deadline guardMs s.sched) :
    Delivery deadline guardMs (settleShip s).sched :=
  settleShipN_holds settleKeeps_delivery holds 130

/-- The SHIPPING clip stands at the ship queue's head again (R197). -/
def shippingRequeued (s : State) : State :=
  (shippingClip s).elim s fun c => (modClip c (fun k => { k with st := .queued, shipCursor := none }) s).modClips fun l =>
    { l with shipQueue := c :: l.shipQueue }

/-- A label that waits for its acknowledgement is PENDING in the label queue again (R197). -/
def labelRequeued (s : State) (x : Nat × Clip) : State :=
  addLabel x.1 (modClip x.1 (fun k => { k with label := .pending }) s)

theorem restartClips_eq (s : State) : restartClips s = settleShip
    (((clipsByAge (shippingRequeued s)).filter fun x => x.2.label != .confirmed).foldl labelRequeued
      (shippingRequeued s)) := by
  unfold restartClips shippingRequeued
  cases shippingClip s <;> rfl

theorem shippingRequeued_sched (s : State) : (shippingRequeued s).sched = s.sched := by
  unfold shippingRequeued
  cases shippingClip s <;> rfl

theorem labelRequeued_sched (s : State) (x : Nat × Clip) : OnlyLabels s.sched (labelRequeued s x).sched :=
  addLabel_sched x.1 (modClip x.1 (fun k => { k with label := .pending }) s)

theorem restartClips_delivery {deadline guardMs : Nat} {s : State} (holds : Delivery deadline guardMs s.sched) :
    Delivery deadline guardMs (restartClips s).sched := by
  rw [restartClips_eq]
  refine settleShip_delivery (Delivery.of_onlyLabels ?_ (foldl_sched labelRequeued_sched _ _))
  rwa [shippingRequeued_sched]

theorem restartPaths_inner' (s : State) : Inner [.paths] s (restartPaths s) :=
  .eachPath _ (fun l t => modPath_inner t l _) s

theorem restartAllocator_settings (s : State) : (restartAllocator s).sched.deadline = s.sched.deadline ∧
    (restartAllocator s).sched.guardMs = s.sched.guardMs := by
  unfold restartAllocator
  rw [runAllocator_frame]
  exact ⟨rfl, rfl⟩

theorem restartPaths_settings (s : State) : (restartPaths s).sched.deadline = s.sched.deadline ∧
    (restartPaths s).sched.guardMs = s.sched.guardMs := by
  rw [(restartPaths_inner' s).same .sched (by decide)]
  exact ⟨rfl, rfl⟩

theorem restartAll_delivery (s : State) : Delivery s.sched.deadline s.sched.guardMs (restartAll s).sched := by
  have programs := Delivery.of_onlyLabels (c := s.sched) ⟨rfl, rfl⟩ (restartPrograms_sched s)
  have store := programs.of_same (restartScheduler_settings _)
  rw [← restartStore_sched (restartScheduler _)] at store
  have paths := (restartClips_delivery store).of_same (restartPaths_settings _)
  exact endEvent_delivery s (paths.of_same (restartAllocator_settings _))

theorem replied_sched (tag kind : Byte) (a : Answer) (t : State) : (replied tag kind a t).sched = t.sched := rfl

/-- Settles O46. -/
theorem setDeliveryWritesBothValues : Obligations.SetDeliveryWritesBothValues := by
  refine ⟨fun tag deadline resend s free => ?_, fun s => ?_, rfl, rfl⟩
  · intro inside fits
    have range : inRange 50 2000 deadline = false ↔ ¬inside := by
      rw [inRange_eq_false]
      omega
    have guard : (decide (resend ≤ 500) && decide (resend < deadline)) = false ↔ ¬fits := by
      simp only [Bool.and_eq_false_iff, decide_eq_false_iff_not]
      omega
    have fields : firstFail 1 [inRange 50 2000 deadline, decide (resend ≤ 500) && decide (resend < deadline)] =
        if ¬inside then 1 else if ¬fits then 2 else 0 := by
      rw [firstFail_cons _ range, firstFail_cons _ guard]
      rfl
    have taken := exec_setDelivery tag deadline resend s
    refine ⟨fun yes room => ?_, fun no => ?_, fun yes no => ?_, ?_⟩
    · exact answers_checked (a := done) free taken rfl (by rw [fields, if_neg (not_not.mpr yes), if_neg (not_not.mpr room)])
        rfl
    · exact answers_outOfRange free taken rfl (by rw [fields, if_pos no]) one_ne_zero
    · exact answers_outOfRange free taken rfl (by rw [fields, if_neg (not_not.mpr yes), if_pos no]) two_ne_zero
    · have kept := restartAll_delivery (counted s)
      exact ⟨_, exec_restart_answered tag free, (congrArg _ (replied_sched ..)).trans kept.1,
        (congrArg _ (replied_sched ..)).trans kept.2⟩
  · have young := pacingTick_young s
    refine ⟨pacingTick s, exec_pacingTick s, young.inForce, fun positive e mem live => ?_⟩
    exact young.young positive e mem live

end Sys2Proof.Machine
end

section
/-! PROOFS. The paths: what a packet leaves of the other paths, what the end of an event leaves of a path that sends
nothing, and the changes of state (R126 to R132, R144). -/

namespace Sys2Proof.Machine

set_option Elab.async false

/-! ### One packet touches one path -/

theorem path_of_same {ps : List Part} {s t : State} (kept : Inner ps s t) (not : Part.paths ∉ ps) (l : Fin 6) :
    t.path l = s.path l := congrArg (fun v => v.get l) (kept.same .paths not)

section
variable {l m : Fin 6} (other : l ≠ m) (s : State)
include other

theorem handOver_path_ne (h : Header) (b : List Byte) : (handOver l h b s).path m = s.path m := by
  show ((s.modPath l stepSequence).modPath l _).path m = _
  rw [modPath_path, if_neg other, modPath_path, if_neg other]

theorem sendProbe_path_ne : (sendProbe l s).path m = s.path m := by
  unfold sendProbe
  dsimp only
  split
  · rw [path_of_same (modSched_overfull _ _) (by decide), modPath_path, if_neg other]
  · rfl

theorem takeLabel_path_ne (c : Nat) (k : Clip) : (takeLabel l c k s).path m = s.path m := by
  unfold takeLabel
  dsimp only
  rw [path_of_same (labelSent_inner c k.revision _) (by decide), path_of_same (enterWindow_inner _ _) (by decide)]
  exact handOver_path_ne other s _ _

theorem takeResend_path_ne (e : Entry) : (takeResend l e s).path m = s.path m := by
  unfold takeResend
  dsimp only
  rw [path_of_same (modSched_overfull _ _) (by decide), path_of_same (reportLabel_inner _ _) (by decide),
    path_of_same (removeEntries_inner _ _) (by decide), path_of_same (enterWindow_inner _ _) (by decide)]
  exact handOver_path_ne other s _ _

theorem takeClip_path_ne (k : ClipCursor) (len : Nat) : (takeClip l k len s).path m = s.path m := by
  unfold takeClip
  dsimp only
  rw [path_of_same (modClip_inner _ _ _) (by decide), path_of_same (modSched_overfull _ _) (by decide),
    path_of_same (enterWindow_inner _ _) (by decide)]
  exact handOver_path_ne other s _ _

theorem takeLive_path_ne (p : Fin 4) (len : Nat) : (takeLive l p len s).path m = s.path m := by
  cases cursor : (s.live p).cursor with
  | none => rw [takeLive_of_no_cursor cursor]
  | some place =>
    have served (run next : Nat) (u : State) : (liveServed p run next u).path m = u.path m :=
      path_of_same (moveCursor_inner p run next u) (by decide) m
    rw [takeLive_of_cursor cursor, served, path_of_same (enterWindow_inner _ _) (by decide),
      path_of_same (makeRoom_inner _) (by decide)]
    exact handOver_path_ne other s _ _

end

/-- What holds of the paths alone, kept by every operation that sends nothing. -/
theorem SettleKeeps.of_paths {P : State → Prop} (same : ∀ s t : State, t.paths = s.paths → P s → P t)
    (probe : ∀ l s, P s → (s.path l).st = .probing → (s.path l).port = none → Config.probeBits ≤ (s.path l).credit →
      P (sendProbe l s))
    (label : ∀ l c k s, P s → Asks l s → P (takeLabel l c k s))
    (resend : ∀ l e s, P s → Asks l s → P (takeResend l e s))
    (live : ∀ l p len s, P s → Asks l s → P (takeLive l p len s))
    (clip : ∀ l k len s, P s → Asks l s → P (takeClip l k len s)) : SettleKeeps P := by
  have kept {ps : List Part} {s t : State} (h : Inner ps s t) (not : Part.paths ∉ ps) (holds : P s) : P t :=
    same s t (h.same .paths not) holds
  constructor
  · exact fun s v holds => same s _ rfl holds
  · exact probe
  · exact fun l c k _ s holds asks _ _ _ => label l c k s holds asks
  · exact fun l e s holds asks _ => resend l e s holds asks
  · exact fun l p s holds asks _ => live l p _ s holds asks
  · exact fun l k len s holds asks _ _ _ _ => clip l k len s holds asks
  · exact fun p s holds => kept (staleCheck_inner p s) (by decide) holds
  · exact fun p s holds _ => kept (endWriting_inner p s) (by decide) holds
  · exact fun p s holds _ => kept (completeDrain_inner p s) (by decide) holds
  · exact fun s holds _ => kept (completeShip_inner s) (by decide) holds
  · exact fun s holds _ => kept (startShip_inner s) (by decide) holds
  · exact fun s holds => kept (freeZero_inner s) (by decide) holds

/-- A path that can neither take a packet nor send a probe (R135, R157). -/
structure SendsNothing (p : Path) : Prop where
  packet : carries p = true → p.port = none → p.credit = 0
  probe : p.st = .probing → p.port = none → p.credit < 8416

theorem SendsNothing.of_resting {p : Path} (rests : p.st = .off ∨ p.st = .down) : SendsNothing p := by
  refine ⟨fun carrying _ => ?_, fun probing => ?_⟩
  · rcases (carries_iff p).mp carrying with h | h <;> rcases rests with r | r <;> exact absurd (r.symm.trans h) (by decide)
  · rcases rests with r | r <;> exact absurd (r.symm.trans probing) (by decide)

theorem SendsNothing.of_busy {p : Path} (busy : p.port ≠ none) : SendsNothing p :=
  ⟨fun _ idle => absurd idle busy, fun _ idle => absurd idle busy⟩

theorem SendsNothing.of_broke {p : Path} (broke : p.credit = 0) : SendsNothing p :=
  ⟨fun _ _ => broke, fun _ _ => by omega⟩

theorem settle_path {s : State} {l : Fin 6} (quiet : SendsNothing (s.path l)) : (settle s).path l = s.path l := by
  have not {k : Fin 6} {t : State} (holds : t.path l = s.path l) (asks : Asks k t) : k ≠ l := by
    rintro rfl
    rw [Asks, holds] at asks
    exact absurd (quiet.packet asks.1 asks.2.1) asks.2.2.ne'
  refine settle_holds (P := fun t => t.path l = s.path l) (SettleKeeps.of_paths ?_ ?_ ?_ ?_ ?_ ?_) rfl
  · intro t u paths holds
    unfold State.path at *
    rwa [paths]
  · intro k t holds probing idle credit
    have other : k ≠ l := by
      rintro rfl
      rw [holds] at probing idle credit
      exact Nat.not_lt.mpr credit (quiet.probe probing idle)
    rwa [sendProbe_path_ne other]
  · exact fun k c d t holds asks => (takeLabel_path_ne (not holds asks) t c d).trans holds
  · exact fun k e t holds asks => (takeResend_path_ne (not holds asks) t e).trans holds
  · exact fun k p len t holds asks => (takeLive_path_ne (not holds asks) t p len).trans holds
  · exact fun k c len t holds asks => (takeClip_path_ne (not holds asks) t c len).trans holds

/-! ### Entries of a path that has gone (R131, R166) -/

/-- Every entry that a path sent last is queued. -/
def NoneLeft (l : Fin 6) (w : List Entry) : Prop := ∀ e ∈ w, e.path = l.1 → e.queued = true

theorem loseEntries_window (lost : Entry → Bool) (s : State) : (loseEntries lost s).sched.window =
    (s.sched.window.filter fun e => !(lost e && isGivenUp s e)).map fun e =>
      if lost e then { e with queued := true } else e := by
  have window (c : Prop) [Decidable c] : (if c then letAsk s else s).sched.window = s.sched.window := by split <;> rfl
  unfold loseEntries
  dsimp only
  rw [modSched_sched, abandon_frame]
  dsimp only
  rw [window]

theorem loseEntries_noneLeft (l : Fin 6) (s : State) :
    NoneLeft l (loseEntries (fun e => e.path == l.1) s).sched.window := by
  rw [loseEntries_window]
  intro e mem own
  obtain ⟨x, _, rfl⟩ := List.mem_map.mp mem
  by_cases lost : x.path = l.1
  · rw [if_pos (by simpa using lost)]
  · rw [if_neg (by simpa using lost)] at own
    exact absurd own lost

theorem NoneLeft.append {l : Fin 6} {w : List Entry} {e : Entry} (left : NoneLeft l w) (other : e.path ≠ l.1) :
    NoneLeft l (w ++ [e]) := by
  intro x mem own
  rcases List.mem_append.mp mem with before | new
  · exact left x before own
  · rw [List.mem_singleton.mp new] at own
    exact absurd own other

theorem NoneLeft.filter {l : Fin 6} {w : List Entry} (left : NoneLeft l w) (keep : Entry → Bool) :
    NoneLeft l (w.filter keep) := fun e mem own => left e (List.mem_filter.mp mem).1 own

/-- The window of a path that takes no packet: no entry of it comes back unqueued. -/
theorem settle_noneLeft {s : State} {l : Fin 6} (quiet : SendsNothing (s.path l)) (left : NoneLeft l s.sched.window) :
    NoneLeft l (settle s).sched.window := by
  have not {k : Fin 6} {t : State} (holds : t.path l = s.path l) (asks : Asks k t) : k ≠ l := by
    rintro rfl
    rw [Asks, holds] at asks
    exact absurd (quiet.packet asks.1 asks.2.1) asks.2.2.ne'
  have new {k : Fin 6} (other : k ≠ l) : k.1 ≠ l.1 := fun e => other (Fin.ext e)
  have kept {ps : List Part} {s t u : State} (h : Inner ps t u) (paths : Part.paths ∉ ps) (sched : Part.sched ∉ ps)
      (holds : t.path l = s.path l ∧ NoneLeft l t.sched.window) : u.path l = s.path l ∧ NoneLeft l u.sched.window := by
    rwa [path_of_same h paths, h.same .sched sched]
  refine (settle_holds (P := fun t => t.path l = s.path l ∧ NoneLeft l t.sched.window) ?_ ⟨rfl, left⟩).2
  constructor
  · exact fun t v holds => holds
  · intro k t holds probing idle credit
    have other : k ≠ l := by
      rintro rfl
      rw [holds.1] at probing idle credit
      exact Nat.not_lt.mpr credit (quiet.probe probing idle)
    rw [sendProbe_path_ne other, sendProbe_sched]
    exact holds
  · intro k c d _ t holds asks _ _ _
    have other := not holds.1 asks
    rw [takeLabel_path_ne other, takeLabel_sched]
    exact ⟨holds.1, holds.2.append (new other)⟩
  · intro k e t holds asks _
    have other := not holds.1 asks
    rw [takeResend_path_ne other, takeResend_sched]
    exact ⟨holds.1, (holds.2.append (e := resentEntry k e t) (new other)).filter _⟩
  · intro k p t holds asks _
    have other := not holds.1 asks
    rw [takeLive_path_ne other]
    refine ⟨holds.1, ?_⟩
    cases cursor : (t.live p).cursor with
    | none =>
      rw [takeLive_of_no_cursor cursor]
      exact holds.2
    | some place =>
      rw [takeLive_sched cursor]
      refine NoneLeft.append (fun e mem own => ?_) (new other)
      exact holds.2 e (makeRoom_window (s := handOver k _ _ t) mem) own
  · intro k c len t holds asks _ _ _ _
    have other := not holds.1 asks
    rw [takeClip_path_ne other, takeClip_sched]
    exact ⟨holds.1, holds.2.append (new other)⟩
  · exact fun p t holds => kept (staleCheck_inner p t) (by decide) (by decide) holds
  · exact fun p t holds _ => kept (endWriting_inner p t) (by decide) (by decide) holds
  · intro p t holds _
    rw [path_of_same (completeDrain_inner p t) (by decide), completeDrain_sched p t]
    exact holds
  · intro t holds _
    rw [path_of_same (completeShip_inner t) (by decide), completeShip_sched]
    exact holds
  · intro t holds _
    rw [path_of_same (startShip_inner t) (by decide), startShip_sched]
    exact holds
  · exact fun t holds => kept (freeZero_inner t) (by decide) (by decide) holds

/-! ### A change of state (R131, R132) -/

theorem runAllocator_raises_ne (cause : AllocCause) (s : State) {j : Fin 18} (other : EventKind.starved.index ≠ j)
    (lost : j ≠ EventKind.noticeLost.index) : (runAllocator cause s).link.raises.get j = s.link.raises.get j := by
  rw [runAllocator_eq]
  split
  · exact raise_raises_ne .starved _ _ other lost
  · rfl

/-- The state before the allocator's run of a change of state. -/
def pathEntered (l : Fin 6) (st : PathState) (cause : PathCause) (s : State) : State :=
  let old := s.path l
  let leaves := inService old && (st == .down || st == .off)
  let s1 := if leaves then loseEntries (fun e => e.path == l.1) (s.modPath l outOfService) else s
  let s2 := s1.modPath l (entered st)
  let s3 := raise .pathState
    (u8 l.1 ++ u8 old.st.code ++ u8 st.code ++ u8 cause.code ++ u32 (s2.path l).estimate) s2
  if st == .up then letAskPath l s3 else s3

theorem enterPath_eq (l : Fin 6) (st : PathState) (cause : PathCause) (s : State) :
    enterPath l st cause s = runAllocator .pathState (pathEntered l st cause s) := rfl

section
variable (l : Fin 6) (st : PathState) (cause : PathCause) (s : State)

theorem pathEntered_inner : Inner [.paths, .chains, .sched, .link] s (pathEntered l st cause s) := by
  unfold pathEntered
  dsimp only
  have left (b : Bool) : Inner [.paths, .chains, .sched, .link] s
      (if b then loseEntries (fun e => e.path == l.1) (s.modPath l outOfService) else s) :=
    .ite (((modPath_inner s l _).widen).andThen (loseEntries_inner _ _)) (.refl _ s)
  have raised (d : List Byte) (b : Bool) :=
    ((left b).andThen (modPath_inner _ l (entered st))).andThen (raise_inner .pathState d _)
  exact .ite ((raised _ _).andThen (letAskPath_inner l _)) (raised _ _)

theorem pathEntered_raises :
    (pathEntered l st cause s).link.raises.get 12 = (s.link.raises.get 12 + 1) % 2 ^ 32 := by
  unfold pathEntered
  dsimp only
  have asks (b : Bool) (u : State) : (if b then letAskPath l u else u).link = u.link := by cases b <;> rfl
  have left (b : Bool) : (if b then loseEntries (fun e => e.path == l.1) (s.modPath l outOfService) else s).link =
      s.link := by
    cases b
    · rfl
    · exact (loseEntries_inner _ _).same .link (by decide)
  rw [asks]
  refine (raise_raises .pathState _ _ (by decide)).trans ?_
  rw [modPath_link, left]
  rfl

theorem enterPath_alloc : (enterPath l st cause s).alloc.cause = some .pathState ∧
    (enterPath l st cause s).alloc.runs = (s.alloc.runs + 1) % 2 ^ 32 := by
  rw [enterPath_eq, runAllocator_alloc]
  refine ⟨rfl, ?_⟩
  show incWrap32 (pathEntered l st cause s).alloc.runs = _
  rw [(pathEntered_inner l st cause s).same .alloc (by decide)]
  rfl

theorem enterPath_raises :
    (enterPath l st cause s).link.raises.get 12 = (s.link.raises.get 12 + 1) % 2 ^ 32 := by
  rw [enterPath_eq, runAllocator_raises_ne .pathState _ (by decide) (by decide), pathEntered_raises]

theorem enterPath_window : (enterPath l st cause s).sched.window =
    if inService (s.path l) && (st == .down || st == .off) then
      (loseEntries (fun e => e.path == l.1) (s.modPath l outOfService)).sched.window
    else s.sched.window := by
  have asks (b : Bool) (u : State) : (if b then letAskPath l u else u).sched.window = u.sched.window := by
    cases b <;> rfl
  rw [enterPath_eq, runAllocator_frame]
  unfold pathEntered
  dsimp only
  rw [asks, (raise_inner .pathState _ _).same .sched (by decide), modPath_sched]
  split <;> rfl

theorem enterPath_path_own : (enterPath l st cause s).path l = entered st
    (if inService (s.path l) && (st == .down || st == .off) then outOfService (s.path l) else s.path l) := by
  rw [enterPath_path, if_pos rfl]

end

theorem enterPath_noneLeft {l : Fin 6} {s : State} (works : inService (s.path l) = true) {st : PathState}
    (out : st = .down ∨ st = .off) (cause : PathCause) : NoneLeft l (enterPath l st cause s).sched.window := by
  have leaves : (inService (s.path l) && (st == .down || st == .off)) = true := by
    rcases out with rfl | rfl <;> simp [works]
  rw [enterPath_window, if_pos leaves]
  exact loseEntries_noneLeft l _

/-! ### Requests and events that move a path -/

/-- A request that is answered, whatever it leaves. -/
theorem exec_replied {c : Instr} {tag : Byte} {r : Request} {a : Answer} {s t : State}
    (taken : exec c s = .next (submit tag r s)) (free : Free s) (performs : perform r (counted s) = (.answer a, t)) :
    exec c s = .next (replied tag r.kind a t) := by
  rw [taken, submit_answer tag r s t a free performs]

theorem counted_path (s : State) (l : Fin 6) : (counted s).path l = s.path l := rfl

theorem idx6_val (l : Fin 6) : idx6 l.1 = l := Fin.ofNat_val_eq_self l

theorem perform_enablePath (l : Fin 6) (s : State) :
    perform (.enablePath l.1) s = (.answer done, enablePath l s) := by
  have inRange' : firstFail 1 [decide (l.1 ≤ 5)] = 0 := firstFail_of_all (by simp; omega)
  show atOnce (checked [decide (l.1 ≤ 5)] s (done, enablePath (idx6 l.1) s)) = _
  rw [checked_of_fields _ _ inRange', idx6_val]
  rfl

theorem perform_disablePath (l : Fin 6) (s : State) : perform (.disablePath l.1) s =
    (.answer done, if (s.path l).st == .off then s else settle (disablePath l s)) := by
  have inRange' : firstFail 1 [decide (l.1 ≤ 5)] = 0 := firstFail_of_all (by simp; omega)
  show atOnce (checked [decide (l.1 ≤ 5)] s
    (done, if (s.path (idx6 l.1)).st == .off then s else settle (disablePath (idx6 l.1) s))) = _
  rw [checked_of_fields _ _ inRange', idx6_val]
  rfl

/-- What a change of state leaves, seen from the state before it. -/
structure Enters (l : Fin 6) (s t : State) (q : Path) : Prop where
  cause : t.alloc.cause = some .pathState
  runs : t.alloc.runs = (s.alloc.runs + 1) % 2 ^ 32
  raises : t.link.raises.get 12 = (s.link.raises.get 12 + 1) % 2 ^ 32
  path : t.path l = q

theorem Enters.of_reply {l : Fin 6} {s t : State} {q : Path} (enters : Enters l (counted s) t q) (tag kind : Byte) :
    Enters l s (replied tag kind done t) q :=
  ⟨enters.cause, enters.runs, enters.raises, enters.path⟩

theorem NoneLeft.of_reply {l : Fin 6} {t : State} (leaves : NoneLeft l t.sched.window) (tag kind : Byte) :
    NoneLeft l (replied tag kind done t).sched.window := leaves

theorem replied_counted (tag kind : Byte) (s : State) : replied tag kind done (counted s) = answered tag kind .done 0 0 [] s :=
  rfl

theorem enters_of_enterPath (l : Fin 6) (st : PathState) (cause : PathCause) (s : State) :
    Enters l s (enterPath l st cause s) (entered st
      (if inService (s.path l) && (st == .down || st == .off) then outOfService (s.path l) else s.path l)) :=
  ⟨(enterPath_alloc l st cause s).1, (enterPath_alloc l st cause s).2, enterPath_raises l st cause s,
    enterPath_path_own l st cause s⟩

theorem Enters.settled {l : Fin 6} {s t : State} {q : Path} (enters : Enters l s t q) (quiet : SendsNothing q) :
    Enters l s (settle t) q := by
  obtain ⟨cause, runs, raises, path⟩ := enters
  have alloc : (settle t).alloc = t.alloc := (settle_inner t).same .alloc (by decide)
  refine ⟨?_, ?_, ?_, ?_⟩
  · exact (congrArg _ alloc).trans cause
  · exact (congrArg _ alloc).trans runs
  · exact (settle_raises t (by decide)).trans raises
  · rw [← path] at quiet ⊢
    exact settle_path quiet

theorem inService_iff (p : Path) : inService p = true ↔ p.st = .probing ∨ p.st = .up ∨ p.st = .degraded := by
  simp [inService, or_assoc]

theorem Enters.of_modPath {l : Fin 6} {s t : State} {f : Path → Path} {q : Path}
    (enters : Enters l (s.modPath l f) t q) : Enters l s t q :=
  ⟨enters.cause, enters.runs, enters.raises, enters.path⟩

/-- A path that is not in service enters another state. -/
theorem enters_of_rest {l : Fin 6} {s : State} (rests : inService (s.path l) = false) (st : PathState)
    (cause : PathCause) : Enters l s (enterPath l st cause s) (entered st (s.path l)) := by
  have enters := enters_of_enterPath l st cause s
  rwa [rests, Bool.false_and, if_neg Bool.false_ne_true] at enters

/-- A path in service leaves it (R131). -/
theorem enters_of_service {l : Fin 6} {s : State} (works : inService (s.path l) = true) {st : PathState}
    (out : st = .down ∨ st = .off) (cause : PathCause) :
    Enters l s (enterPath l st cause s) (entered st (outOfService (s.path l))) := by
  have enters := enters_of_enterPath l st cause s
  have leaves : (inService (s.path l) && (st == .down || st == .off)) = true := by
    rcases out with rfl | rfl <;> simp [works]
  rwa [leaves, if_pos rfl] at enters

theorem entered_resting {st : PathState} (out : st = .down ∨ st = .off) (p : Path) : SendsNothing (entered st p) :=
  .of_resting (out.symm.imp (fun h => (entered_figures st p).1.trans h) fun h => (entered_figures st p).1.trans h)

/-- A path in service that leaves it, at the end of the event (R131). -/
theorem left_of_service {l : Fin 6} {s : State} (works : inService (s.path l) = true) {st : PathState}
    (out : st = .down ∨ st = .off) (cause : PathCause) :
    Enters l s (settle (enterPath l st cause s)) (entered st (outOfService (s.path l))) ∧
      NoneLeft l (settle (enterPath l st cause s)).sched.window := by
  have enters := enters_of_service works out cause
  have quiet := entered_resting out (outOfService (s.path l))
  refine ⟨enters.settled quiet, settle_noneLeft ?_ (enterPath_noneLeft works out cause)⟩
  rwa [enters.path]

/-! ### Each operation of the path controllers, by the state of the path -/

section
variable {l : Fin 6} {s : State}

theorem enablePath_of_service (works : inService (s.path l) = true) : enablePath l s = s := by
  unfold enablePath
  rcases (inService_iff _).mp works with h | h | h <;> simp only [h]

theorem enablePath_of_carrier (rests : (s.path l).st = .off ∨ (s.path l).st = .down) (carrier : (s.path l).carrier = true) :
    enablePath l s = enterPath l .probing .enable s := by
  unfold enablePath
  rcases rests with h | h <;> simp only [h, carrier, if_true]

theorem enablePath_of_off (off : (s.path l).st = .off) (carrier : (s.path l).carrier = false) :
    enablePath l s = enterPath l .down .enable s := by
  unfold enablePath
  simp [off, carrier]

theorem enablePath_of_down (down : (s.path l).st = .down) (carrier : (s.path l).carrier = false) :
    enablePath l s = s := by
  unfold enablePath
  simp [down, carrier]

theorem disablePath_of_on (on : (s.path l).st ≠ .off) : disablePath l s = enterPath l .off .disable s := by
  unfold disablePath
  rw [if_neg (by simpa using on)]

theorem carrierGained_of_carrier (carrier : (s.path l).carrier = true) : carrierGained l s = s := by
  unfold carrierGained
  rw [if_pos carrier]

/-- The path with the carrier reading of a carrier lost. -/
def withoutCarrier (p : Path) : Path :=
  { p with carrier := false, carrierLosses := if p.st == .off then p.carrierLosses else incSat16 p.carrierLosses }

theorem carrierLost_of_service (carrier : (s.path l).carrier = true) (works : inService (s.path l) = true) :
    carrierLost l s = enterPath l .down .carrierLost (s.modPath l withoutCarrier) := by
  unfold carrierLost
  rw [if_pos carrier]
  exact if_pos works

theorem carrierLost_of_rest (carrier : (s.path l).carrier = true) (rests : inService (s.path l) = false) :
    carrierLost l s = s.modPath l withoutCarrier := by
  unfold carrierLost
  rw [if_pos carrier]
  exact if_neg (by simp [rests])

theorem carrierLost_of_none (carrier : (s.path l).carrier = false) : carrierLost l s = s := by
  unfold carrierLost
  rw [if_neg (by simp [carrier])]

/-- The path with a silence counted. -/
def silenced (p : Path) : Path := { p with silences := incSat16 p.silences }

theorem silenceDue_of_expiry (works : inService (s.path l) = true) (due : s.uplink.timeoutInForce ≤ (s.path l).silence) :
    silenceDue l s =
      if (s.path l).carrier then enterPath l .probing .silence (enterPath l .down .silence (s.modPath l silenced))
      else enterPath l .down .silence (s.modPath l silenced) := by
  unfold silenceDue
  rw [if_pos (by simp [works, due])]
  rfl

end

/-- Settles O41: each request and event is one change of state, and the end of the event leaves the path as it is. -/
theorem pathStatesChange : Obligations.PathStatesChange := by
  intro tag l s free p n works expires out runsOnce noneLeft
  have service (on : works) : inService (s.path l) = true := (inService_iff p).mpr on
  have rest (off : p.st = .off ∨ p.st = .down) : inService (s.path l) = false := by
    rcases off with h | h <;> simp [inService, show (s.path l).st = _ from h]
  have once {t : State} {q : Path} (enters : Enters l s t q) : runsOnce t := ⟨enters.cause, enters.runs, enters.raises⟩
  have enables : exec (.enablePath tag l.1) s = .next (replied tag 31 done (enablePath l (counted s))) :=
    exec_replied (exec_enablePath tag l.1 s) free (perform_enablePath l _)
  have disables (on : (s.path l).st ≠ .off) : exec (.disablePath tag l.1) s =
      .next (replied tag 32 done (settle (enterPath l .off .disable (counted s)))) := by
    have on' : ((counted s).path l).st ≠ .off := on
    have performs : perform (.disablePath l.1) (counted s) =
        (.answer done, settle (enterPath l .off .disable (counted s))) := by
      rw [perform_disablePath, if_neg (by simpa using on'), disablePath_of_on on']
    have replies := exec_replied (exec_disablePath tag l.1 s) free performs
    exact replies
  refine ⟨fun on => ?_, fun off carrier => ?_, fun off carrier => ?_, fun down carrier => ?_, fun off => ?_, fun down => ?_,
    fun on => ?_, fun carrier => ?_, fun carrier down => ?_, fun carrier other => ?_, fun carrier on => ?_,
    fun carrier off => ?_, fun carrier off => ?_, fun on due carrier => ?_, fun on due carrier => ?_⟩
  · rw [enables, enablePath_of_service (s := counted s) (service on), replied_counted]
  · have enters := (enters_of_rest (s := counted s) (rest off) .probing .enable).of_reply tag 31
    rw [enables, enablePath_of_carrier (s := counted s) off carrier]
    exact ⟨_, rfl, once enters, enters.path⟩
  · have enters := (enters_of_rest (s := counted s) (rest (.inl off)) .down .enable).of_reply tag 31
    rw [enables, enablePath_of_off (s := counted s) off carrier]
    exact ⟨_, rfl, once enters, enters.path⟩
  · rw [enables, enablePath_of_down (s := counted s) down carrier, replied_counted]
  · refine (exec_replied (exec_disablePath tag l.1 s) free (perform_disablePath l _)).trans ?_
    rw [if_pos (by simp [counted_path, show (s.path l).st = _ from off]), replied_counted]
    exact congrArg _ rfl
  · have on : (s.path l).st ≠ .off := fun off => absurd (off.symm.trans down) (by decide)
    have quiet := entered_resting (.inr rfl) (s.path l)
    have enters := ((enters_of_rest (s := counted s) (rest (.inr down)) .off .disable).settled quiet).of_reply tag 32
    exact ⟨_, disables on, once enters, enters.path⟩
  · have on' : (s.path l).st ≠ .off := fun off => by rcases on with h | h | h <;> exact absurd (off.symm.trans h) (by decide)
    have left := left_of_service (s := counted s) (service on) (.inr rfl) .disable
    have enters := left.1.of_reply tag 32
    have leaves : NoneLeft l (replied tag 32 done (settle (enterPath l .off .disable (counted s)))).sched.window :=
      left.2.of_reply tag 32
    exact ⟨_, disables on', once enters, leaves, enters.path⟩
  · have stands : carrierGained l s = s := carrierGained_of_carrier carrier
    rw [exec_carrierGained, stands]
  · have rests : inService ((s.modPath l fun p => { p with carrier := true }).path l) = false := by
      rw [modPath_path, if_pos rfl]
      exact rest (.inr down)
    have enters := (enters_of_rest rests .probing .carrierGained).of_modPath
    have gained : carrierGained l s = enterPath l .probing .carrierGained (s.modPath l fun p => { p with carrier := true }) := by
      unfold carrierGained
      rw [if_neg (by simp [show (s.path l).carrier = _ from carrier])]
      exact if_pos (by simp [show (s.path l).st = _ from down])
    rw [exec_carrierGained, gained]
    refine ⟨_, rfl, once enters, enters.path.trans ?_⟩
    rw [modPath_path, if_pos rfl]
    rfl
  · rw [exec_carrierGained]
    unfold carrierGained
    rw [if_neg (by simp [show (s.path l).carrier = _ from carrier])]
    exact congrArg _ (if_neg (by simpa using other))
  · have works' : inService ((s.modPath l withoutCarrier).path l) = true := by
      rw [modPath_path, if_pos rfl]
      exact service on
    have left := left_of_service works' (.inl rfl) .carrierLost
    have enters := left.1.of_modPath
    have notOff : ((s.path l).st == .off) = false := by
      rcases on with h | h | h <;> rw [show (s.path l).st = _ from h] <;> rfl
    rw [exec_carrierLost, carrierLost_of_service carrier (service on)]
    refine ⟨_, rfl, once enters, left.2, enters.path.trans ?_⟩
    rw [modPath_path, if_pos rfl]
    simp only [withoutCarrier, notOff]
    rfl
  · have path : (s.modPath l withoutCarrier).path l = withoutCarrier (s.path l) := by rw [modPath_path, if_pos rfl]
    have quiet : SendsNothing ((s.modPath l withoutCarrier).path l) := by
      rw [path]
      exact .of_resting off
    rw [exec_carrierLost, carrierLost_of_rest carrier (rest off)]
    refine ⟨_, rfl, (settle_inner _).same .alloc (by decide), settle_raises _ (by decide), ?_⟩
    rw [settle_path quiet, path]
    simp [withoutCarrier, incSat16, p]
  · rw [exec_carrierLost, carrierLost_of_none carrier]
    exact ⟨_, rfl, settle_path (.of_resting off)⟩
  · have works' : inService ((s.modPath l silenced).path l) = true := by
      rw [modPath_path, if_pos rfl]
      exact service on
    have left := left_of_service works' (.inl rfl) .silence
    have enters := left.1.of_modPath
    rw [exec_silenceExpiry, silenceDue_of_expiry (service on) due, if_neg (by simp [show (s.path l).carrier = _ from carrier])]
    refine ⟨_, rfl, once enters, left.2, enters.path.trans ?_⟩
    rw [modPath_path, if_pos rfl]
    rfl
  · have works' : inService ((s.modPath l silenced).path l) = true := by
      rw [modPath_path, if_pos rfl]
      exact service on
    obtain ⟨u, downs⟩ : ∃ u, u = enterPath l .down .silence (s.modPath l silenced) := ⟨_, rfl⟩
    have first := enters_of_service works' (.inl rfl) .silence
    have left := enterPath_noneLeft works' (.inl rfl) .silence
    rw [← downs] at first left
    have rests : inService (u.path l) = false := by
      rw [first.path]
      rfl
    have second := enters_of_rest rests .probing .silence
    have window : (enterPath l .probing .silence u).sched.window = u.sched.window := by
      rw [enterPath_window, rests]
      rfl
    have quiet : SendsNothing ((enterPath l .probing .silence u).path l) := by
      rw [second.path, first.path]
      exact ⟨nofun, fun _ _ => (Nat.zero_lt_succ 8415 : 0 < 8416)⟩
    have enters := second.settled (by rw [← second.path]; exact quiet)
    rw [exec_silenceExpiry, silenceDue_of_expiry (service on) due, if_pos carrier, ← downs]
    refine ⟨_, rfl, settle_noneLeft quiet (by rwa [window]), enters.path.trans ?_, enters.runs.trans ?_,
      enters.raises.trans ?_⟩
    · rw [first.path, modPath_path, if_pos rfl]
      rfl
    · rw [first.runs]
      show ((s.alloc.runs + 1) % 2 ^ 32 + 1) % 2 ^ 32 = _
      omega
    · rw [first.raises]
      show ((s.link.raises.get 12 + 1) % 2 ^ 32 + 1) % 2 ^ 32 = _
      omega

end Sys2Proof.Machine
end

section
/-! PROOFS. What a path makes of its entry of a report: the class of the entry, the estimate, the state (R137, R140 to
R142). -/

namespace Sys2Proof.Machine

set_option Elab.async false

/-! ### The class of an entry (R140) -/

section
variable {threshold : Nat} {p : Path} {e : PathEntry}

theorem classify_empty (none : e.received = 0) (sent : 4 ≤ p.packetsSent) : classify threshold p e = .empty := by
  unfold classify
  rw [if_pos ⟨none, sent⟩]

theorem classify_bad (other : ¬(e.received = 0 ∧ 4 ≤ p.packetsSent)) (some : e.received + e.missing ≠ 0)
    (misses : threshold * (e.received + e.missing) < e.missing * 256) : classify threshold p e = .bad := by
  unfold classify
  rw [if_neg other, if_neg (fun h => some h.1), if_pos misses]

theorem classify_neutral (other : ¬(e.received = 0 ∧ 4 ≤ p.packetsSent)) (none : e.received + e.missing = 0) :
    classify threshold p e = .neutral := by
  unfold classify
  rw [if_neg other, if_pos ⟨none, by omega⟩]

theorem classify_good (other : ¬(e.received = 0 ∧ 4 ≤ p.packetsSent)) (some : e.received + e.missing ≠ 0)
    (keeps : ¬threshold * (e.received + e.missing) < e.missing * 256) : classify threshold p e =
      if 0 < p.bitsGranted ∧ p.bitsGranted * 3 ≤ p.bitsSent * 4 then .loaded else .unloaded := by
  unfold classify
  rw [if_neg other, if_neg (fun h => some h.1), if_neg keeps]

end

/-! ### The path after its entry (R141, R142) -/

theorem modPath_modPath (l : Fin 6) (f g : Path → Path) (s : State) :
    (s.modPath l f).modPath l g = s.modPath l fun p => g (f p) := by
  have folds : Vec.put (Vec.put s.paths l (f (s.paths.get l))) l (g ((Vec.put s.paths l (f (s.paths.get l))).get l)) =
      Vec.put s.paths l (g (f (s.paths.get l))) := by
    rw [Vec_get_put_same]
    exact Vector.set_set ..
  exact congrArg (fun v => { s with paths := v }) folds

/-- The path that takes an entry of a class, before its state moves. -/
def pathAfter (c : EntryClass) (p : Path) : Path := estimateAfter c { p with silence := 0 }

section
variable (l : Fin 6) (e : PathEntry) (s : State)

theorem takeEntry_of_rest (rests : (s.path l).st = .off ∨ (s.path l).st = .down) : takeEntry l e s = s := by
  unfold takeEntry
  rcases rests with h | h <;> simp only [h]

theorem takeEntry_of_probing (probes : (s.path l).st = .probing) : takeEntry l e s =
    if 0 < e.received ∧ (s.path l).probeSince = true then
      answerProbe l (s.modPath l fun p => { p with silence := 0 })
    else s.modPath l fun p => { p with silence := 0 } := by
  have works : inService (s.path l) = true := (inService_iff _).mpr (.inl probes)
  unfold takeEntry
  simp only [probes, works, if_true]

theorem takeEntry_of_carrying (carries : (s.path l).st = .up ∨ (s.path l).st = .degraded) {c : EntryClass}
    (class_ : classify s.uplink.badThreshold (s.path l) e = c) :
    takeEntry l e s = moveState l c (s.modPath l (pathAfter c)) := by
  have works : inService (s.path l) = true := (inService_iff _).mpr (.inr carries)
  subst class_
  have folds := modPath_modPath l (fun p => { p with silence := 0 })
    (estimateAfter (classify s.uplink.badThreshold (s.path l) e)) s
  unfold takeEntry
  rcases carries with h | h <;> simp only [h, works, if_true] <;> rw [folds] <;> rfl

end

/-- The estimate that a bad or empty entry leaves (R141). -/
def cutEstimate (p : Path) : Nat := max 64 (p.estimate - p.estimate / 4)

theorem pathAfter_falls {p : Path} (carries : p.st = .up ∨ p.st = .degraded) {c : EntryClass}
    (bad : c = .empty ∨ c = .bad) : pathAfter c p =
      { p with
        silence := 0, estimate := cutEstimate p, credit := min p.credit (cutEstimate p * p.burst)
        badReports := min (p.badReports + 1) 65535 } := by
  have rate (q : Path) (same : q.st = p.st) : pathRate q = q.estimate := by
    unfold pathRate
    rcases carries with h | h <;> rw [same, h]
  have capped (q : Path) (same : q.st = p.st) : capCredit q = { q with credit := min q.credit (q.estimate * q.burst) } := by
    unfold capCredit creditCap
    rw [rate q same]
  rcases bad with rfl | rfl <;> exact capped _ rfl

theorem pathAfter_st (c : EntryClass) (p : Path) : (pathAfter c p).st = p.st := by cases c <;> rfl

/-! ### The moves (R142) -/

section
variable (l : Fin 6) (s : State) (c : EntryClass)

theorem modified_path (f : Path → Path) : (s.modPath l f).path l = f (s.path l) := by
  rw [modPath_path, if_pos rfl]

/-- A path that enters a state other than DOWN and OFF after a change of its record. -/
theorem enterPath_modPath_carrying {st : PathState} (stays : st = .up ∨ st = .degraded) (cause : PathCause)
    (f : Path → Path) :
    (enterPath l st cause (s.modPath l f)).path l = entered st (f (s.path l)) := by
  rw [enterPath_path_own, modified_path]
  rcases stays with rfl | rfl <;> simp

theorem moveState_up_of_good (up : (s.path l).st = .up) (good : c ≠ .empty ∧ c ≠ .bad) : moveState l c s = s := by
  unfold moveState
  simp [up, good.1, good.2]

theorem moveState_up_of_bad (up : (s.path l).st = .up) (bad : c = .empty ∨ c = .bad) : (moveState l c s).path l =
    entered .degraded { s.path l with good := 0, bad := if c = .empty then 1 else 0 } := by
  unfold moveState
  rcases bad with rfl | rfl
  all_goals
    simp only [up, beq_self_eq_true, if_true, beq_iff_eq, reduceCtorEq, if_false]
    exact enterPath_modPath_carrying l s (.inr rfl) _ _

theorem moveState_degraded (degraded : (s.path l).st = .degraded) : moveState l c s =
    if (countsAfter c (s.path l)).good = 3 then
      enterPath l .up .goodReports (s.modPath l fun _ => { countsAfter c (s.path l) with good := 0, bad := 0 })
    else if (countsAfter c (s.path l)).bad = 3 then
      enterPath l .down .emptyReports (s.modPath l fun _ => countsAfter c (s.path l))
    else s.modPath l fun _ => countsAfter c (s.path l) := by
  unfold moveState
  simp only [degraded, beq_iff_eq, reduceCtorEq, if_false]

end

/-! ### The entry at each state -/

section
variable {l : Fin 6} {e : PathEntry} {s : State} {c : EntryClass}

theorem takeEntry_up_of_good (up : (s.path l).st = .up) (class_ : classify s.uplink.badThreshold (s.path l) e = c)
    (good : c ≠ .empty ∧ c ≠ .bad) : takeEntry l e s = s.modPath l fun _ => pathAfter c (s.path l) := by
  have still : ((s.modPath l (pathAfter c)).path l).st = .up := by rw [modified_path, pathAfter_st, up]
  rw [takeEntry_of_carrying l e s (.inl up) class_, moveState_up_of_good l _ c still good]
  rfl

theorem takeEntry_up_of_bad (up : (s.path l).st = .up) (class_ : classify s.uplink.badThreshold (s.path l) e = c)
    (bad : c = .empty ∨ c = .bad) : (takeEntry l e s).path l =
      entered .degraded { pathAfter c (s.path l) with good := 0, bad := if c = .empty then 1 else 0 } := by
  have still : ((s.modPath l (pathAfter c)).path l).st = .up := by rw [modified_path, pathAfter_st, up]
  rw [takeEntry_of_carrying l e s (.inl up) class_, moveState_up_of_bad l _ c still bad, modified_path]

/-- The record of a path in DEGRADED after the counts of its entry. -/
def degradedAfter (c : EntryClass) (p : Path) : Path := countsAfter c (pathAfter c p)

theorem takeEntry_degraded (degraded : (s.path l).st = .degraded)
    (class_ : classify s.uplink.badThreshold (s.path l) e = c) : takeEntry l e s =
      if (degradedAfter c (s.path l)).good = 3 then
        enterPath l .up .goodReports (s.modPath l fun _ => { degradedAfter c (s.path l) with good := 0, bad := 0 })
      else if (degradedAfter c (s.path l)).bad = 3 then
        enterPath l .down .emptyReports (s.modPath l fun _ => degradedAfter c (s.path l))
      else s.modPath l fun _ => degradedAfter c (s.path l) := by
  have still : ((s.modPath l (pathAfter c)).path l).st = .degraded := by rw [modified_path, pathAfter_st, degraded]
  rw [takeEntry_of_carrying l e s (.inr degraded) class_, moveState_degraded l _ c still, modified_path]
  simp only [modPath_modPath]
  rfl

theorem takeEntry_degraded_stays (degraded : (s.path l).st = .degraded)
    (class_ : classify s.uplink.badThreshold (s.path l) e = c) (good : (degradedAfter c (s.path l)).good ≠ 3)
    (bad : (degradedAfter c (s.path l)).bad ≠ 3) :
    takeEntry l e s = s.modPath l fun _ => degradedAfter c (s.path l) := by
  rw [takeEntry_degraded degraded class_, if_neg good, if_neg bad]

theorem takeEntry_degraded_good (degraded : (s.path l).st = .degraded)
    (class_ : classify s.uplink.badThreshold (s.path l) e = c) (third : (degradedAfter c (s.path l)).good = 3) :
    (takeEntry l e s).path l = entered .up { degradedAfter c (s.path l) with good := 0, bad := 0 } := by
  rw [takeEntry_degraded degraded class_, if_pos third]
  exact enterPath_modPath_carrying l s (.inl rfl) _ _

theorem takeEntry_degraded_empty (degraded : (s.path l).st = .degraded)
    (class_ : classify s.uplink.badThreshold (s.path l) e = .empty) (second : (s.path l).bad = 2) :
    (takeEntry l e s).path l = entered .down (outOfService (degradedAfter .empty (s.path l))) := by
  have third : (degradedAfter .empty (s.path l)).bad = 3 := congrArg (· + 1) second
  have first : (degradedAfter .empty (s.path l)).good ≠ 3 := (by decide : (0 : Nat) ≠ 3)
  have works : inService (degradedAfter .empty (s.path l)) = true := (inService_iff _).mpr (.inr (.inr degraded))
  rw [takeEntry_degraded degraded class_, if_neg first, if_pos third, enterPath_path_own,
    modified_path, works]
  rfl

theorem answerProbe_path (l : Fin 6) (s : State) : (answerProbe l s).path l =
    capCredit (entered .up { s.path l with estimate := min (s.path l).initial (s.path l).ceiling, good := 0, bad := 0 }) := by
  unfold answerProbe
  dsimp only
  rw [modified_path, enterPath_modPath_carrying l s (.inl rfl)]

end

/-- Settles O45, by the state of the path and the class of the entry. -/
theorem reportEntriesMoveTheEstimate : Obligations.ReportEntriesMoveTheEstimate := by
  intro l e s p t sum empty bad loaded cut raised bads goods becomes
  have classEmpty (none : empty) : classify s.uplink.badThreshold (s.path l) e = .empty := classify_empty none.1 none.2
  have classBad (isBad : bad) (some : ¬empty) : classify s.uplink.badThreshold (s.path l) e = .bad := by
    obtain ⟨count, misses⟩ := isBad.resolve_left some
    exact classify_bad some count misses
  have classNeutral (good : ¬bad) (none : sum = 0) : classify s.uplink.badThreshold (s.path l) e = .neutral :=
    classify_neutral (fun h => good (.inl h)) none
  have classGood (good : ¬bad) (some : sum ≠ 0) : classify s.uplink.badThreshold (s.path l) e =
      if loaded then .loaded else .unloaded :=
    classify_good (fun h => good (.inl h)) some fun h => good (.inr ⟨some, h⟩)
  have classLoaded (good : ¬bad) (some : sum ≠ 0) (full : loaded) :
      classify s.uplink.badThreshold (s.path l) e = .loaded := (classGood good some).trans (if_pos full)
  have classUnloaded (good : ¬bad) (some : sum ≠ 0) (full : ¬loaded) :
      classify s.uplink.badThreshold (s.path l) e = .unloaded := (classGood good some).trans (if_neg full)
  refine ⟨takeEntry_of_rest l e s, fun probes received since => ?_, fun probes unanswered => ?_,
    fun up => ⟨fun isBad => ?_, fun good none => takeEntry_up_of_good up (classNeutral good none) (by decide),
      fun good some full => takeEntry_up_of_good up (classLoaded good some full) (by decide),
      fun good some full => takeEntry_up_of_good up (classUnloaded good some full) (by decide)⟩,
    fun degraded => ⟨fun none other => ?_, fun none second => ?_, fun isBad some => ?_, fun good none few fewBad => ?_,
      fun good some other full => ?_, fun good some other full => ?_, fun good some second => ?_⟩⟩
  · have answers : t = answerProbe l (s.modPath l fun p => { p with silence := 0 }) :=
      (takeEntry_of_probing l e s probes).trans (if_pos ⟨received, since⟩)
    rw [answers, answerProbe_path, modified_path]
    exact ⟨rfl, rfl, rfl⟩
  · refine (takeEntry_of_probing l e s probes).trans (if_neg fun h => ?_)
    rcases unanswered with none | none
    · omega
    · exact absurd (h.2.symm.trans none) (by decide)
  · by_cases none : empty
    · exact (takeEntry_up_of_bad up (classEmpty none) (.inl rfl)).trans (by
        rw [if_pos none, if_pos rfl, pathAfter_falls (.inl up) (.inl rfl)]
        rfl)
    · exact (takeEntry_up_of_bad up (classBad isBad none) (.inr rfl)).trans (by
        rw [if_neg none, if_neg (by decide), pathAfter_falls (.inl up) (.inr rfl)]
        rfl)
  · have bads : (degradedAfter .empty (s.path l)).bad ≠ 3 := by
      show p.bad + 1 ≠ 3
      omega
    have stays := takeEntry_degraded_stays degraded (classEmpty none) (by decide : (0 : Nat) ≠ 3) bads
    rw [degradedAfter, pathAfter_falls (.inr degraded) (.inl rfl)] at stays
    exact stays
  · have falls : t.path l = _ := takeEntry_degraded_empty degraded (classEmpty none) second
    rw [falls]
    exact ⟨rfl, rfl, rfl⟩
  · have stays := takeEntry_degraded_stays degraded (classBad isBad some) (by decide : (0 : Nat) ≠ 3)
      (by decide : (0 : Nat) ≠ 3)
    rw [degradedAfter, pathAfter_falls (.inr degraded) (.inr rfl)] at stays
    exact stays
  · exact takeEntry_degraded_stays degraded (classNeutral good none) (by show p.good ≠ 3; omega)
      (by show p.bad ≠ 3; omega)
  · exact takeEntry_degraded_stays degraded (classLoaded good some full) (by show p.good + 1 ≠ 3; omega)
      (by decide : (0 : Nat) ≠ 3)
  · exact takeEntry_degraded_stays degraded (classUnloaded good some full) (by show p.good + 1 ≠ 3; omega)
      (by decide : (0 : Nat) ≠ 3)
  · by_cases full : loaded
    · have rises : t.path l = _ := takeEntry_degraded_good degraded (classLoaded good some full) (congrArg (· + 1) second)
      rw [rises, if_pos full]
      exact ⟨rfl, rfl, rfl, rfl⟩
    · have rises : t.path l = _ :=
        takeEntry_degraded_good degraded (classUnloaded good some full) (congrArg (· + 1) second)
      rw [rises, if_neg full]
      exact ⟨rfl, rfl, rfl, rfl⟩

end Sys2Proof.Machine
end

section
/-! PROOFS. What the work of one program's coder leaves of the other programs, of its own program, and of the events that
are none of its own. -/

namespace Sys2Proof.Machine

set_option Elab.async false

/-! ### The events that a take and a coder can raise -/

/-- The kinds that the work of a coder can raise: CEILING, STORE_PRESSURE, PICTURE_CUT, CLIP_YIELDED and NOTICE_LOST. -/
def coderKinds : List (Fin 18) :=
  [EventKind.ceiling.index, EventKind.storePressure.index, EventKind.pictureCut.index, EventKind.clipYielded.index,
    EventKind.noticeLost.index]

section
variable {j : Fin 18} (other : j ∉ coderKinds)
include other

theorem raise_apart {k : EventKind} (own : k.index ∈ coderKinds) (details : List Byte) (s : State) :
    (raise k details s).link.raises.get j = s.link.raises.get j :=
  raise_raises_ne k details s (fun same => other (same ▸ own)) fun same => other (same ▸ by decide)

theorem setPressure_raises_apart (cut : Option Nat) (s : State) :
    (setPressure cut s).link.raises.get j = s.link.raises.get j := by
  unfold setPressure
  dsimp only
  split
  · rfl
  · exact raise_apart other (by decide) _ _

theorem yieldN_raises_apart (n : Nat) : ∀ s, (yieldN n s).link.raises.get j = s.link.raises.get j := by
  induction n with
  | zero => exact fun s => rfl
  | succ n ih =>
    intro s
    unfold yieldN
    split
    · rfl
    · split
      · rfl
      · rename_i c _
        split
        · rfl
        · rw [ih, link_of_same (freeZero_inner _) (by decide), raise_apart other (by decide), modClips_link,
            link_of_same (releaseClip_inner c s) (by decide)]

theorem yieldRequest_raises_apart (s : State) : (yieldRequest s).link.raises.get j = s.link.raises.get j := by
  unfold yieldRequest
  split
  · rw [link_of_same (freedTogether_inner _ _) (by decide), yieldN_raises_apart other, modStore_link]
  · rfl

theorem reserveRule_raises_apart (s : State) : (reserveRule s).link.raises.get j = s.link.raises.get j := by
  unfold reserveRule
  split
  · rw [yieldRequest_raises_apart other, setPressure_raises_apart other]
  · rfl

theorem takeSegment_raises_apart (p : Fin 4) (offset : Nat) (s : State) :
    (takeSegment p offset s).link.raises.get j = s.link.raises.get j := by
  unfold takeSegment
  split
  · rfl
  · rw [reserveRule_raises_apart other, link_of_same (pinClosing_inner p _ _) (by decide),
      link_of_same (pinOpen_inner p _ _) (by decide)]
    rfl

theorem refuseTake_raises_apart (p : Fin 4) (picture : Nat) (s : State) :
    (refuseTake p picture s).link.raises.get j = s.link.raises.get j := by
  unfold refuseTake
  rw [yieldRequest_raises_apart other, setPressure_raises_apart other, raise_apart other (by decide)]
  rfl

end

/-! ### What a coder's work leaves -/

/-- What the work of program `p`'s coder leaves: the other programs, coders and rate loops, of its own program all but
the stream offset, and the counts of the events that are none of its own. -/
structure CoderKeeps (p : Fin 4) (s t : State) : Prop where
  prog : t.prog p = { s.prog p with streamOffset := (t.prog p).streamOffset }
  prog_ne : ∀ q, p ≠ q → t.prog q = s.prog q
  coder_ne : ∀ q, p ≠ q → t.coder q = s.coder q
  loop_ne : ∀ q, p ≠ q → t.loop q = s.loop q
  raises : ∀ j, j ∉ coderKinds → t.link.raises.get j = s.link.raises.get j

namespace CoderKeeps
variable {p : Fin 4} {s t u : State}

theorem of_same (progs : t.progs = s.progs) (coders : t.coders = s.coders) (loops : t.loops = s.loops)
    (raises : ∀ j, j ∉ coderKinds → t.link.raises.get j = s.link.raises.get j) : CoderKeeps p s t where
  prog := by unfold State.prog; rw [progs]
  prog_ne q _ := by unfold State.prog; rw [progs]
  coder_ne q _ := by unfold State.coder; rw [coders]
  loop_ne q _ := by unfold State.loop; rw [loops]
  raises := raises

theorem refl (s : State) : CoderKeeps p s s := of_same rfl rfl rfl fun _ _ => rfl

theorem trans (first : CoderKeeps p s t) (next : CoderKeeps p t u) : CoderKeeps p s u where
  prog := by rw [next.prog, first.prog]
  prog_ne q other := (next.prog_ne q other).trans (first.prog_ne q other)
  coder_ne q other := (next.coder_ne q other).trans (first.coder_ne q other)
  loop_ne q other := (next.loop_ne q other).trans (first.loop_ne q other)
  raises j other := (next.raises j other).trans (first.raises j other)

theorem ite {c : Prop} [Decidable c] (yes : CoderKeeps p s t) (no : CoderKeeps p s u) :
    CoderKeeps p s (if c then t else u) := by
  split
  · exact yes
  · exact no

/-- A change of parts that are neither programs, coders, rate loops nor the link. -/
theorem of_inner {ps : List Part} (kept : Inner ps s t)
    (apart : Part.progs ∉ ps ∧ Part.coders ∉ ps ∧ Part.loops ∉ ps ∧ Part.link ∉ ps) : CoderKeeps p s t :=
  of_same (kept.same .progs apart.1) (kept.same .coders apart.2.1) (kept.same .loops apart.2.2.1)
    fun j _ => congrArg (fun l : Link => l.raises.get j) (link_of_same kept apart.2.2.2)

theorem modCoder (f : Coder → Coder) : CoderKeeps p s (s.modCoder p f) :=
  { refl s with coder_ne := fun q other => by rw [modCoder_coder, if_neg other] }

theorem modLoop (f : RateLoop → RateLoop) : CoderKeeps p s (s.modLoop p f) :=
  { refl s with loop_ne := fun q other => by rw [modLoop_loop, if_neg other] }

theorem streamOffset (f : Program → Nat) : CoderKeeps p s (s.modProg p fun g => { g with streamOffset := f g }) :=
  { refl s with
    prog := by simp only [modProg_prog, if_true]
    prog_ne := fun q other => by rw [modProg_prog, if_neg other] }

/-- A change of the store and the clips, with events of a coder's own. -/
theorem of_store {ps : List Part} (kept : Inner ps s t)
    (apart : Part.progs ∉ ps ∧ Part.coders ∉ ps ∧ Part.loops ∉ ps)
    (raises : ∀ j, j ∉ coderKinds → t.link.raises.get j = s.link.raises.get j) : CoderKeeps p s t :=
  of_same (kept.same .progs apart.1) (kept.same .coders apart.2.1) (kept.same .loops apart.2.2) raises

end CoderKeeps

section
variable (p : Fin 4) (s : State)

theorem writePart_coderKeeps (u : StreamUnit) (o : Nat) (b : List Byte) (x y : Bool) :
    CoderKeeps p s (writePart p u o b x y s) := .of_inner (writePart_inner ..) (by decide)

theorem afterWrite_coderKeeps (u : StreamUnit) : CoderKeeps p s (afterWrite p u s) := by
  have moves : CoderKeeps p s (s.modProg p fun g => { g with streamOffset := g.streamOffset + u.bytes.length }) :=
    .streamOffset _
  refine moves.trans ?_
  unfold afterWrite
  exact .of_inner (((modLive_inner _ p _).widen (ps := [.lives, .clips, .sched])).andThen
    (modClips_inner _ _) |>.andThen (letAsk_inner _)) (by decide)

theorem takeSegment_coderKeeps (o : Nat) : CoderKeeps p s (takeSegment p o s) :=
  .of_store (takeSegment_inner p o s) (by decide) fun _ other => takeSegment_raises_apart other p o s

theorem refuseTake_coderKeeps (picture : Nat) : CoderKeeps p s (refuseTake p picture s) :=
  .of_store (refuseTake_inner p picture s) (by decide) fun _ other => refuseTake_raises_apart other p picture s

theorem offerUnit_coderKeeps (u : StreamUnit) : CoderKeeps p s (offerUnit p u s).2 := by
  unfold offerUnit
  dsimp only
  split
  · exact .refl s
  · split
    · exact (writePart_coderKeeps ..).trans (afterWrite_coderKeeps p _ u)
    · split
      · exact refuseTake_coderKeeps p s _
      · exact (((CoderKeeps.ite (.refl s) (writePart_coderKeeps ..)).trans (takeSegment_coderKeeps p _ _)).trans
          (writePart_coderKeeps ..)).trans (afterWrite_coderKeeps p _ u)

theorem popItem_coderKeeps : CoderKeeps p s (popItem p s) := .modCoder _

theorem coderCut_coderKeeps (picture : Nat) : CoderKeeps p s (coderCut p picture s) := .modCoder _

theorem callFor_coderKeeps (items : List CoderItem) : CoderKeeps p s (callFor p items s) := .modCoder _

theorem writeHead_coderKeeps (picture : Nat) (label : Timecode) : CoderKeeps p s (writeHead p picture label s) := by
  unfold writeHead
  split
  · exact .refl s
  · dsimp only
    exact .ite (((offerUnit_coderKeeps ..).trans (.modLoop _)).trans (.modCoder _))
      ((offerUnit_coderKeeps ..).trans (coderCut_coderKeeps ..))

theorem writeRepeat_coderKeeps (picture : Nat) : CoderKeeps p s (writeRepeat p picture s) :=
  .ite (offerUnit_coderKeeps ..) ((offerUnit_coderKeeps ..).trans (coderCut_coderKeeps ..))

theorem writeSlateSlices_coderKeeps (picture qi escapes : Nat) (payload : List Byte) (left : Nat) :
    ∀ index s, CoderKeeps p s (writeSlateSlices p picture qi escapes payload left index s) := by
  induction left with
  | zero => exact fun _ s => .refl s
  | succ left ih =>
    intro index s
    unfold writeSlateSlices
    exact .ite (((offerUnit_coderKeeps ..).trans (.modCoder _)).trans (ih ..))
      ((offerUnit_coderKeeps ..).trans (coderCut_coderKeeps ..))

theorem writeSlate_coderKeeps (picture : Nat) (label : Timecode) : CoderKeeps p s (writeSlate p picture label s) := by
  unfold writeSlate
  split
  · exact .refl s
  · dsimp only
    exact .ite ((offerUnit_coderKeeps ..).trans (writeSlateSlices_coderKeeps ..))
      ((offerUnit_coderKeeps ..).trans (coderCut_coderKeeps ..))

theorem beginSlice_coderKeeps (picture index : Nat) : CoderKeeps p s (beginSlice p picture index s) := by
  have ceiling (details : List Byte) (t : State) : CoderKeeps p t (raise .ceiling details t) :=
    .of_store (raise_inner .ceiling details t) (by decide) fun _ other => raise_apart other (by decide) _ _
  unfold beginSlice
  split
  · exact popItem_coderKeeps p s
  · exact .ite (.ite (.modCoder _)
      (.ite ((CoderKeeps.modCoder _).trans (.modLoop _)) (((CoderKeeps.modCoder _).trans (.modLoop _)).trans (ceiling _ _))))
      (.modCoder _)

theorem advanceN_coderKeeps (n : Nat) : ∀ s, CoderKeeps p s (advanceN p n s) := by
  induction n with
  | zero => exact fun s => .refl s
  | succ n ih =>
    intro s
    have pops := popItem_coderKeeps p s
    unfold advanceN
    split
    · exact .refl s
    · exact (pops.trans (writeHead_coderKeeps ..)).trans (ih _)
    · exact (pops.trans (writeRepeat_coderKeeps ..)).trans (ih _)
    · exact (pops.trans (writeSlate_coderKeeps ..)).trans (ih _)
    · exact .ite (.refl s) (.ite (pops.trans (ih _)) (beginSlice_coderKeeps ..))

theorem advance_coderKeeps : CoderKeeps p s (advance p s) := advanceN_coderKeeps p _ s

theorem finishSlice_coderKeeps : CoderKeeps p s (finishSlice p s) := by
  have offers (u : StreamUnit) := (popItem_coderKeeps p s).trans (offerUnit_coderKeeps p (popItem p s) u)
  have loops (r : ProgramRecord) (b : Nat) (t : State) : CoderKeeps p t (loopTake p r b t) := by
    unfold loopTake
    exact (CoderKeeps.modLoop _).trans (.modCoder _)
  have finishes (t : State) : CoderKeeps p t (pictureDone p t) := (CoderKeeps.modCoder _).trans (.modLoop _)
  have counts (u : StreamUnit) (f : Coder → Coder) := (offers u).trans (CoderKeeps.modCoder f)
  unfold finishSlice
  split
  · exact .ite (.ite (((counts _ _).trans (loops ..)).trans (finishes _)) ((counts _ _).trans (loops ..)))
      ((offers _).trans (coderCut_coderKeeps ..))
  · exact .refl s

theorem flushN_coderKeeps (n : Nat) : ∀ s, CoderKeeps p s (flushN p n s) := by
  induction n with
  | zero => exact fun s => .refl s
  | succ n ih =>
    intro s
    unfold flushN
    exact .ite (((advance_coderKeeps p s).trans (finishSlice_coderKeeps p _)).trans (ih _)) (advance_coderKeeps p s)

theorem flushCoder_coderKeeps : CoderKeeps p s (flushCoder p s) := flushN_coderKeeps p _ s

theorem closeShort_coderKeeps : CoderKeeps p s (closeShort p s) := by
  unfold closeShort
  split
  · exact ((CoderKeeps.of_inner (modIntake_inner s p _) (by decide)).trans (callFor_coderKeeps ..)).trans
      (flushCoder_coderKeeps p _)
  · exact .refl s

theorem programLine_coderKeeps (r : ProgramRecord) (line : Line) : CoderKeeps p s (programLine p r line s) := by
  unfold programLine
  split
  · exact .refl s
  · have takes (f : Intake → Intake) : CoderKeeps p s (s.modIntake p f) := .of_inner (modIntake_inner s p f) (by decide)
    exact .ite (((takes _).trans (callFor_coderKeeps ..)).trans (advance_coderKeeps p _)) (takes _)

theorem accept_coderKeeps : CoderKeeps p s (accept p s) :=
  ((CoderKeeps.of_inner (modIntake_inner s p _) (by decide)).trans (callFor_coderKeeps ..)).trans (advance_coderKeeps p _)

end

/-! ### Programs in turn -/

/-- What is done to each program in turn, where it does nothing to all programs but one. -/
theorem eachProgram_single (f : Fin 4 → State → State) (p : Fin 4) (s : State) (P : State → Prop) (before : P s)
    (after : P (f p s)) (rests : ∀ q t, p ≠ q → P t → f q t = t) : eachProgram f s = f p s := by
  unfold eachProgram
  match p with
  | 0 => rw [rests 1 _ (by decide) after, rests 2 _ (by decide) after, rests 3 _ (by decide) after]
  | 1 => rw [rests 0 _ (by decide) before, rests 2 _ (by decide) after, rests 3 _ (by decide) after]
  | 2 => rw [rests 0 _ (by decide) before, rests 1 _ (by decide) before, rests 3 _ (by decide) after]
  | 3 => rw [rests 0 _ (by decide) before, rests 1 _ (by decide) before, rests 2 _ (by decide) before]

/-- No other program takes its pictures from port `i`. -/
def OnlyFeeds (i p : Fin 4) (s : State) : Prop := ∀ q r, p ≠ q → (s.prog q).record = some r → r.port ≠ i.1

theorem OnlyFeeds.of_keeps {i p : Fin 4} {s t : State} (only : OnlyFeeds i p s) (kept : CoderKeeps p s t) :
    OnlyFeeds i p t := fun q r other stands => only q r other (by rwa [← kept.prog_ne q other])

end Sys2Proof.Machine
end

section
/-! PROOFS. The marker of a port, its loss and its close limit, the picture that a program accepts, and the slices that its
coder codes (R22 to R29, R46 to R52, R74 to R77). -/

namespace Sys2Proof.Machine

set_option Elab.async false

/-! ### What the end of an event leaves of the intake and the coders -/

section
variable (start s : State)

theorem endEvent_port (i : Fin 4) : (endEvent start s).port i = s.port i :=
  congrArg (fun v => v.get i) ((endEvent_inner start s).same .ports (by decide))

theorem endEvent_intake (p : Fin 4) : (endEvent start s).intake p = s.intake p :=
  congrArg (fun v => v.get p) ((endEvent_inner start s).same .intakes (by decide))

theorem endEvent_coder (p : Fin 4) : (endEvent start s).coder p = s.coder p :=
  congrArg (fun v => v.get p) ((endEvent_inner start s).same .coders (by decide))

theorem endEvent_loop (p : Fin 4) : (endEvent start s).loop p = s.loop p :=
  congrArg (fun v => v.get p) ((endEvent_inner start s).same .loops (by decide))

theorem endEvent_link : (endEvent start s).link = (settle s).link :=
  link_of_same (freedTogether_inner start _) (by decide)

theorem endEvent_prog (p : Fin 4) : (endEvent start s).prog p = (settle s).prog p :=
  prog_of_same (freedTogether_inner start _) (by decide) p

theorem endEvent_raises {j : Fin 18} (other : j ∉ endKinds) :
    (endEvent start s).link.raises.get j = s.link.raises.get j := by
  rw [endEvent_link, settle_raises s other]

end

/-! ### Markers (R23 to R25) -/

theorem modified_port (i : Fin 4) (f : PicturePort → PicturePort) (s : State) : (s.modPort i f).port i = f (s.port i) := by
  rw [modPort_port, if_pos rfl]

/-- The state after a marker before the programs close and decide their pictures. -/
def markerTaken (i : Fin 4) (s : State) : State :=
  if locksNow (s.port i) then
    raise .inputBack (u8 i.1 ++ encFormat (((s.modPort i (markerPort s.tb.picture)).port i).locked.getD ⟨0, 0⟩))
      (s.modPort i (markerPort s.tb.picture))
  else s.modPort i (markerPort s.tb.picture)

/-- What one program does at a marker that is not extra. -/
def closePictures (i : Fin 4) (s : State) : State :=
  eachProgram (fun p t => if feeds i p t then closeShort p t else t) s

theorem startOfPicture_eq (i : Fin 4) (s : State) : startOfPicture i s =
    if (s.port i).startSeen then closePictures i (markerTaken i s)
    else eachProgram (fun p t => decidePicture p i t) (closePictures i (markerTaken i s)) := rfl

theorem startOfPicture_port (i j : Fin 4) (s : State) : (startOfPicture i s).port j =
    (s.modPort i (markerPort s.tb.picture)).port j := by
  have marks : Inner intakeParts (s.modPort i (markerPort s.tb.picture)) (markerTaken i s) :=
    .ite (raise_inner .inputBack _ _).widen (.refl _ _)
  have closes : Inner intakeParts (s.modPort i (markerPort s.tb.picture)) (closePictures i (markerTaken i s)) :=
    marks.andThen (.eachProgram _ (fun p t => .ite (closeShort_inner p t) (.refl _ t)) _)
  have decides : Inner intakeParts (s.modPort i (markerPort s.tb.picture)) (startOfPicture i s) :=
    .ite closes (closes.andThen (.eachProgram _ (fun p t => decidePicture_inner p i t) _))
  exact congrArg (fun v => v.get j) (decides.same .ports (by decide))

/-- The kinds that a decision of a program can raise besides those of a coder: FORMAT_MISMATCH. -/
theorem decidePicture_raises (p i : Fin 4) (s : State) {j : Fin 18} (other : j ∉ coderKinds)
    (mismatch' : EventKind.formatMismatch.index ≠ j) :
    (decidePicture p i s).link.raises.get j = s.link.raises.get j := by
  have lost : j ≠ EventKind.noticeLost.index := fun same => other (same ▸ by decide)
  unfold decidePicture
  split
  · rfl
  · split
    · split
      · split
        · exact (accept_coderKeeps p s).raises j other
        · unfold mismatch
          split
          · rfl
          · exact raise_raises_ne .formatMismatch _ _ mismatch' lost
      · rfl
    · rfl

theorem eachProgram_raises {f : Fin 4 → State → State} {j : Fin 18}
    (each : ∀ p t, (f p t).link.raises.get j = t.link.raises.get j) (s : State) :
    (eachProgram f s).link.raises.get j = s.link.raises.get j :=
  eachProgram_holds (P := fun t => t.link.raises.get j = s.link.raises.get j) (fun p t holds => (each p t).trans holds) rfl

theorem startOfPicture_raises (i : Fin 4) (s : State) {j : Fin 18} (other : j ∉ coderKinds)
    (mismatch' : EventKind.formatMismatch.index ≠ j) :
    (startOfPicture i s).link.raises.get j = (markerTaken i s).link.raises.get j := by
  have closes : (closePictures i (markerTaken i s)).link.raises.get j = (markerTaken i s).link.raises.get j := by
    refine eachProgram_raises (fun p t => ?_) _
    split
    · exact (closeShort_coderKeeps p t).raises j other
    · rfl
  rw [startOfPicture_eq]
  split
  · exact closes
  · rw [eachProgram_raises (f := fun p t => decidePicture p i t)
      (fun p t => decidePicture_raises p i t other mismatch'), closes]

theorem markerTaken_raises (i : Fin 4) (s : State) : (markerTaken i s).link.raises.get 3 =
    if locksNow (s.port i) then (s.link.raises.get 3 + 1) % 2 ^ 32 else s.link.raises.get 3 := by
  unfold markerTaken
  split
  · exact raise_raises .inputBack _ _ (by decide)
  · rfl

theorem locksNow_iff (picture : Nat) (q : PicturePort) :
    locksNow q = true ↔ q.st ≠ .locked ∧ (markerPort picture q).st = .locked := by
  simp [locksNow, markerPort]

theorem measured_regular {m : Measure} (regular : 1 ≤ m.lines ∧ m.lines ≤ 2047 ∧ m.even = true ∧ m.samples ≤ 4095) :
    measured m = .regular ⟨m.samples, m.lines⟩ := if_pos regular

theorem measured_irregular {m : Measure}
    (irregular : ¬(1 ≤ m.lines ∧ m.lines ≤ 2047 ∧ m.even = true ∧ m.samples ≤ 4095)) :
    measured m = .irregular := if_neg irregular

/-- The port after a marker, by what the table of R23 makes of its state. -/
theorem markerPort_of_state {q r : PicturePort} {last : Option Measured} (picture : Nat) (state : markerState q = r)
    (measures : q.opened.elim q.lastMeasurement (fun m => some (measured m)) = last) : markerPort picture q =
      { r with
        lastMeasurement := last, lastStart := some picture, startSeen := true
        extras := if q.startSeen then min (q.extras + 1) 65535 else q.extras
        opened := some ⟨0, 0, true⟩ } := by
  subst state measures
  unfold markerPort
  cases q.opened <;> rfl

/-- Settles O24, by the rows of the table of R23. -/
theorem markersMoveThePort : Obligations.MarkersMoveThePort := by
  intro i s
  refine ⟨_, exec_startOfPictureMarker i s, ?_⟩
  intro q after
  have port (j : Fin 4) : (endEvent s (startOfPicture i s)).port j =
      (s.modPort i (markerPort s.tb.picture)).port j := by rw [endEvent_port, startOfPicture_port]
  have own : (endEvent s (startOfPicture i s)).port i = markerPort s.tb.picture q := by rw [port, modified_port]
  refine ⟨fun j other => ?_, fun closed noSignal => ?_, fun m opened signal => ?_, ?_⟩
  · rw [port, modPort_port, if_neg (Ne.symm other)]
  · refine own.trans ?_
    have state : markerState q = { q with st := .locking, candidate := none, locked := none } := by
      unfold markerState
      simp only [noSignal]
    rw [markerPort_of_state (last := q.lastMeasurement) _ state (by rw [closed]; exact rfl)]
  · intro f isRegular
    have row {r : PicturePort} {last : Option Measured} (state : markerState q = r) (measures : some (measured m) = last) :=
      own.trans (markerPort_of_state (last := last) s.tb.picture state (by rw [opened]; exact measures))
    have regular (h : isRegular) : some (measured m) = some (.regular f) := congrArg some (measured_regular h)
    have irregular (h : ¬isRegular) : some (measured m) = some .irregular := congrArg some (measured_irregular h)
    refine ⟨fun st h same => ?_, fun st h same => ?_, fun st h => ?_, fun st h same => ?_, fun st h same => ?_,
      fun st h => ?_⟩
    · refine row (r := { q with st := .locked, locked := some f, candidate := none }) ?_ (regular h)
      simp [markerState, st, opened, measured_regular h, same, f]
    · refine row (r := { q with st := .locking, candidate := some f }) ?_ (regular h)
      have state : markerState q = { q with candidate := some f } := by
        simp [markerState, st, opened, measured_regular h, same, f]
      exact state.trans (by rw [← st])
    · refine row (r := { q with st := .locking, candidate := none }) ?_ (irregular h)
      have state : markerState q = { q with candidate := none } := by
        simp [markerState, st, opened, measured_irregular h]
      exact state.trans (by rw [← st])
    · refine row (r := { q with st := .locked }) ?_ (regular h)
      have state : markerState q = q := by
        simp [markerState, st, opened, measured_regular h, same, f]
      exact state.trans (by rw [← st])
    · refine row (r := { q with st := .locking, candidate := some f, locked := none }) ?_ (regular h)
      simp [markerState, st, opened, measured_regular h, same, f]
    · refine row (r := { q with st := .locking, candidate := none, locked := none }) ?_ (irregular h)
      simp [markerState, st, opened, measured_irregular h]
  · rw [endEvent_raises _ _ (by decide), startOfPicture_raises i s (by decide) (by decide), markerTaken_raises, own]
    by_cases locks : locksNow q = true
    · rw [if_pos locks, if_pos ((locksNow_iff s.tb.picture q).mp locks)]
    · rw [if_neg locks, if_neg (fun h => locks ((locksNow_iff s.tb.picture q).mpr h))]

/-! ### The two limits (R24, R29) -/

theorem loseInput_ports (i : Fin 4) (s : State) : (loseInput i s).ports = Vec.put s.ports i
    { s.port i with
      st := .noSignal, candidate := none, locked := none, opened := none, quiet := 2
      losses := min ((s.port i).losses + 1) 65535 } :=
  (raise_inner .inputLost _ _).same .ports (by decide)

theorem loseInput_eq (i : Fin 4) (s : State) :
    loseInput i s = { s with ports := (loseInput i s).ports, link := (loseInput i s).link } := (loseInput_inner i s).frame

section
variable (p : Fin 4) (s : State)

/-- What an offer leaves of the coders. -/
theorem offerUnit_coder (u : StreamUnit) (q : Fin 4) : (offerUnit p u s).2.coder q = s.coder q :=
  congrArg (fun v => v.get q) ((offerUnit_inner p u s).same .coders (by decide))

theorem offerUnit_loop (u : StreamUnit) (q : Fin 4) : (offerUnit p u s).2.loop q = s.loop q :=
  congrArg (fun v => v.get q) ((offerUnit_inner p u s).same .loops (by decide))

theorem modified_coder (f : Coder → Coder) : (s.modCoder p f).coder p = f (s.coder p) := by
  rw [modCoder_coder, if_pos rfl]

theorem modified_loop (f : RateLoop → RateLoop) : (s.modLoop p f).loop p = f (s.loop p) := by
  rw [modLoop_loop, if_pos rfl]

theorem modCoder_list {f : Coder → Coder} (keeps : ∀ c, (f c).list = c.list) :
    ((s.modCoder p f).coder p).list = (s.coder p).list := by rw [modified_coder, keeps]

theorem offerUnit_list (u : StreamUnit) : ((offerUnit p u s).2.coder p).list = (s.coder p).list := by
  rw [offerUnit_coder]

/-- An offer, and then a change of the coder beside its list. -/
theorem offerUnit_modCoder_list (u : StreamUnit) {f : Coder → Coder} (keeps : ∀ c, (f c).list = c.list) :
    (((offerUnit p u s).2.modCoder p f).coder p).list = (s.coder p).list :=
  (modCoder_list p _ keeps).trans (offerUnit_list p s u)

theorem writeHead_list (picture : Nat) (label : Timecode) :
    ((writeHead p picture label s).coder p).list = (s.coder p).list := by
  unfold writeHead
  split
  · rfl
  · dsimp only
    split
    · rw [modified_coder]
      exact offerUnit_list p s _
    · exact offerUnit_modCoder_list p s _ fun _ => rfl

theorem writeRepeat_list (picture : Nat) : ((writeRepeat p picture s).coder p).list = (s.coder p).list := by
  unfold writeRepeat
  dsimp only
  split
  · exact offerUnit_list p s _
  · exact offerUnit_modCoder_list p s _ fun _ => rfl

theorem writeSlateSlices_list (picture qi escapes : Nat) (payload : List Byte) (left : Nat) : ∀ index s,
    ((writeSlateSlices p picture qi escapes payload left index s).coder p).list = (s.coder p).list := by
  induction left with
  | zero => exact fun _ s => rfl
  | succ left ih =>
    intro index s
    unfold writeSlateSlices
    dsimp only
    split
    · exact (ih ..).trans (offerUnit_modCoder_list p s _ fun _ => rfl)
    · exact offerUnit_modCoder_list p s _ fun _ => rfl

theorem writeSlate_list (picture : Nat) (label : Timecode) :
    ((writeSlate p picture label s).coder p).list = (s.coder p).list := by
  unfold writeSlate
  split
  · rfl
  · dsimp only
    split
    · exact (writeSlateSlices_list ..).trans (offerUnit_list p s _)
    · exact offerUnit_modCoder_list p s _ fun _ => rfl

theorem popItem_list : ((popItem p s).coder p).list = (s.coder p).list.tail := by
  rw [popItem, modified_coder]

end

/-- A coder that codes the slice at the front of its list. -/
def CodesSlice (d : Coder) : Prop := d.coding.isSome = true ∧ ∃ n i ls rest, d.list = .slice n i ls :: rest

theorem beginSlice_codes {p : Fin 4} {s : State} {r : ProgramRecord} (record : (s.prog p).record = some r)
    {n i : Nat} {ls : List Line} {rest : List CoderItem} (front : (s.coder p).list = .slice n i ls :: rest)
    (picture index : Nat) : CodesSlice ((beginSlice p picture index s).coder p) ∧
      ((beginSlice p picture index s).coder p).list = (s.coder p).list := by
  have codes (f : Coder → Coder) (starts : (f (s.coder p)).coding.isSome = true)
      (keeps : (f (s.coder p)).list = (s.coder p).list) {t : State} (coder : t.coder p = f (s.coder p)) :
      CodesSlice (t.coder p) ∧ (t.coder p).list = (s.coder p).list := by
    rw [coder]
    exact ⟨⟨starts, n, i, ls, rest, keeps.trans front⟩, keeps⟩
  unfold beginSlice
  rw [record]
  dsimp only
  split
  · refine codes (fun c => { c with coding := some ⟨r.qmax, true⟩, dcSlices := incWrap32 c.dcSlices }) rfl rfl ?_
    have coder := modified_coder p s fun c => { c with coding := some ⟨r.qmax, true⟩, dcSlices := incWrap32 c.dcSlices }
    split
    · exact coder
    · split
      · exact coder
      · refine Eq.trans ?_ coder
        exact congrArg (fun v => v.get p) ((raise_inner .ceiling _ _).same .coders (by decide))
  · exact codes (fun c => { c with coding := some ⟨c.qi, false⟩ }) rfl rfl (modified_coder p s _)

/-- A list that is worked comes to its end, or to a slice that is coding. -/
theorem advanceN_front {p : Fin 4} {r : ProgramRecord} (n : Nat) : ∀ s : State, (s.prog p).record = some r →
    (s.coder p).list.length ≤ n → ((advanceN p n s).coder p).list.length ≤ (s.coder p).list.length ∧
      (((advanceN p n s).coder p).list = [] ∨ CodesSlice ((advanceN p n s).coder p)) := by
  induction n with
  | zero => exact fun s _ short => ⟨Nat.le_refl _, .inl (List.length_eq_zero_iff.mp (Nat.le_zero.mp short))⟩
  | succ n ih =>
    intro s record short
    have next {t : State} (kept : CoderKeeps p s t) (list : (t.coder p).list = (s.coder p).list.tail) :
        ((advanceN p n t).coder p).list.length ≤ (s.coder p).list.length ∧
          (((advanceN p n t).coder p).list = [] ∨ CodesSlice ((advanceN p n t).coder p)) := by
      have shorter : (t.coder p).list.length ≤ (s.coder p).list.length - 1 := by rw [list, List.length_tail]
      obtain ⟨le, front⟩ := ih t (by rw [kept.prog]; exact record) (by omega)
      exact ⟨by omega, front⟩
    have pops := popItem_coderKeeps p s
    unfold advanceN
    split
    next empty => exact ⟨Nat.le_refl _, .inl empty⟩
    next => exact next (pops.trans (writeHead_coderKeeps ..)) ((writeHead_list ..).trans (popItem_list p s))
    next => exact next (pops.trans (writeRepeat_coderKeeps ..)) ((writeRepeat_list ..).trans (popItem_list p s))
    next => exact next (pops.trans (writeSlate_coderKeeps ..)) ((writeSlate_list ..).trans (popItem_list p s))
    next picture index ls rest front =>
      split
      next codes => exact ⟨Nat.le_refl _, .inr ⟨codes, picture, index, ls, rest, front⟩⟩
      next =>
        split
        · exact next pops (popItem_list p s)
        · obtain ⟨codes, list⟩ := beginSlice_codes record front picture index
          exact ⟨Nat.le_of_eq (congrArg List.length list), .inr codes⟩

theorem loopTake_list (p : Fin 4) (r : ProgramRecord) (b : Nat) (s : State) :
    ((loopTake p r b s).coder p).list = (s.coder p).list := by
  unfold loopTake
  exact modCoder_list p _ fun _ => rfl

theorem pictureDone_list (p : Fin 4) (s : State) : ((pictureDone p s).coder p).list = (s.coder p).list :=
  modCoder_list p s (f := fun c => { c with coded := incWrap32 c.coded, lastBits := c.bitCount }) fun _ => rfl

theorem finishSlice_of_front {p : Fin 4} {s : State} {r : ProgramRecord} (record : (s.prog p).record = some r)
    (front : (s.coder p).list = [] ∨ CodesSlice (s.coder p)) :
    ((finishSlice p s).coder p).list = (s.coder p).list.tail := by
  rcases front with empty | ⟨coding, n, i, ls, rest, front⟩
  · unfold finishSlice
    simp only [empty, List.tail_nil]
  · obtain ⟨c, coding⟩ := Option.isSome_iff_exists.mp coding
    have offers (u : StreamUnit) (f : Coder → Coder) (keeps : ∀ c, (f c).list = c.list) :
        (((offerUnit p u (popItem p s)).2.modCoder p f).coder p).list = (s.coder p).list.tail :=
      (offerUnit_modCoder_list p _ u keeps).trans (popItem_list p s)
    unfold finishSlice
    simp only [front, coding, record]
    rw [← front]
    split
    · split
      · exact (pictureDone_list ..).trans ((loopTake_list ..).trans (offers _ _ fun _ => rfl))
      · exact (loopTake_list ..).trans (offers _ _ fun _ => rfl)
    · exact offers _ _ fun _ => rfl

theorem flushN_list {p : Fin 4} {r : ProgramRecord} (n : Nat) : ∀ s : State, (s.prog p).record = some r →
    (s.coder p).list.length < n → ((flushN p n s).coder p).list = [] := by
  induction n with
  | zero => exact fun s _ short => absurd short (Nat.not_lt_zero _)
  | succ n ih =>
    intro s record short
    obtain ⟨le, front⟩ := advanceN_front _ s record (Nat.le_refl _)
    have kept := advance_coderKeeps p s
    have record' : ((advance p s).prog p).record = some r := by rw [kept.prog]; exact record
    have list := finishSlice_of_front record' front
    have shorter := congrArg List.length list
    have record'' : ((finishSlice p (advance p s)).prog p).record = some r := by
      rw [(finishSlice_coderKeeps p _).prog]
      exact record'
    have le' : ((advance p s).coder p).list.length ≤ (s.coder p).list.length := le
    rw [List.length_tail] at shorter
    unfold flushN
    dsimp only
    split
    next codes =>
      cases n with
      | zero => exact List.length_eq_zero_iff.mp (by show ((finishSlice p (advance p s)).coder p).list.length = 0; omega)
      | succ n => exact ih _ record'' (by omega)
    next idle => exact front.resolve_right fun codes => idle codes.1

theorem flushCoder_list {p : Fin 4} {s : State} {r : ProgramRecord} (record : (s.prog p).record = some r) :
    ((flushCoder p s).coder p).list = [] := flushN_list _ s record (Nat.lt_succ_self _)

theorem modified_intake (p : Fin 4) (f : Intake → Intake) (s : State) : (s.modIntake p f).intake p = f (s.intake p) := by
  rw [modIntake_intake, if_pos rfl]

theorem closeShort_of_taking {p : Fin 4} {s : State} {k : Taking} {r : ProgramRecord}
    (taking : (s.intake p).taking = some k) (record : (s.prog p).record = some r) : closeShort p s =
      flushCoder p (callFor p (shortSlices r k)
        (s.modIntake p fun i => { i with taking := none, shorts := incSat16 i.shorts })) := by
  unfold closeShort
  rw [taking, record]

theorem closeShort_of_none {p : Fin 4} {s : State} (none' : (s.intake p).taking = none) : closeShort p s = s := by
  unfold closeShort
  rw [none']

theorem closeShort_intake {p : Fin 4} {s : State} {k : Taking} {r : ProgramRecord}
    (taking : (s.intake p).taking = some k) (record : (s.prog p).record = some r) : (closeShort p s).intake p =
      { s.intake p with taking := none, shorts := min ((s.intake p).shorts + 1) 65535 } := by
  rw [closeShort_of_taking taking record]
  refine (congrArg (fun v => v.get p) ((flushCoder_inner p _).same .intakes (by decide))).trans ?_
  exact modified_intake p (fun i => { i with taking := none, shorts := incSat16 i.shorts }) s

theorem closeShort_list {p : Fin 4} {s : State} {k : Taking} {r : ProgramRecord}
    (taking : (s.intake p).taking = some k) (record : (s.prog p).record = some r) :
    ((closeShort p s).coder p).list = [] := by
  rw [closeShort_of_taking taking record]
  exact flushCoder_list (r := r) record

theorem inputLossDue_iff (q : PicturePort) :
    inputLossDue q = true ↔ q.st ≠ .noSignal ∧ q.startSeen = false ∧ 1 ≤ q.quiet := by
  simp [inputLossDue, and_assoc]

/-- Settles O27. -/
theorem inputLimits : Obligations.InputLimits := by
  refine ⟨fun i s => ?_, fun p k r s record taking => ⟨fun late => ?_, fun own => ?_⟩⟩
  · intro q due
    rw [exec_portLossExpiry]
    refine ⟨fun lost => ⟨_, congrArg _ (if_pos ((inputLossDue_iff q).mpr lost)), ?_, ?_, ?_⟩, fun keeps =>
      congrArg _ (if_neg fun h => keeps ((inputLossDue_iff q).mp h))⟩
    · rw [← loseInput_ports]
      exact loseInput_eq i s
    · exact raise_raises .inputLost _ _ (by decide)
    · exact raise_latches .inputLost _ _
  · have closes : closeLimit p s.tb.picture s = closeShort p s := by
      unfold closeLimit
      rw [taking]
      exact if_neg late
    rw [exec_closeLimit, closes]
    exact ⟨_, rfl, by rw [endEvent_intake, closeShort_intake taking record],
      by rw [endEvent_coder, closeShort_list taking record]⟩
  · have stays : closeLimit p s.tb.picture s = s := by
      unfold closeLimit
      rw [taking]
      exact if_pos own
    rw [exec_closeLimit, stays]
    exact ⟨_, rfl, endEvent_intake s s p⟩

end Sys2Proof.Machine
end

section
/-! PROOFS. A picture that a program accepts, the lines that it takes, and the slices that its coder begins and codes (R26,
R28, R46 to R52, R74 to R77). -/

namespace Sys2Proof.Machine

set_option Elab.async false

/-! ### A unit that fits (R110) -/

theorem offerUnit_of_fits {p : Fin 4} {u : StreamUnit} {s : State} (whole : (s.chain p).cut ≠ some u.picture)
    (fits : u.bytes.length ≤ room p s) : offerUnit p u s =
      (true, afterWrite p u (writePart p u (s.prog p).streamOffset u.bytes true true s)) := by
  unfold offerUnit
  rw [if_neg whole]
  exact if_pos fits

theorem modified_prog (p : Fin 4) (f : Program → Program) (s : State) : (s.modProg p f).prog p = f (s.prog p) := by
  rw [modProg_prog, if_pos rfl]

theorem afterWrite_prog (p : Fin 4) (u : StreamUnit) (s : State) : (afterWrite p u s).prog p =
    { s.prog p with streamOffset := (s.prog p).streamOffset + u.bytes.length } :=
  modified_prog p (fun g => { g with streamOffset := g.streamOffset + u.bytes.length }) s

theorem offerUnit_prog {p : Fin 4} {u : StreamUnit} {s : State} (whole : (s.chain p).cut ≠ some u.picture)
    (fits : u.bytes.length ≤ room p s) : (offerUnit p u s).2.prog p =
      { s.prog p with streamOffset := (s.prog p).streamOffset + u.bytes.length } := by
  rw [offerUnit_of_fits whole fits, afterWrite_prog, prog_of_same (writePart_inner ..) (by decide)]

theorem headUnit_length (picture : Nat) (label : Timecode) (r : ProgramRecord) (qi : Nat) (slate : Bool) :
    (headUnit picture label r qi slate).bytes.length = 21 := by
  simp [headUnit, unitBytes, encTimecode, flag, Laws.u8_length, Laws.u16_length, Laws.u32_length, Laws.twos_length]

theorem sliceUnit_length (picture index qi : Nat) (last : Bool) (payload : List Byte) :
    (sliceUnit picture index qi last payload).bytes.length = 16 + payload.length := by
  simp [sliceUnit, unitBytes, Laws.u8_length, Laws.u16_length, Laws.u32_length]
  omega

theorem room_of_chains {p : Fin 4} {s t : State} (same : t.chain p = s.chain p) : room p t = room p s := by
  unfold room openSeg
  rw [same]

/-! ### The coder at the front of its list -/

theorem advance_of_empty {p : Fin 4} {s : State} (empty : (s.coder p).list = []) : advance p s = s := by
  unfold advance
  rw [empty]
  rfl

theorem advance_of_coding {p : Fin 4} {s : State} (codes : CodesSlice (s.coder p)) : advance p s = s := by
  obtain ⟨coding, n, i, ls, rest, front⟩ := codes
  unfold advance
  rw [front]
  show advanceN p (rest.length + 1) s = s
  unfold advanceN
  simp only [front, coding, if_true]

theorem advance_of_head {p : Fin 4} {s : State} {n : Nat} {label : Timecode}
    (list : (s.coder p).list = [.head n label]) : advance p s = writeHead p n label (popItem p s) := by
  unfold advance
  rw [list]
  show advanceN p (0 + 1) s = _
  unfold advanceN
  simp only [list]
  rfl

theorem advance_of_slice {p : Fin 4} {s : State} {n i : Nat} {ls : List Line}
    (list : (s.coder p).list = [.slice n i ls]) (idle : (s.coder p).coding = none) :
    advance p s = if isCut p n s then popItem p s else beginSlice p n i s := by
  unfold advance
  rw [list]
  show advanceN p (0 + 1) s = _
  unfold advanceN
  simp only [list, idle]
  rfl

/-! ### A slice that is coded (R47, R52, R75) -/

section
variable (p : Fin 4) (r : ProgramRecord) (b : Nat) (s : State)

theorem loopTake_coder : (loopTake p r b s).coder p = { s.coder p with
    qi := indexAfter r (s.loop p).bound (fullnessAfter (s.loop p) b) (s.coder p).qi } :=
  modified_coder p (s.modLoop p fun l => { l with fullness := fullnessAfter (s.loop p) b }) _

theorem loopTake_loop : (loopTake p r b s).loop p = { s.loop p with fullness := fullnessAfter (s.loop p) b } :=
  modified_loop p s fun l => { l with fullness := fullnessAfter (s.loop p) b }

theorem pictureDone_coder : (pictureDone p s).coder p =
    { s.coder p with coded := ((s.coder p).coded + 1) % 2 ^ 32, lastBits := (s.coder p).bitCount } :=
  modified_coder p s fun c => { c with coded := incWrap32 c.coded, lastBits := c.bitCount }

theorem pictureDone_loop : (pictureDone p s).loop p =
    { s.loop p with held := (s.loop p).held && (s.loop p).struck } :=
  modified_loop p (s.modCoder p fun c => { c with coded := incWrap32 c.coded, lastBits := c.bitCount })
    fun l => { l with held := l.held && l.struck }

end

/-- The state after a written slice unit: its bits counted, and the rate loop moved. -/
def sliceTaken (p : Fin 4) (r : ProgramRecord) (u : StreamUnit) (escapes : Nat) (s : State) : State :=
  loopTake p r (8 * u.bytes.length)
    ((offerUnit p u (popItem p s)).2.modCoder p fun d =>
      { d with bitCount := d.bitCount + 8 * u.bytes.length, escaped := (d.escaped + escapes) % 2 ^ 32 })

section
variable (p : Fin 4) (r : ProgramRecord) (u : StreamUnit) (escapes : Nat) (s : State)

theorem popItem_coder : (popItem p s).coder p = { s.coder p with list := (s.coder p).list.tail, coding := none } :=
  modified_coder p s fun c => { c with list := c.list.tail, coding := none }

theorem sliceTaken_loop : (sliceTaken p r u escapes s).loop p =
    { s.loop p with fullness := fullnessAfter (s.loop p) (8 * u.bytes.length) } := by
  unfold sliceTaken
  rw [loopTake_loop, modCoder_loop, offerUnit_loop]
  rfl

theorem sliceTaken_coder : (sliceTaken p r u escapes s).coder p =
    { s.coder p with
      list := (s.coder p).list.tail, coding := none
      qi := indexAfter r (s.loop p).bound (fullnessAfter (s.loop p) (8 * u.bytes.length)) (s.coder p).qi
      bitCount := (s.coder p).bitCount + 8 * u.bytes.length
      escaped := ((s.coder p).escaped + escapes) % 2 ^ 32 } := by
  unfold sliceTaken
  rw [loopTake_coder, modified_coder, modCoder_loop, offerUnit_coder, offerUnit_loop, popItem_coder]
  rfl

theorem sliceTaken_prog {p : Fin 4} {u : StreamUnit} {s : State} (whole : (s.chain p).cut ≠ some u.picture)
    (fits : u.bytes.length ≤ room p s) : ((sliceTaken p r u escapes s).prog p).streamOffset =
      (s.prog p).streamOffset + u.bytes.length := by
  have offers : (offerUnit p u (popItem p s)).2.prog p = _ :=
    offerUnit_prog (s := popItem p s) whole (fits.trans (Nat.le_of_eq (room_of_chains rfl).symm))
  have same : (sliceTaken p r u escapes s).prog p = (offerUnit p u (popItem p s)).2.prog p := by
    unfold sliceTaken
    rw [prog_of_same (loopTake_inner ..) (by decide)]
    rfl
  rw [same, offers]
  rfl

end

theorem finishSlice_of_fits {p : Fin 4} {r : ProgramRecord} {c : Coding} {n i : Nat} {ls : List Line}
    {rest : List CoderItem} {s : State} (record : (s.prog p).record = some r)
    (front : (s.coder p).list = .slice n i ls :: rest) (coding : (s.coder p).coding = some c)
    (whole : (s.chain p).cut ≠ some n) {pairs : List (List (Nat × Int))} {u : StreamUnit}
    (hpairs : slicePairs ls c.qi r.chromaOffset c.dcOnly = pairs)
    (hu : sliceUnit n i c.qi (i + 1 == r.height / 8) (slicePayload (recordTable r s) pairs) = u)
    (fits : u.bytes.length ≤ room p s) : finishSlice p s =
      if i + 1 == r.height / 8 then pictureDone p (sliceTaken p r u (escapedPairs pairs) s)
      else sliceTaken p r u (escapedPairs pairs) s := by
  have offers : offerUnit p u (popItem p s) = (true, (offerUnit p u (popItem p s)).2) := by
    have whole' : ((popItem p s).chain p).cut ≠ some u.picture := hu ▸ whole
    rw [offerUnit_of_fits whole' (fits.trans (Nat.le_of_eq (room_of_chains rfl).symm))]
  subst hpairs hu
  unfold finishSlice
  simp only [front, coding, record]
  rw [offers]
  rfl

/-- Settles O32. -/
theorem sliceCodedMovesTheLoop : Obligations.SliceCodedMovesTheLoop := by
  intro p r c picture index lines s record list coding whole pairs len b l F move last fits
  let u := sliceUnit picture index c.qi (index + 1 == r.height / 8) (slicePayload (recordTable r s) pairs)
  have length : u.bytes.length = len := sliceUnit_length ..
  have fits' : u.bytes.length ≤ room p s := length ▸ fits
  let t := sliceTaken p r u (escapedPairs pairs) s
  have finishes : finishSlice p s = if index + 1 == r.height / 8 then pictureDone p t else t :=
    finishSlice_of_fits record list coding whole rfl rfl fits'
  have coder : t.coder p =
      { s.coder p with
        list := [], coding := none
        qi := (max (r.qmin : Int) (min r.qmax ((s.coder p).qi + move))).toNat
        bitCount := (s.coder p).bitCount + b
        escaped := ((s.coder p).escaped + escapedPairs pairs) % 2 ^ 32 } := by
    refine (sliceTaken_coder p r u (escapedPairs pairs) s).trans ?_
    rw [length, list]
    rfl
  have loop : t.loop p = { l with fullness := F } := by
    refine (sliceTaken_loop p r u (escapedPairs pairs) s).trans ?_
    rw [length]
    rfl
  have offset : (t.prog p).streamOffset = (s.prog p).streamOffset + len :=
    (sliceTaken_prog r (escapedPairs pairs) whole fits').trans (by rw [length])
  have ends : exec (.sliceCoded p) s = .next (endEvent s (finishSlice p s)) := by
    rw [exec_sliceCoded]
    unfold sliceCoded
    rw [coding, if_pos (by rfl : (some c).isSome = true), advance_of_empty]
    rw [finishSlice_of_front record (.inr ⟨by rw [coding]; rfl, picture, index, lines, [], list⟩), list]
    rfl
  rw [ends]
  refine ⟨_, rfl, ?_, ?_, ?_⟩
  · rw [endEvent_prog, (settle_drainsTo _ p).streamOffset, finishes]
    split
    · rw [prog_of_same (pictureDone_inner ..) (by decide), offset]
    · exact offset
  · rw [endEvent_coder, finishes]
    by_cases done : last
    · rw [if_pos (beq_iff_eq.mpr done), if_pos done, if_pos done, pictureDone_coder, coder]
    · rw [if_neg fun h => done (beq_iff_eq.mp h), if_neg done, if_neg done, coder]
  · rw [endEvent_loop, finishes]
    by_cases done : last
    · rw [if_pos (beq_iff_eq.mpr done), if_pos done, pictureDone_loop, loop]
    · rw [if_neg fun h => done (beq_iff_eq.mp h), if_neg done, loop]

/-! ### A picture that is accepted (R26, R46, R74) -/

theorem writeHead_of_fits {p : Fin 4} {r : ProgramRecord} {picture : Nat} {label : Timecode} {s : State}
    (record : (s.prog p).record = some r) (whole : (s.chain p).cut ≠ some picture) (fits : 21 ≤ room p s) :
    ∃ t, writeHead p picture label s =
        (t.modLoop p (loopStart (t.alloc.shares.get p) (stationRate t) r)).modCoder p (fun c => { c with bitCount := 0 }) ∧
      Inner offerParts s t ∧
      t.prog p = { s.prog p with streamOffset := (s.prog p).streamOffset + 21 } := by
  have length := headUnit_length picture label r (s.coder p).qi false
  have fits' : (headUnit picture label r (s.coder p).qi false).bytes.length ≤ room p s := length ▸ fits
  have offers : offerUnit p (headUnit picture label r (s.coder p).qi false) s =
      (true, (offerUnit p (headUnit picture label r (s.coder p).qi false) s).2) := by
    rw [offerUnit_of_fits whole fits']
  refine ⟨(offerUnit p (headUnit picture label r (s.coder p).qi false) s).2, ?_, offerUnit_inner .., ?_⟩
  · unfold writeHead
    rw [record]
    dsimp only
    rw [offers]
    rfl
  · rw [offerUnit_prog whole fits', length]

theorem coder_of_idle {d : Coder} (empty : d.list = []) (idle : d.coding = none) :
    { d with list := [], coding := none } = d := by
  rw [← empty, ← idle]

/-- A program with an idle coder that accepts a picture. -/
theorem accept_of_idle {p : Fin 4} {r : ProgramRecord} {s : State} (record : (s.prog p).record = some r)
    (empty : (s.coder p).list = []) (idle : (s.coder p).coding = none) (whole : (s.chain p).cut ≠ some s.tb.picture)
    (fits : 21 ≤ room p s) :
    (accept p s).intake p =
        { s.intake p with
          taking := some ⟨s.tb.picture, 0, []⟩, accepted := true, missing := 0, codedInRun := true, mismatch := none } ∧
      (accept p s).prog p = { s.prog p with streamOffset := (s.prog p).streamOffset + 21 } ∧
      (accept p s).coder p = { s.coder p with bitCount := 0 } ∧
      (accept p s).loop p = loopStart (s.alloc.shares.get p) (stationRate s) r (s.loop p) := by
  let taken := s.modIntake p fun i =>
    { i with taking := some ⟨s.tb.picture, 0, []⟩, accepted := true, missing := 0, codedInRun := true, mismatch := none }
  let called := callFor p [.head s.tb.picture s.tb.label] taken
  have calls : called.coder p = { s.coder p with list := (s.coder p).list ++ [.head s.tb.picture s.tb.label] } :=
    modified_coder p taken fun c => { c with list := c.list ++ [.head s.tb.picture s.tb.label] }
  have front : (called.coder p).list = [.head s.tb.picture s.tb.label] := by rw [calls, empty]; rfl
  have popped : (popItem p called).coder p = s.coder p := by
    rw [popItem_coder, calls, empty]
    exact coder_of_idle empty idle
  have same : (popItem p called).chain p = s.chain p := rfl
  obtain ⟨t, writes, kept, offset⟩ := writeHead_of_fits (p := p) (label := s.tb.label) (s := popItem p called) record
    (picture := s.tb.picture) whole (by rwa [room_of_chains same])
  have accepts : accept p s = writeHead p s.tb.picture s.tb.label (popItem p called) := advance_of_head front
  rw [accepts, writes]
  refine ⟨?_, offset, ?_, ?_⟩
  · refine (congrArg (fun v => v.get p) (kept.same .intakes (by decide))).trans ?_
    exact modified_intake p (fun i =>
      { i with taking := some ⟨s.tb.picture, 0, []⟩, accepted := true, missing := 0, codedInRun := true, mismatch := none }) s
  · rw [modified_coder, ← popped]
    exact congrArg (fun c : Coder => { c with bitCount := 0 }) (congrArg (fun v => v.get p) (kept.same .coders (by decide)))
  · rw [modCoder_loop, modified_loop]
    have loop : t.loop p = s.loop p := congrArg (fun v => v.get p) (kept.same .loops (by decide))
    rw [loop, kept.same .alloc (by decide)]
    have rate : stationRate t = stationRate s := by
      unfold stationRate
      rw [kept.same .tb (by decide)]
      rfl
    rw [rate]
    rfl

theorem feeds_of_only {i p q : Fin 4} {s : State} (only : OnlyFeeds i p s) (other : p ≠ q) : feeds i q s = false := by
  unfold feeds
  split
  next r record => exact beq_eq_false_iff_ne.mpr (only q r other record)
  · rfl

theorem decidePicture_of_only {i p q : Fin 4} {s : State} (only : OnlyFeeds i p s) (other : p ≠ q) :
    decidePicture q i s = s := by
  unfold decidePicture
  split
  · rfl
  next r record =>
    have apart : (r.port = i.1 && takesPictures q s) = true → False := fun h =>
      only q r other record (by simpa using (Bool.and_eq_true_iff.mp h).1)
    exact if_neg apart

theorem markerTaken_inner (i : Fin 4) (s : State) : Inner [.ports, .link] s (markerTaken i s) :=
  .ite (((modPort_inner s i _).widen).andThen (raise_inner .inputBack _ _)) (modPort_inner s i _).widen

theorem markerTaken_port (i : Fin 4) (s : State) : (markerTaken i s).port i = markerPort s.tb.picture (s.port i) := by
  have port := modified_port i (markerPort s.tb.picture) s
  unfold markerTaken
  split
  · exact (congrArg (fun v => v.get i) ((raise_inner .inputBack _ _).same .ports (by decide))).trans port
  · exact port

theorem closePictures_of_none {i p : Fin 4} {s : State} (only : OnlyFeeds i p s) (none' : (s.intake p).taking = none) :
    closePictures i s = s := by
  have own : (if feeds i p s then closeShort p s else s) = s := by
    rw [closeShort_of_none none', ite_self]
  unfold closePictures
  rw [eachProgram_single _ p s (OnlyFeeds i p) only (by rwa [own])
    (fun q t other only => by rw [if_neg (by rw [feeds_of_only only other]; exact Bool.false_ne_true)]), own]

/-- A marker at the format that a program asks for leaves the port LOCKED at it (R23). -/
theorem markerState_locked {q : PicturePort} {m : Measure} {f : Format} (opened : q.opened = some m)
    (regular : measured m = .regular f)
    (fits : (q.st = .locked ∧ q.locked = some f) ∨ (q.st = .locking ∧ q.candidate = some f)) :
    (markerState q).st = .locked ∧ (markerState q).locked = some f := by
  rcases fits with ⟨st, same⟩ | ⟨st, same⟩ <;> simp [markerState, st, opened, regular, same]

theorem decidePicture_accepts {i p : Fin 4} {r : ProgramRecord} {s : State} (runs : (s.prog p).st = .running)
    (record : (s.prog p).record = some r) (port : r.port = i.1) (locked : (s.port i).st = .locked)
    (format : (s.port i).locked = some ⟨r.width, r.height⟩) : decidePicture p i s = accept p s := by
  unfold decidePicture takesPictures
  rw [record]
  dsimp only
  rw [if_pos (by simp [port, runs]), locked, format]
  exact if_pos rfl

/-- Settles O25. -/
theorem acceptedPictureStartsTheLoop : Obligations.AcceptedPictureStartsTheLoop := by
  intro i p r m s runs record port others notSeen opened few many even narrow width height state none' empty idle whole
    fits share T B
  have only : OnlyFeeds i p s := fun q r' other => others q r' (Ne.symm other)
  let marked := markerTaken i s
  have kept : Inner [.ports, .link] s marked := markerTaken_inner i s
  have progs : marked.prog p = s.prog p := prog_of_same kept (by decide) p
  have intake : marked.intake p = s.intake p := congrArg (fun v => v.get p) (kept.same .intakes (by decide))
  have coder : marked.coder p = s.coder p := congrArg (fun v => v.get p) (kept.same .coders (by decide))
  have chain : marked.chain p = s.chain p := congrArg (fun v => v.get p) (kept.same .chains (by decide))
  have loop : marked.loop p = s.loop p := congrArg (fun v => v.get p) (kept.same .loops (by decide))
  have tb : marked.tb = s.tb := kept.same .tb (by decide)
  have only' : OnlyFeeds i p marked := fun q r' other stands =>
    only q r' other (by rwa [← prog_of_same kept (by decide) q])
  have regular : measured m = .regular ⟨r.width, r.height⟩ := by
    rw [measured_regular ⟨few, many, even, narrow⟩, ‹m.samples = r.width›, ‹m.lines = r.height›]
  have locked := markerState_locked opened regular state
  have marks := markerTaken_port i s
  have accepts : decidePicture p i marked = accept p marked :=
    decidePicture_accepts (by rw [progs, runs]) (by rw [progs, record]) port (by rw [marks]; exact locked.1)
      (by rw [marks]; exact locked.2)
  have event : startOfPicture i s = accept p marked := by
    rw [startOfPicture_eq, notSeen, if_neg Bool.false_ne_true, closePictures_of_none only' (by rw [intake, none']),
      eachProgram_single _ p marked (OnlyFeeds i p) only' (by rw [accepts]; exact only'.of_keeps (accept_coderKeeps p _))
        (fun q t other only => decidePicture_of_only only other), accepts]
  obtain ⟨intake', prog', coder', loop'⟩ := accept_of_idle (p := p) (r := r) (s := marked) (by rw [progs, record])
    (by rw [coder, empty]) (by rw [coder, idle]) (by rw [chain, tb]; exact whole) (by rwa [room_of_chains chain])
  have stays : ((accept p marked).prog p).st ≠ .draining := by
    rw [prog', progs]
    exact fun drains => absurd (runs.symm.trans drains) (by decide)
  rw [exec_startOfPictureMarker, event]
  refine ⟨_, rfl, ?_, ?_, ?_, ?_⟩
  · rw [endEvent_intake, intake', intake, tb]
  · rw [endEvent_prog, settle_prog stays, prog', progs]
  · rw [endEvent_coder, coder', coder]
  · rw [endEvent_loop, loop', loop, stationRate, tb, kept.same .alloc (by decide)]
    rfl

end Sys2Proof.Machine
end

section
/-! PROOFS. A line that a port takes, and the slice that its eighth line makes (R22, R28, R48 to R50, R77). -/

namespace Sys2Proof.Machine

set_option Elab.async false

/-! ### A slice that begins (R48, R77) -/

section
variable {p : Fin 4} {r : ProgramRecord} {s : State} (record : (s.prog p).record = some r) (n i : Nat)
include record

theorem beginSlice_within (within : (s.coder p).bitCount ≤ (s.loop p).cmax) : beginSlice p n i s =
    s.modCoder p fun c => { c with coding := some ⟨c.qi, false⟩ } := by
  unfold beginSlice
  rw [record]
  exact if_neg (Nat.not_lt.mpr within)

theorem beginSlice_beyond_coder (beyond : (s.loop p).cmax < (s.coder p).bitCount) : (beginSlice p n i s).coder p =
    { s.coder p with coding := some ⟨r.qmax, true⟩, dcSlices := ((s.coder p).dcSlices + 1) % 2 ^ 32 } := by
  have coder := modified_coder p s fun c => { c with coding := some ⟨r.qmax, true⟩, dcSlices := incWrap32 c.dcSlices }
  unfold beginSlice
  rw [record]
  dsimp only
  rw [if_pos beyond]
  split
  · exact coder
  · split
    · exact coder
    · refine Eq.trans ?_ coder
      exact congrArg (fun v => v.get p) ((raise_inner .ceiling _ _).same .coders (by decide))

theorem beginSlice_struck (beyond : (s.loop p).cmax < (s.coder p).bitCount) (struck : (s.loop p).struck = true) :
    beginSlice p n i s = s.modCoder p fun c =>
      { c with coding := some ⟨r.qmax, true⟩, dcSlices := incWrap32 c.dcSlices } := by
  unfold beginSlice
  rw [record]
  dsimp only
  rw [if_pos beyond, struck]
  rfl

/-- The first slice above the ceiling of a picture. -/
theorem beginSlice_strikes (beyond : (s.loop p).cmax < (s.coder p).bitCount) (first : (s.loop p).struck = false) :
    (beginSlice p n i s).loop p =
        { s.loop p with ceilings := min ((s.loop p).ceilings + 1) 65535, struck := true, held := true } ∧
      (beginSlice p n i s).link.raises.get 6 =
        (if (s.loop p).held then s.link.raises.get 6 else (s.link.raises.get 6 + 1) % 2 ^ 32) ∧
      ((s.loop p).held = false → (beginSlice p n i s).link.latches.get 6 = true) := by
  let coded := s.modCoder p fun c => { c with coding := some ⟨r.qmax, true⟩, dcSlices := incWrap32 c.dcSlices }
  have loop := modified_loop p coded fun l => { l with ceilings := incSat16 l.ceilings, struck := true, held := true }
  unfold beginSlice
  rw [record]
  dsimp only
  rw [if_pos beyond, first, if_neg Bool.false_ne_true]
  cases held : (s.loop p).held with
  | true => exact ⟨loop, rfl, nofun⟩
  | false =>
    refine ⟨?_, raise_raises .ceiling _ _ (by decide), fun _ => raise_latches .ceiling _ _⟩
    exact (congrArg (fun v => v.get p) ((raise_inner .ceiling _ _).same .loops (by decide))).trans loop

end

/-! ### A line of a picture that a program takes (R28) -/

theorem programLine_of_part {p : Fin 4} {r : ProgramRecord} {line : Line} {s : State} {k : Taking}
    (taking : (s.intake p).taking = some k) (part : (k.nextLine + 1) % 8 ≠ 0) : programLine p r line s =
      s.modIntake p fun i => { i with taking := some ⟨k.picture, k.nextLine + 1, k.lines ++ [line]⟩ } := by
  unfold programLine
  rw [taking]
  exact if_neg part

/-- The coder called for the slice that a line completes. -/
def sliceCalled (p : Fin 4) (r : ProgramRecord) (line : Line) (k : Taking) (s : State) : State :=
  callFor p [.slice k.picture ((k.nextLine + 1) / 8 - 1) (k.lines ++ [line])]
    (s.modIntake p fun i =>
      { i with taking := if k.nextLine + 1 < r.height then some ⟨k.picture, k.nextLine + 1, []⟩ else none })

theorem programLine_of_slice {p : Fin 4} {r : ProgramRecord} {line : Line} {s : State} {k : Taking}
    (taking : (s.intake p).taking = some k) (whole : (k.nextLine + 1) % 8 = 0) :
    programLine p r line s = advance p (sliceCalled p r line k s) := by
  unfold programLine
  rw [taking]
  exact if_pos whole

theorem sliceCalled_coder (p : Fin 4) (r : ProgramRecord) (line : Line) (k : Taking) (s : State) :
    (sliceCalled p r line k s).coder p = { s.coder p with
      list := (s.coder p).list ++ [.slice k.picture ((k.nextLine + 1) / 8 - 1) (k.lines ++ [line])] } :=
  modified_coder p _ fun c => { c with list := c.list ++ [.slice k.picture ((k.nextLine + 1) / 8 - 1) (k.lines ++ [line])] }

theorem isCut_iff (p : Fin 4) (n : Nat) (s : State) :
    isCut p n s = true ↔ (s.coder p).cut = some n ∨ (s.chain p).cut = some n := by
  simp [isCut]

/-- What one program does at a line of a port. -/
def reachedBy (i : Fin 4) (y cb cr : List Sample10) (p : Fin 4) (t : State) : State :=
  match (t.prog p).record with
  | some r => if r.port = i.1 then programLine p r (takenLine r y cb cr) t else t
  | none => t

/-- The port's picture has one more line. -/
def lineMeasured (i : Fin 4) (y : List Sample10) (s : State) : State :=
  s.modPort i fun q => { q with opened := q.opened.map (measureLine y.length) }

theorem lineTaken_of_opened {i : Fin 4} {m : Measure} {s : State} (opened : (s.port i).opened = some m)
    (y cb cr : List Sample10) : lineTaken i y cb cr s = eachProgram (reachedBy i y cb cr) (lineMeasured i y s) := by
  unfold lineTaken
  rw [opened]
  rfl

theorem reachedBy_of_feeds {i p : Fin 4} {r : ProgramRecord} {s : State} (record : (s.prog p).record = some r)
    (port : r.port = i.1) (y cb cr : List Sample10) :
    reachedBy i y cb cr p s = programLine p r (takenLine r y cb cr) s := by
  unfold reachedBy
  rw [record]
  exact if_pos port

theorem reachedBy_of_only {i p q : Fin 4} {s : State} (only : OnlyFeeds i p s) (other : p ≠ q) (y cb cr : List Sample10) :
    reachedBy i y cb cr q s = s := by
  unfold reachedBy
  split
  next r record => exact if_neg (only q r other record)
  · rfl

/-- A line reaches the one program that takes its pictures from the port. -/
theorem lineTaken_single {i p : Fin 4} {r : ProgramRecord} {y cb cr : List Sample10} {m : Measure} {s : State}
    (only : OnlyFeeds i p s) (record : (s.prog p).record = some r) (port : r.port = i.1)
    (opened : (s.port i).opened = some m) :
    lineTaken i y cb cr s = programLine p r (takenLine r y cb cr) (lineMeasured i y s) := by
  have own := reachedBy_of_feeds (s := lineMeasured i y s) record port y cb cr
  have kept := programLine_coderKeeps p (lineMeasured i y s) r (takenLine r y cb cr)
  rw [lineTaken_of_opened opened, eachProgram_single _ p (lineMeasured i y s) (OnlyFeeds i p) only
    (by rw [own]; exact OnlyFeeds.of_keeps (s := lineMeasured i y s) only kept)
    fun q t other only => reachedBy_of_only only other y cb cr, own]

/-- Settles O26. -/
theorem linesBecomeSlices : Obligations.LinesBecomeSlices := by
  intro i p r m k y cb cr s record port others opened taking fill lines n item
  have only : OnlyFeeds i p s := fun q r' other => others q r' (Ne.symm other)
  let measured' := lineMeasured i y s
  let line := takenLine r y cb cr
  have event : lineTaken i y cb cr s = programLine p r line measured' := lineTaken_single only record port opened
  rw [exec_lineTaken, event]
  refine ⟨_, rfl, ?_, fun part => ?_, fun whole => ?_⟩
  · rw [endEvent_port]
    refine (congrArg (fun v => v.get i) ((programLine_inner p r line measured').same .ports (by decide))).trans ?_
    refine (modified_port i (fun q => { q with opened := q.opened.map (measureLine y.length) }) s).trans ?_
    rw [opened]
    rfl
  · rw [endEvent_intake, endEvent_coder, programLine_of_part (s := measured') taking part]
    exact ⟨modified_intake p (fun i => { i with taking := some ⟨k.picture, k.nextLine + 1, k.lines ++ [line]⟩ }) measured', rfl⟩
  · rw [endEvent_intake, endEvent_coder, endEvent_loop, endEvent_raises _ _ (by decide),
      programLine_of_slice (s := measured') taking whole]
    let called := sliceCalled p r line k measured'
    have coder : called.coder p = { s.coder p with list := (s.coder p).list ++ [item] } :=
      sliceCalled_coder p r line k measured'
    refine ⟨?_, fun empty idle => ?_, fun pic ix ls rest c front coding => ?_⟩
    · refine (congrArg (fun v => v.get p) ((advance_inner p called).same .intakes (by decide))).trans ?_
      exact modified_intake p (fun i =>
        { i with taking := if k.nextLine + 1 < r.height then some ⟨k.picture, k.nextLine + 1, []⟩ else none }) measured'
    · intro d l isCut' raised
      have list : (called.coder p).list = [item] := by rw [coder, empty]; rfl
      have idle' : (called.coder p).coding = none := by rw [coder, idle]
      have begins : advance p called = if isCut p k.picture called then popItem p called
          else beginSlice p k.picture (n / 8 - 1) called := advance_of_slice list idle'
      have cuts : isCut p k.picture called = true ↔ isCut' := by
        rw [isCut_iff, coder]
        exact Iff.rfl
      have record' : (called.prog p).record = some r := record
      have ready : called.coder p = { d with list := [item] } := by rw [coder, empty]; rfl
      have start : advance p (sliceCalled p r line k measured') = advance p called := rfl
      rw [start, begins]
      refine ⟨fun cut => ?_, fun whole' within => ?_, fun whole' beyond => ?_⟩
      · rw [if_pos (cuts.mpr cut), popItem_coder, ready]
        exact ⟨coder_of_idle empty idle, rfl, rfl⟩
      · have within' : (called.coder p).bitCount ≤ (called.loop p).cmax := by rw [ready]; exact within
        rw [if_neg (fun h => whole' (cuts.mp h)), beginSlice_within record' _ _ within', modified_coder, ready]
        exact ⟨rfl, rfl, rfl⟩
      · have beyond' : (called.loop p).cmax < (called.coder p).bitCount := by rw [ready]; exact beyond
        rw [if_neg (fun h => whole' (cuts.mp h))]
        refine ⟨?_, fun struck => ?_, fun first => ?_⟩
        · rw [beginSlice_beyond_coder record' _ _ beyond', ready]
        · rw [beginSlice_struck record' _ _ beyond' struck]
          exact ⟨rfl, rfl⟩
        · obtain ⟨loop, raises, latches⟩ := beginSlice_strikes record' k.picture (n / 8 - 1) beyond' first
          exact ⟨loop, raises, fun free => by rw [endEvent_link]; exact settle_latches (latches free)⟩
    · have codes : CodesSlice (called.coder p) := by
        rw [coder]
        exact ⟨by rw [coding]; rfl, pic, ix, ls, rest ++ [item], by rw [front]; rfl⟩
      have stays : advance p called = called := advance_of_coding codes
      rw [stays, coder]

end Sys2Proof.Machine
end

section
/-! PROOFS. Units that are offered: what is written reads back, and what a refused take leaves (R105, R109, R110, R117,
R118). -/

namespace Sys2Proof.Machine

set_option Elab.async false

/-! ### Reading the stream back -/

theorem find?_unique {α : Type} {P : α → Bool} {x : α} {l : List α} (mem : x ∈ l) (holds : P x = true)
    (unique : ∀ y ∈ l, P y = true → y = x) : l.find? P = some x := by
  have found : (l.find? P).isSome = true := List.find?_isSome.mpr ⟨x, mem, holds⟩
  obtain ⟨y, some⟩ := Option.isSome_iff_exists.mp found
  rw [some, unique y (List.mem_of_find?_eq_some some) (List.find?_some some)]

/-- The one segment of a run that holds a stream offset gives its byte. -/
theorem streamByte_of_segment {p : Fin 4} {run o : Nat} {s : State} {y : Segment} (mem : y ∈ (s.chain p).segs)
    (own : y.run = run) (low : y.first ≤ o) (high : o < segEnd y)
    (unique : ∀ z ∈ (s.chain p).segs, z.run = run → z.first ≤ o → o < segEnd z → z = y) :
    streamByte p run s o = memRead s.mem (segAddress y.number (o - y.first)) := by
  have found : segAt p run o s = some y := by
    refine find?_unique mem (by simp [own, low, high]) fun z mem' holds => ?_
    simp only [Bool.and_eq_true, beq_iff_eq, decide_eq_true_eq] at holds
    exact unique z mem' holds.1.1 holds.1.2 holds.2
  unfold streamByte
  rw [found]

theorem streamBytes_of_bytes {p : Fin 4} {run off : Nat} {s : State} {bytes : List Byte}
    (reads : ∀ i < bytes.length, streamByte p run s (off + i) = bytes.getD i unlisted) :
    streamBytes p run off bytes.length s = bytes := by
  refine List.ext_getElem (by simp [streamBytes]) fun i short short' => ?_
  simp only [streamBytes, List.getElem_map, List.getElem_range]
  rw [reads i short', List.getD_eq_getElem _ _ short']

/-! ### Writing a part of a unit (R110, R111) -/

/-- A segment of a chain after a part of a unit is written to segment `n`. -/
def partWritten (n : Nat) (u : StreamUnit) (start : Nat) (part : List Byte) (hasFirst hasLast : Bool) (x : Segment) :
    Segment :=
  if x.number == n then
    { x with
      fill := x.fill + part.length
      firstPicture := olderOf x.firstPicture u.picture
      lastPicture := newerOf x.lastPicture u.picture
      marks := x.marks ++ partMark u start hasFirst hasLast
      units := x.units ++ [⟨start, u.bytes.length, u.picture⟩] }
  else x

/-- The state with the bytes of a part written into the OPEN segment `g`, before that segment seals. -/
def bytesWritten (p : Fin 4) (g : Segment) (u : StreamUnit) (start : Nat) (part : List Byte) (hasFirst hasLast : Bool)
    (s : State) : State :=
  modSegs p (partWritten g.number u start part hasFirst hasLast)
    (s.modMem fun m => memWriteBytes m (segAddress g.number g.fill) part)

section
variable {p : Fin 4} {g : Segment} {s : State} (u : StreamUnit) (start : Nat) (part : List Byte) (hasFirst hasLast : Bool)

theorem writePart_of_room (opened : openSeg p s = some g) (room' : g.fill + part.length ≠ 262144) :
    writePart p u start part hasFirst hasLast s = bytesWritten p g u start part hasFirst hasLast s := by
  unfold writePart
  rw [opened]
  exact if_neg room'

theorem writePart_of_full (opened : openSeg p s = some g) (full : g.fill + part.length = 262144) :
    writePart p u start part hasFirst hasLast s = sealOpen p (bytesWritten p g u start part hasFirst hasLast s) := by
  unfold writePart
  rw [opened]
  exact if_pos full

theorem bytesWritten_chain : (bytesWritten p g u start part hasFirst hasLast s).chain p =
    { s.chain p with segs := (s.chain p).segs.map (partWritten g.number u start part hasFirst hasLast) } := by
  unfold bytesWritten
  rw [modSegs_chain, if_pos rfl]
  rfl

/-- What a write leaves of a segment's place: its number, run and first offset, and its fill. -/
structure Fills (n k : Nat) (x y : Segment) : Prop where
  number : y.number = x.number
  run : y.run = x.run
  first : y.first = x.first
  fill : y.fill = if x.number = n then x.fill + k else x.fill

theorem partWritten_fills (n : Nat) (x : Segment) :
    Fills n part.length x (partWritten n u start part hasFirst hasLast x) := by
  unfold partWritten
  by_cases same : x.number = n
  · rw [if_pos (beq_iff_eq.mpr same)]
    exact ⟨rfl, rfl, rfl, by rw [if_pos same]⟩
  · rw [if_neg (fun h => same (beq_iff_eq.mp h))]
    exact ⟨rfl, rfl, rfl, by rw [if_neg same]⟩

end

/-- A program's chain with each of its segments changed. -/
def ChainMapped (p : Fin 4) (f : Segment → Segment) (s t : State) : Prop :=
  t.chain p = { s.chain p with segs := (s.chain p).segs.map f }

theorem ChainMapped.trans {p : Fin 4} {f h : Segment → Segment} {s t u : State} (first : ChainMapped p f s t)
    (next : ChainMapped p h t u) : ChainMapped p (h ∘ f) s u := by
  unfold ChainMapped at *
  rw [next, first, List.map_map]

theorem ChainMapped.refl (p : Fin 4) (s : State) : ChainMapped p id s s := by
  unfold ChainMapped
  rw [List.map_id]

theorem ChainMapped.modSegs (p : Fin 4) (f : Segment → Segment) (s : State) : ChainMapped p f s (modSegs p f s) := by
  unfold ChainMapped
  rw [modSegs_chain, if_pos rfl]

/-- A change of a segment that leaves it SEALED when it was, and leaves its place. -/
structure KeepsPlace (x y : Segment) : Prop where
  number : y.number = x.number
  run : y.run = x.run
  first : y.first = x.first
  fill : y.fill = x.fill
  stays : x.isSealed = true → y.isSealed = true

theorem KeepsPlace.refl (x : Segment) : KeepsPlace x x := ⟨rfl, rfl, rfl, rfl, id⟩

theorem clearPassed_mapped (p : Fin 4) (s : State) :
    ∃ f : Segment → Segment, ChainMapped p f s (clearPassed p s) ∧ ∀ x, KeepsPlace x (f x) := by
  unfold clearPassed
  split
  · exact ⟨id, .refl p s, .refl⟩
  · refine ⟨_, .modSegs p _ s, fun x => ?_⟩
    split
    · exact ⟨rfl, rfl, rfl, rfl, id⟩
    · exact .refl x

theorem KeepsPlace.trans {x y z : Segment} (first : KeepsPlace x y) (next : KeepsPlace y z) : KeepsPlace x z :=
  ⟨next.number.trans first.number, next.run.trans first.run, next.first.trans first.first, next.fill.trans first.fill,
    fun closed => next.stays (first.stays closed)⟩

/-- A segment when its program's OPEN segment seals; `keeps` says whether the program asks for retention (R111). -/
def sealedAs (keeps : Bool) (x : Segment) : Segment :=
  if x.isSealed then x
  else { x with isSealed := true, writer := false, retention := decide (0 < x.fill) && keeps }

theorem sealedAs_keeps (keeps : Bool) (x : Segment) :
    KeepsPlace x (sealedAs keeps x) ∧ (sealedAs keeps x).isSealed = true := by
  unfold sealedAs
  split
  next closed => exact ⟨.refl x, closed⟩
  · exact ⟨⟨rfl, rfl, rfl, rfl, fun _ => rfl⟩, rfl⟩

theorem sealOpen_eq (p : Fin 4) (s : State) :
    ∃ keeps, sealOpen p s = clearPassed p (modSegs p (sealedAs keeps) s) := ⟨_, rfl⟩

/-- The seal keeps the places of the segments, and all of them are SEALED. -/
theorem sealOpen_mapped (p : Fin 4) (s : State) : ∃ f : Segment → Segment,
    ChainMapped p f s (sealOpen p s) ∧ ∀ x, KeepsPlace x (f x) ∧ (f x).isSealed = true := by
  obtain ⟨keeps, same⟩ := sealOpen_eq p s
  obtain ⟨clear, cleared, places⟩ := clearPassed_mapped p (modSegs p (sealedAs keeps) s)
  rw [same]
  refine ⟨_, (ChainMapped.modSegs p _ s).trans cleared, fun x => ?_⟩
  obtain ⟨kept, closed⟩ := sealedAs_keeps keeps x
  exact ⟨kept.trans (places _), (places _).stays closed⟩

/-- What a write leaves: each segment in its place, with the bytes counted in the OPEN one, all of them SEALED when it is
full, and the bytes in the memory. -/
theorem writePart_places {p : Fin 4} {g : Segment} {s : State} (opened : openSeg p s = some g) (u : StreamUnit)
    (start : Nat) (part : List Byte) (hasFirst hasLast : Bool) : ∃ f : Segment → Segment,
      ChainMapped p f s (writePart p u start part hasFirst hasLast s) ∧
      (∀ x, Fills g.number part.length x (f x)) ∧
      (g.fill + part.length = 262144 → ∀ x, (f x).isSealed = true) ∧
      (writePart p u start part hasFirst hasLast s).mem = memWriteBytes s.mem (segAddress g.number g.fill) part := by
  have written : ChainMapped p (partWritten g.number u start part hasFirst hasLast) s
      (bytesWritten p g u start part hasFirst hasLast s) := bytesWritten_chain u start part hasFirst hasLast
  by_cases full : g.fill + part.length = 262144
  · obtain ⟨f, mapped, closes⟩ := sealOpen_mapped p (bytesWritten p g u start part hasFirst hasLast s)
    rw [writePart_of_full u start part hasFirst hasLast opened full]
    refine ⟨_, written.trans mapped, fun x => ?_, fun _ x => (closes _).2, ?_⟩
    · obtain ⟨number, run, first, fill⟩ := partWritten_fills u start part hasFirst hasLast g.number x
      obtain ⟨number', run', first', fill', -⟩ := (closes (partWritten g.number u start part hasFirst hasLast x)).1
      exact ⟨number'.trans number, run'.trans run, first'.trans first, fill'.trans fill⟩
    · exact (sealOpen_inner p _).same .mem (by decide)
  · rw [writePart_of_room u start part hasFirst hasLast opened full]
    exact ⟨_, written, partWritten_fills u start part hasFirst hasLast g.number, fun h => absurd h full, rfl⟩

/-! ### Where a written byte is found -/

theorem numbers_apart {s : State} (conserved : SegmentsConserved s) :
    s.store.freeList.Disjoint (chainNumbers (s.chain 0) ++ chainNumbers (s.chain 1) ++ chainNumbers (s.chain 2)
      ++ chainNumbers (s.chain 3)) :=
  (List.nodup_append'.mp (conserved.nodup_iff.mpr List.nodup_range)).2.2

theorem mem_chains {s : State} {p : Fin 4} {n : Nat} (mem : n ∈ chainNumbers (s.chain p)) :
    n ∈ chainNumbers (s.chain 0) ++ chainNumbers (s.chain 1) ++ chainNumbers (s.chain 2)
      ++ chainNumbers (s.chain 3) := by
  simp only [List.mem_append]
  match p with
  | 0 => exact .inl (.inl (.inl mem))
  | 1 => exact .inl (.inl (.inr mem))
  | 2 => exact .inl (.inr mem)
  | 3 => exact .inr mem

theorem chainNumbers_nodup {s : State} (conserved : SegmentsConserved s) (p : Fin 4) :
    (chainNumbers (s.chain p)).Nodup := by
  have all := numbers_nodup conserved
  simp only [List.nodup_append'] at all
  match p with
  | 0 => exact all.1.1.1
  | 1 => exact all.1.1.2.1
  | 2 => exact all.1.2.1
  | 3 => exact all.2.1

/-- The segments of a chain by their numbers. -/
theorem eq_of_number {s : State} (conserved : SegmentsConserved s) {p : Fin 4} {x y : Segment}
    (memX : x ∈ (s.chain p).segs) (memY : y ∈ (s.chain p).segs) (same : x.number = y.number) : x = y :=
  List.inj_on_of_nodup_map (chainNumbers_nodup conserved p) memX memY same

/-- The OPEN segment stands at the end of its run's stream. -/
structure StandsLast (p : Fin 4) (g : Segment) (s : State) : Prop where
  conserved : SegmentsConserved s
  mem : g ∈ (s.chain p).segs
  others : ∀ x ∈ (s.chain p).segs, x ≠ g → x.run = g.run → segEnd x ≤ g.first

/-- After a write to the last segment no other segment of the run reaches past its old end. -/
theorem StandsLast.alone {p : Fin 4} {g : Segment} {s : State} (last : StandsLast p g s) {f : Segment → Segment} {k o : Nat}
    (fills : ∀ x ∈ (s.chain p).segs, Fills g.number k x (f x)) (past : segEnd g ≤ o) :
    ∀ z ∈ (s.chain p).segs.map f, z.run = g.run → o < segEnd z → z = f g := by
  intro z mem own high
  obtain ⟨x, memX, rfl⟩ := List.mem_map.mp mem
  by_cases same : x = g
  · rw [same]
  · have number : x.number ≠ g.number := fun h => same (eq_of_number last.conserved memX last.mem h)
    obtain ⟨-, run, first, fill⟩ := fills x memX
    rw [if_neg number] at fill
    have ends := last.others x memX same (run.symm.trans own)
    have high' : o < segEnd x := by rw [segEnd, first, fill] at high; exact high
    have order : g.first ≤ segEnd g := Nat.le_add_right _ _
    omega

/-- A byte written to the last segment is the byte of the stream at its offset, whatever segments were taken behind. -/
theorem StandsLast.reads {p : Fin 4} {g : Segment} {s t : State} (last : StandsLast p g s) {f : Segment → Segment} {k i : Nat}
    {behind : List Segment} (segs : (t.chain p).segs = (s.chain p).segs.map f ++ behind)
    (fills : ∀ x ∈ (s.chain p).segs, Fills g.number k x (f x)) (short : i < k)
    (apart : ∀ z ∈ behind, ¬z.first ≤ segEnd g + i) :
    streamByte p g.run t (segEnd g + i) = memRead t.mem (segAddress g.number g.fill + i) := by
  obtain ⟨number, run, first, fill⟩ := fills g last.mem
  rw [if_pos rfl] at fill
  have mem : f g ∈ (t.chain p).segs := segs ▸ List.mem_append_left _ (List.mem_map_of_mem last.mem)
  have low : (f g).first ≤ segEnd g + i := by rw [first, segEnd]; omega
  have high : segEnd g + i < segEnd (f g) := by simp only [segEnd, first, fill]; omega
  rw [streamByte_of_segment mem run low high]
  · rw [number, first]
    refine congrArg (memRead t.mem) ?_
    simp only [segAddress, segEnd]
    omega
  · intro z memZ own lowZ highZ
    rw [segs] at memZ
    rcases List.mem_append.mp memZ with old | new
    · exact last.alone fills (Nat.le_add_right _ _) z old own highZ
    · exact absurd lowZ (apart z new)

theorem afterWrite_chain (p q : Fin 4) (u : StreamUnit) (s : State) : (afterWrite p u s).chain q = s.chain q :=
  congrArg (fun v => v.get q) ((afterWrite_inner p u s).same .chains (by decide))

theorem openSeg_mem {p : Fin 4} {g : Segment} {s : State} (opened : openSeg p s = some g) : g ∈ (s.chain p).segs :=
  List.mem_of_find?_eq_some opened

theorem room_of_open {p : Fin 4} {g : Segment} {s : State} (opened : openSeg p s = some g) :
    room p s = 262144 - g.fill := by
  unfold room
  rw [opened]
  rfl

/-- A unit that fits reads back, and the rest of the memory reads as before. -/
theorem offerUnit_reads_of_fits {p : Fin 4} {u : StreamUnit} {g : Segment} {s : State} (last : StandsLast p g s)
    (opened : openSeg p s = some g) (own : g.run = (s.prog p).run) (ends : segEnd g = (s.prog p).streamOffset)
    (whole : (s.chain p).cut ≠ some u.picture) (fits : g.fill + u.bytes.length ≤ 262144) :
    (offerUnit p u s).1 = true ∧
      ((offerUnit p u s).2.prog p).streamOffset = (s.prog p).streamOffset + u.bytes.length ∧
      streamBytes p (s.prog p).run (s.prog p).streamOffset u.bytes.length (offerUnit p u s).2 = u.bytes ∧
      ∀ a, a < segAddress g.number g.fill ∨ segAddress g.number g.fill + u.bytes.length ≤ a →
        memRead (offerUnit p u s).2.mem a = memRead s.mem a := by
  have fits' : u.bytes.length ≤ room p s := by rw [room_of_open opened]; omega
  obtain ⟨f, mapped, fills, -, mem⟩ := writePart_places opened u (s.prog p).streamOffset u.bytes true true
  have same := offerUnit_of_fits whole fits'
  have mem' : (offerUnit p u s).2.mem = memWriteBytes s.mem (segAddress g.number g.fill) u.bytes := by
    rw [same]
    exact ((afterWrite_inner p u _).same .mem (by decide)).trans mem
  have segs : ((offerUnit p u s).2.chain p).segs = (s.chain p).segs.map f ++ [] := by
    rw [same, afterWrite_chain, mapped, List.append_nil]
  refine ⟨congrArg Prod.fst same, by rw [offerUnit_prog whole fits'], ?_, fun a outside => ?_⟩
  · refine streamBytes_of_bytes fun i short => ?_
    rw [← own, ← ends, last.reads segs (fun x _ => fills x) short (by simp), mem', memRead_write_same _ _ _ _ short]
  · rw [mem', memRead_write_other _ _ _ _ outside]

/-! ### A take that leaves the reserve free (R109, R117) -/

theorem reserveRule_of_room {s : State} (room' : s.store.reserve ≤ freeCount s) : reserveRule s = s :=
  if_neg (Nat.not_lt.mpr room')

theorem modClip_recs (c : Nat) (f : Clip → Clip) (s : State) (d : Fin 64) : (modClip c f s).clips.recs.get d =
    if Fin.ofNat 64 c = d then (s.clips.recs.get d).map f else s.clips.recs.get d := by
  unfold modClip
  simp only [modClips_clips, Vec_get_put]
  split
  · subst_vars; rfl
  · rfl

/-- What a take's pins leave of a chain: pins on segments of the taken number alone. -/
structure PinsOnly (n : Nat) (f : Segment → Segment) : Prop where
  pins : ∀ x, f x = { x with pins := (f x).pins }
  others : ∀ x, x.number ≠ n → f x = x

theorem PinsOnly.id (n : Nat) : PinsOnly n id := ⟨fun _ => rfl, fun _ _ => rfl⟩

theorem PinsOnly.comp {n : Nat} {f h : Segment → Segment} (first : PinsOnly n f) (next : PinsOnly n h) :
    PinsOnly n (h ∘ f) where
  pins x := by
    show h (f x) = { x with pins := (h (f x)).pins }
    rw [next.pins, first.pins]
  others x other := by
    show h (f x) = x
    rw [first.others x other, next.others x other]

/-- A clip that is closing pins the taken segment. -/
theorem pinClosing_mapped (p : Fin 4) (n : Nat) (s : State) :
    ∃ f, ChainMapped p f s (pinClosing p n s) ∧ PinsOnly n f := by
  unfold pinClosing
  generalize clipIds _ s = ids
  induction ids generalizing s with
  | nil => exact ⟨id, .refl p s, .id n⟩
  | cons c cs ih =>
    let pinned := modSegs p (fun g => if g.number == n then { g with pins := g.pins + 1 } else g) s
    obtain ⟨f, mapped, only⟩ := ih (modClip c (fun k => { k with pinned := k.pinned ++ [n] }) pinned)
    have one : ChainMapped p (fun g => if g.number == n then { g with pins := g.pins + 1 } else g) s
        (modClip c (fun k => { k with pinned := k.pinned ++ [n] }) pinned) := ChainMapped.modSegs p _ s
    refine ⟨_, one.trans mapped, PinsOnly.comp ⟨fun x => ?_, fun x other => ?_⟩ only⟩
    · split <;> rfl
    · exact if_neg (by simpa using other)

theorem pinClosing_of_none {p : Fin 4} {n : Nat} {s : State}
    (none' : ∀ c k, s.clips.recs.get c = some k → k.program = p → k.st ≠ .closing) : pinClosing p n s = s := by
  unfold pinClosing
  rw [clipIds_eq_nil fun c k found => ?_]
  · rfl
  · by_cases own : k.program = p
    · simp [own, none' c k found own]
    · simp [own]

theorem pinOpen_clips {p : Fin 4} {n : Nat} {s : State} {c : Fin 64} {k : Clip}
    (found : (pinOpen p n s).clips.recs.get c = some k) :
    ∃ k', s.clips.recs.get c = some k' ∧ k.program = k'.program ∧ k.st = k'.st := by
  unfold pinOpen at found
  split at found
  · rw [modClip_recs] at found
    split at found
    · obtain ⟨k', before, rfl⟩ := Option.map_eq_some_iff.mp found
      exact ⟨k', before, rfl, rfl⟩
    · exact ⟨k, found, rfl, rfl⟩
  · exact ⟨k, found, rfl, rfl⟩

/-- A segment just taken, with the pins that the closing clips of the program add. -/
theorem takeSegment_places {p : Fin 4} {offset n : Nat} {rest : List Nat} {s : State} (free : s.store.freeList = n :: rest)
    (reserve : s.store.reserve ≤ rest.length) : ∃ f, PinsOnly n f ∧
      (takeSegment p offset s).chain p = { s.chain p with
        segs := ((s.chain p).segs ++ [newSegment n (s.prog p).run offset (s.chain p).openClips]).map f
        takes := ((s.chain p).takes + 1) % 2 ^ 32 } ∧
      ((∀ c k, s.clips.recs.get c = some k → k.program = p → k.st ≠ .closing) → f = id) ∧
      (takeSegment p offset s).store = { s.store with freeList := rest, takes := (s.store.takes + 1) % 2 ^ 32 } := by
  let taken := (s.modStore fun t => { t with freeList := rest, takes := incWrap32 t.takes }).modChain p fun c =>
    { c with
      segs := c.segs ++ [newSegment n (s.prog p).run offset (s.chain p).openClips], takes := incWrap32 c.takes }
  have store : (pinClosing p n (pinOpen p n taken)).store = taken.store :=
    ((pinClosing_inner p n _).same .store (by decide)).trans ((pinOpen_inner p n taken).same .store (by decide))
  have takes : takeSegment p offset s = pinClosing p n (pinOpen p n taken) := by
    unfold takeSegment
    rw [free]
    refine reserveRule_of_room ?_
    show (pinClosing p n (pinOpen p n taken)).store.reserve ≤ (pinClosing p n (pinOpen p n taken)).store.freeList.length
    rw [store]
    exact reserve
  have chain : (pinOpen p n taken).chain p = { s.chain p with
      segs := (s.chain p).segs ++ [newSegment n (s.prog p).run offset (s.chain p).openClips]
      takes := ((s.chain p).takes + 1) % 2 ^ 32 } := by
    refine (congrArg (fun v => v.get p) ((pinOpen_inner p n taken).same .chains (by decide))).trans ?_
    refine (modChain_chain _ p p _).trans ?_
    rw [if_pos rfl]
    rfl
  rw [takes]
  by_cases none' : ∀ c k, s.clips.recs.get c = some k → k.program = p → k.st ≠ .closing
  · have none'' : pinClosing p n (pinOpen p n taken) = pinOpen p n taken := by
      refine pinClosing_of_none fun c k found own => ?_
      obtain ⟨k', before, program, st⟩ := pinOpen_clips found
      rw [st]
      exact none' c k' before (program.symm.trans own)
    refine ⟨id, .id n, ?_, fun _ => rfl, store⟩
    rw [none'', chain, List.map_id]
  · obtain ⟨f, mapped, only⟩ := pinClosing_mapped p n (pinOpen p n taken)
    refine ⟨f, only, ?_, fun h => absurd h none', store⟩
    unfold ChainMapped at mapped
    rw [mapped, chain]

/-! ### A unit that spills over (R109, R110) -/

/-- The state after the first part of a unit that spills over. -/
def spillStart (p : Fin 4) (u : StreamUnit) (s : State) : State :=
  writePart p u (s.prog p).streamOffset (u.bytes.take (room p s)) true false s

/-- The state after the take of a unit that spills over. -/
def spillTaken (p : Fin 4) (u : StreamUnit) (s : State) : State :=
  takeSegment p ((s.prog p).streamOffset + room p s) (spillStart p u s)

/-- The state after the rest of a unit that spills over. -/
def spillEnd (p : Fin 4) (u : StreamUnit) (s : State) : State :=
  writePart p u (s.prog p).streamOffset (u.bytes.drop (room p s)) (decide (room p s = 0)) true (spillTaken p u s)

theorem offerUnit_of_spill {p : Fin 4} {u : StreamUnit} {s : State} {n : Nat} {rest : List Nat}
    (whole : (s.chain p).cut ≠ some u.picture) (spills : room p s < u.bytes.length) (some' : room p s ≠ 0)
    (free : s.store.freeList = n :: rest) : offerUnit p u s = (true, afterWrite p u (spillEnd p u s)) := by
  unfold offerUnit
  dsimp only
  rw [if_neg whole, if_neg (Nat.not_le.mpr spills), free, if_neg some']
  rfl

/-- What a unit leaves that spills over into a segment `n` of the free list. -/
structure Spilled (p : Fin 4) (u : StreamUnit) (g : Segment) (n : Nat) (rest : List Nat) (s t : State) : Prop where
  segs : ∃ f y, (t.chain p).segs = (s.chain p).segs.map f ++ [y] ∧
    (∀ x ∈ (s.chain p).segs, Fills g.number (262144 - g.fill) x (f x)) ∧
    y.number = n ∧ y.run = (s.prog p).run ∧ y.first = (s.prog p).streamOffset + (262144 - g.fill) ∧
    y.fill = u.bytes.length - (262144 - g.fill) ∧ y.firstPicture = some u.picture ∧ y.lastPicture = some u.picture ∧
    y.isSealed = false ∧ y.writer = true ∧ y.pendingSend = true ∧ y.refs = 0 ∧ y.retention = false ∧
    ((∀ c k, s.clips.recs.get c = some k → k.program = p → k.st ≠ .closing) → y.pins = (s.chain p).openClips)
  takes : (t.chain p).takes = ((s.chain p).takes + 1) % 2 ^ 32
  store : t.store = { s.store with freeList := rest, takes := (s.store.takes + 1) % 2 ^ 32 }
  mem : t.mem = memWriteBytes (memWriteBytes s.mem (segAddress g.number g.fill) (u.bytes.take (262144 - g.fill)))
    (segAddress n 0) (u.bytes.drop (262144 - g.fill))
  prog : t.prog p = s.prog p

theorem spillEnd_spilled {p : Fin 4} {u : StreamUnit} {g : Segment} {s : State} {n : Nat} {rest : List Nat}
    (conserved : SegmentsConserved s) (opened : openSeg p s = some g) (free : s.store.freeList = n :: rest)
    (reserve : s.store.reserve ≤ rest.length) (room' : g.fill < 262144) (spills : 262144 - g.fill < u.bytes.length)
    (short : u.bytes.length - (262144 - g.fill) < 262144) : Spilled p u g n rest s (spillEnd p u s) := by
  have space : room p s = 262144 - g.fill := room_of_open opened
  have fresh : n ∉ chainNumbers (s.chain p) := fun mem =>
    numbers_apart conserved (by rw [free]; exact List.mem_cons_self ..) (mem_chains mem)
  have length : (u.bytes.take (room p s)).length = 262144 - g.fill := by
    rw [space, List.length_take]
    omega
  have length' : (u.bytes.drop (room p s)).length = u.bytes.length - (262144 - g.fill) := by
    rw [space, List.length_drop]
  obtain ⟨f, mapped, fills, closes, mem⟩ := writePart_places opened u (s.prog p).streamOffset
    (u.bytes.take (room p s)) true false
  rw [length] at fills closes
  have inner : Inner [.mem, .chains] s (spillStart p u s) := writePart_inner ..
  have store : (spillStart p u s).store = s.store := inner.same .store (by decide)
  have prog : (spillStart p u s).prog p = s.prog p := prog_of_same inner (by decide) p
  have clips : (spillStart p u s).clips = s.clips := inner.same .clips (by decide)
  have chain : (spillStart p u s).chain p = { s.chain p with segs := (s.chain p).segs.map f } := mapped
  obtain ⟨h, only, taken, noPins, store'⟩ := takeSegment_places (p := p)
    (offset := (s.prog p).streamOffset + room p s) (s := spillStart p u s) (by rw [store]; exact free)
    (by rw [store]; exact reserve)
  rw [chain, prog] at taken
  let seg := newSegment n (s.prog p).run ((s.prog p).streamOffset + room p s) (s.chain p).openClips
  have segs : ((spillTaken p u s).chain p).segs = ((s.chain p).segs.map f ++ [seg]).map h :=
    congrArg Chain.segs taken
  have newSealed : (h seg).isSealed = false := by rw [only.pins]; rfl
  have newNumber : (h seg).number = n := by rw [only.pins]; rfl
  have newFill : (h seg).fill = 0 := by rw [only.pins]; rfl
  have opened' : openSeg p (spillTaken p u s) = some (h seg) := by
    refine find?_unique (by rw [segs]; exact List.mem_map_of_mem (List.mem_append_right _ (List.mem_singleton_self _)))
      (by rw [newSealed]; rfl) fun y memY unsealed => ?_
    rw [segs] at memY
    obtain ⟨z, memZ, rfl⟩ := List.mem_map.mp memY
    rcases List.mem_append.mp memZ with old | new
    · obtain ⟨x, -, rfl⟩ := List.mem_map.mp old
      have closed : (h (f x)).isSealed = true := by
        rw [only.pins]
        exact closes (by omega) x
      rw [closed] at unsealed
      cases unsealed
    · rw [List.mem_singleton.mp new]
  have last := writePart_of_room u (s.prog p).streamOffset (u.bytes.drop (room p s)) (decide (room p s = 0)) true opened'
    (by rw [newFill, length']; omega)
  have final : (spillEnd p u s).chain p = { (spillTaken p u s).chain p with
      segs := ((spillTaken p u s).chain p).segs.map (partWritten n u (s.prog p).streamOffset
        (u.bytes.drop (room p s)) (decide (room p s = 0)) true) } := by
    unfold spillEnd
    rw [last, bytesWritten_chain, newNumber]
  have takenInner : Inner [.clips, .sched, .chains, .store, .link] (spillStart p u s) (spillTaken p u s) :=
    takeSegment_inner ..
  have endInner : Inner [.mem, .chains] (spillTaken p u s) (spillEnd p u s) := writePart_inner ..
  have untouched (x : Segment) (memX : x ∈ (s.chain p).segs) : partWritten n u (s.prog p).streamOffset
      (u.bytes.drop (room p s)) (decide (room p s = 0)) true (h (f x)) = f x := by
    have other : (f x).number ≠ n := by
      rw [(fills x).number]
      exact fun same => fresh (same ▸ List.mem_map_of_mem memX)
    rw [only.others _ other]
    exact if_neg (by simpa using other)
  have filled : partWritten n u (s.prog p).streamOffset (u.bytes.drop (room p s)) (decide (room p s = 0)) true (h seg) =
      { h seg with
        fill := (h seg).fill + (u.bytes.drop (room p s)).length
        firstPicture := olderOf (h seg).firstPicture u.picture
        lastPicture := newerOf (h seg).lastPicture u.picture
        marks := (h seg).marks ++ partMark u (s.prog p).streamOffset (decide (room p s = 0)) true
        units := (h seg).units ++ [⟨(s.prog p).streamOffset, u.bytes.length, u.picture⟩] } :=
    if_pos (by rw [newNumber]; exact beq_self_eq_true n)
  refine { segs := ⟨f, partWritten n u (s.prog p).streamOffset (u.bytes.drop (room p s)) (decide (room p s = 0)) true (h seg),
      ?_, fun x _ => fills x, ?_⟩, takes := ?_, store := ?_, mem := ?_, prog := ?_ }
  · rw [final, segs, List.map_append, List.map_append, List.map_map, List.map_map]
    refine congrArg (· ++ _) (List.map_congr_left fun x memX => untouched x memX)
  · rw [filled, only.pins seg]
    refine ⟨rfl, rfl, by rw [← space]; rfl, ?_, rfl, rfl, rfl, rfl, rfl, rfl, rfl, fun none' => ?_⟩
    · show 0 + (u.bytes.drop (room p s)).length = _
      rw [length', Nat.zero_add]
    · show (h seg).pins = _
      rw [noPins (by rw [clips]; exact none')]
      rfl
  · rw [final]
    exact congrArg Chain.takes taken
  · rw [endInner.same .store (by decide)]
    exact store'.trans (by rw [store])
  · have written : (spillEnd p u s).mem = memWriteBytes (spillTaken p u s).mem (segAddress n 0) (u.bytes.drop (room p s)) := by
      unfold spillEnd
      rw [last]
      show memWriteBytes (spillTaken p u s).mem (segAddress (h seg).number (h seg).fill) _ = _
      rw [newNumber, newFill]
    rw [written, takenInner.same .mem (by decide), ← space]
    exact congrArg (fun m => memWriteBytes m _ _) mem
  · rw [prog_of_same endInner (by decide), prog_of_same takenInner (by decide), prog]

theorem segAddress_eq (n o : Nat) : segAddress n o = n * 262144 + o := rfl

/-- A unit that spills over reads back across the two segments. -/
theorem Spilled.reads {p : Fin 4} {u : StreamUnit} {g : Segment} {n : Nat} {rest : List Nat} {s t : State}
    (spilled : Spilled p u g n rest s t) (last : StandsLast p g s) (other : n ≠ g.number)
    (own : g.run = (s.prog p).run) (ends : segEnd g = (s.prog p).streamOffset) (room' : g.fill < 262144)
    (short : u.bytes.length - (262144 - g.fill) < 262144) :
    streamBytes p (s.prog p).run (s.prog p).streamOffset u.bytes.length t = u.bytes := by
  obtain ⟨f, y, segs, fills, number, run, first, fill, -⟩ := spilled.segs
  refine streamBytes_of_bytes fun i inside => ?_
  have length : (u.bytes.take (262144 - g.fill)).length = min (262144 - g.fill) u.bytes.length := List.length_take
  rw [← own, ← ends]
  by_cases early : i < 262144 - g.fill
  · rw [last.reads segs fills early fun z memZ => by rw [List.mem_singleton.mp memZ, first, ← ends]; omega, spilled.mem]
    have apart : segAddress g.number g.fill + i < segAddress n 0 ∨
        segAddress n 0 + (u.bytes.drop (262144 - g.fill)).length ≤ segAddress g.number g.fill + i := by
      rw [List.length_drop]
      simp only [segAddress, Config.segmentBytes]
      omega
    rw [memRead_write_other _ _ _ _ apart, memRead_write_same _ _ _ _ (by omega)]
    simp only [List.getD_eq_getElem?_getD, List.getElem?_take, if_pos early]
  · have low : y.first ≤ segEnd g + i := by rw [first, ← ends]; omega
    have high : segEnd g + i < segEnd y := by
      rw [segEnd, segEnd, first, fill, ← ends, segEnd]
      omega
    rw [streamByte_of_segment (segs ▸ List.mem_append_right _ (List.mem_singleton_self y)) (run.trans own.symm) low high,
      spilled.mem, number, first]
    · have place : segAddress n (segEnd g + i - ((s.prog p).streamOffset + (262144 - g.fill))) =
          segAddress n 0 + (i - (262144 - g.fill)) := by
        simp only [segAddress, Config.segmentBytes]
        omega
      rw [place, memRead_write_same _ _ _ _ (by rw [List.length_drop]; omega)]
      simp only [List.getD_eq_getElem?_getD, List.getElem?_drop]
      rw [Nat.add_sub_cancel' (Nat.not_lt.mp early)]
    · intro z memZ ownZ _ highZ
      rw [segs] at memZ
      rcases List.mem_append.mp memZ with old | new
      · have same := last.alone fills (Nat.le_add_right _ _) z old ownZ highZ
        obtain ⟨-, -, first', fill'⟩ := fills g last.mem
        rw [if_pos rfl] at fill'
        rw [same] at highZ
        simp only [segEnd, first', fill'] at highZ
        omega
      · exact List.mem_singleton.mp new

theorem Spilled.memRead_other {p : Fin 4} {u : StreamUnit} {g : Segment} {n : Nat} {rest : List Nat} {s t : State}
    (spilled : Spilled p u g n rest s t) (spills : 262144 - g.fill < u.bytes.length) (room' : g.fill < 262144) {a : Nat}
    (first : a < segAddress g.number g.fill ∨ segAddress g.number 262144 ≤ a)
    (second : a < segAddress n 0 ∨ segAddress n (u.bytes.length - (262144 - g.fill)) ≤ a) :
    memRead t.mem a = memRead s.mem a := by
  have length : (u.bytes.take (262144 - g.fill)).length = 262144 - g.fill := by rw [List.length_take]; omega
  have ends : segAddress g.number g.fill + (262144 - g.fill) = segAddress g.number 262144 := by
    rw [segAddress_eq, segAddress_eq, Nat.add_assoc, Nat.add_sub_cancel' (Nat.le_of_lt room')]
  have ends' (k : Nat) : segAddress n 0 + k = segAddress n k := by rw [segAddress_eq, segAddress_eq, Nat.add_zero]
  rw [spilled.mem, memRead_write_other, memRead_write_other]
  · rw [length, ends]
    exact first
  · rw [List.length_drop, ends']
    exact second

/-! ### A take that is refused (R117, R118) -/

theorem freedTogether_of_same {start s : State} (free : s.store.freeList = start.store.freeList)
    (takes : s.store.takes = start.store.takes) : freedTogether start s = s := by
  have list : s.store.freeList.take (freeCount start - diff32 s.store.takes start.store.takes) ++
      ascending (s.store.freeList.drop (freeCount start - diff32 s.store.takes start.store.takes)) =
        s.store.freeList := by
    rw [takes, diff32_self, freeCount, ← free, Nat.sub_zero, List.take_length, List.drop_length]
    exact List.append_nil _
  unfold freedTogether orderFrees
  show { s with store := { s.store with freeList := _ } } = s
  rw [list]

/-- No clip is to yield. -/
def NoneYields (s : State) : Prop :=
  ∀ c k, s.clips.recs.get c = some k → k.yieldable = true → k.st ≠ .closed ∧ k.st ≠ .shipped

theorem yieldables_of_none {s : State} (none' : NoneYields s) : yieldables s = [] := by
  refine clipIds_eq_nil fun c k found => ?_
  cases yields : k.yieldable with
  | false => rfl
  | true =>
    obtain ⟨closed, shipped⟩ := none' c k found yields
    simp [closed, shipped]

theorem yieldN_of_none {s : State} (none' : NoneYields s) (n : Nat) : yieldN n s = s := by
  cases n with
  | zero => rfl
  | succ n =>
    unfold yieldN
    rw [yieldables_of_none none']
    exact ite_self s

theorem yieldRequest_of_none {s : State} (none' : NoneYields s) : yieldRequest s =
    if freeCount s < s.store.reserve then s.modStore fun t => { t with yields := (t.yields + 1) % 2 ^ 32 } else s := by
  let requested := s.modStore fun t => { t with yields := incWrap32 t.yields }
  have stays : yieldN Config.clipCount requested = requested := yieldN_of_none (s := requested) none' _
  unfold yieldRequest
  show (if freeCount s < s.store.reserve then freedTogether s (yieldN Config.clipCount requested) else s) = _
  rw [stays, freedTogether_of_same (start := s) (s := requested) rfl rfl]
  rfl

theorem setPressure_eq (cut : Option Nat) (s : State) : setPressure cut s =
    { s with store := { s.store with pressure := true }, link := (setPressure cut s).link } := by
  unfold setPressure
  dsimp only
  split
  · rfl
  · exact (raise_inner .storePressure _ _).frame

theorem setPressure_raises_ne {j : Fin 18} (cut : Option Nat) (s : State) (other : EventKind.storePressure.index ≠ j)
    (lost : j ≠ EventKind.noticeLost.index) : (setPressure cut s).link.raises.get j = s.link.raises.get j := by
  unfold setPressure
  dsimp only
  split
  · rfl
  · exact raise_raises_ne .storePressure _ _ other lost

theorem refuseTake_of_none {p : Fin 4} {picture : Nat} {s : State} (none' : NoneYields s)
    (empty : s.store.freeList = []) : refuseTake p picture s = { s with
      store := { s.store with
        refused := min (s.store.refused + 1) 65535, pressure := true
        yields := if 0 < s.store.reserve then (s.store.yields + 1) % 2 ^ 32 else s.store.yields }
      chains := Vec.put s.chains p { s.chain p with cut := some picture, cuts := min ((s.chain p).cuts + 1) 65535 }
      link := (refuseTake p picture s).link } ∧
    (refuseTake p picture s).link.raises.get 11 = (s.link.raises.get 11 + 1) % 2 ^ 32 ∧
    (refuseTake p picture s).link.latches.get 11 = true := by
  let counted' := (s.modStore fun t => { t with refused := incSat16 t.refused }).modChain p fun c =>
    { c with cut := some picture, cuts := incSat16 c.cuts }
  let cut := raise .pictureCut (u8 p.1 ++ u8 (s.prog p).run ++ u32 picture ++ u48 (s.prog p).streamOffset
    ++ u16 (counted'.chain p).cuts) counted'
  have kept : Inner [.link] counted' cut := raise_inner .pictureCut _ _
  let pressed := setPressure (some p.1) cut
  have kept' : Inner [.store, .link] counted' pressed := kept.widen.andThen (setPressure_inner _ cut)
  have store' : pressed.store = { counted'.store with pressure := true } := by
    rw [← kept.same .store (by decide)]
    exact congrArg State.store (setPressure_eq (some p.1) cut)
  have none'' : NoneYields pressed := by
    have clips : pressed.clips = s.clips := kept'.same .clips (by decide)
    unfold NoneYields
    rw [clips]
    exact none'
  have same : refuseTake p picture s = if freeCount pressed < pressed.store.reserve then
      pressed.modStore fun t => { t with yields := (t.yields + 1) % 2 ^ 32 } else pressed :=
    yieldRequest_of_none none''
  have link : (refuseTake p picture s).link = pressed.link := by
    rw [same]
    split <;> rfl
  have count : (freeCount pressed < pressed.store.reserve) = (0 < s.store.reserve) := by
    have none' : freeCount pressed = 0 := by
      show pressed.store.freeList.length = 0
      rw [store']
      show s.store.freeList.length = 0
      rw [empty]
      rfl
    rw [none', store']
    rfl
  refine ⟨?_, ?_, ?_⟩
  · let t := refuseTake p picture s
    have frame : t = { s with
        clips := t.clips, sched := t.sched, chains := t.chains, store := t.store, link := t.link } :=
      (refuseTake_inner p picture s).frame
    have part {α : Type} (f : State → α) (reads : ∀ u g, f (u.modStore g) = f u) : f t = f pressed := by
      show f (refuseTake p picture s) = f pressed
      rw [same]
      split
      · exact reads _ _
      · rfl
    have clips : t.clips = s.clips := (part State.clips fun _ _ => rfl).trans (kept'.same .clips (by decide))
    have sched : t.sched = s.sched := (part State.sched fun _ _ => rfl).trans (kept'.same .sched (by decide))
    have chains : t.chains = Vec.put s.chains p
        { s.chain p with cut := some picture, cuts := min ((s.chain p).cuts + 1) 65535 } :=
      (part State.chains fun _ _ => rfl).trans (kept'.same .chains (by decide))
    have store'' : t.store = { s.store with
        refused := min (s.store.refused + 1) 65535, pressure := true
        yields := if 0 < s.store.reserve then (s.store.yields + 1) % 2 ^ 32 else s.store.yields } := by
      show (refuseTake p picture s).store = _
      rw [same]
      simp only [count]
      split <;> simp only [modStore_store, store'] <;> rfl
    refine frame.trans ?_
    rw [clips, sched, chains, store'']
  · rw [link, setPressure_raises_ne _ _ (by decide) (by decide)]
    exact raise_raises .pictureCut _ _ (by decide)
  · rw [link]
    exact ((setPressure_inner _ cut).link (by decide)).latches 11 (raise_latches .pictureCut _ _)

theorem offerUnit_of_cut {p : Fin 4} {u : StreamUnit} {s : State} (cut : (s.chain p).cut = some u.picture) :
    offerUnit p u s = (false, s) := if_pos cut

theorem offerUnit_of_none {p : Fin 4} {u : StreamUnit} {s : State} (whole : (s.chain p).cut ≠ some u.picture)
    (spills : room p s < u.bytes.length) (empty : s.store.freeList = []) :
    offerUnit p u s = (false, refuseTake p u.picture s) := by
  unfold offerUnit
  dsimp only
  rw [if_neg whole, if_neg (Nat.not_le.mpr spills), empty]
  rfl

/-- Settles O37: a unit is cut off, fits, spills over, or is refused. -/
theorem writtenUnitsReadBack : Obligations.WrittenUnitsReadBack := by
  intro p u s off len run t
  refine ⟨offerUnit_of_cut, fun g conserved opened own ends others whole => ?_, fun empty spills whole none' => ?_⟩
  · have last : StandsLast p g s := ⟨conserved, openSeg_mem opened, others⟩
    refine ⟨offerUnit_reads_of_fits last opened own ends whole, fun n rest free reserve => ?_⟩
    intro space room' spills short
    have space' : room p s = 262144 - g.fill := room_of_open opened
    have same := offerUnit_of_spill whole (by rw [space']; exact spills) (by rw [space']; omega) free
    have spilled := spillEnd_spilled (u := u) conserved opened free reserve room' spills short
    have after : t = afterWrite p u (spillEnd p u s) := congrArg Prod.snd same
    have inner := afterWrite_inner p u (spillEnd p u s)
    have chain : t.chain p = (spillEnd p u s).chain p := by rw [after, afterWrite_chain]
    have store : t.store = (spillEnd p u s).store := by rw [after]; exact inner.same .store (by decide)
    have mem : t.mem = (spillEnd p u s).mem := by rw [after]; exact inner.same .mem (by decide)
    have other : n ≠ g.number := fun h => numbers_apart conserved (by rw [free]; exact List.mem_cons_self ..)
      (mem_chains (p := p) (by rw [h]; exact List.mem_map_of_mem last.mem))
    have spilled' : Spilled p u g n rest s { t with progs := (spillEnd p u s).progs } :=
      ⟨chain ▸ spilled.segs, chain ▸ spilled.takes, store.trans spilled.store, mem.trans spilled.mem, spilled.prog⟩
    refine ⟨congrArg Prod.fst same, ?_, spilled'.reads last other own ends room' short, spilled'.store, spilled'.takes, ?_,
      fun a first second => spilled'.memRead_other spills room' first second⟩
    · rw [after, afterWrite_prog, spilled.prog]
    · obtain ⟨f, y, segs, -, fields⟩ := spilled'.segs
      exact ⟨y, by rw [show (t.chain p).segs = _ from segs]; exact List.getLast?_concat .., fields⟩
  · have same := offerUnit_of_none whole spills empty
    have after : t = refuseTake p u.picture s := congrArg Prod.snd same
    obtain ⟨frame, raises, latches⟩ := refuseTake_of_none (p := p) (picture := u.picture) none' empty
    rw [after]
    exact ⟨congrArg Prod.fst same, frame, raises, latches⟩

end Sys2Proof.Machine
end

section
/-! PROOFS. What the end of an event leaves of the chains of segments, and how a run is left (R15 to R18, R111 to R119). -/

namespace Sys2Proof.Machine

set_option Elab.async false

/-! ### Chains at the end of an event -/

/-- A segment after packets are sent and acked: its references, and its pending-send flag, which no packet sets. -/
structure Sends (x y : Segment) : Prop where
  fields : y = { x with refs := y.refs, pendingSend := y.pendingSend }
  sent : x.pendingSend = false → y.pendingSend = false

/-- What of a chain the sending and freeing of segments keeps. -/
structure ChainKeeps (Q : Fin 4 → Chain → Prop) : Prop where
  map : ∀ p c f, (∀ x, Sends x (f x)) → Q p c → Q p { c with segs := c.segs.map f }
  filter : ∀ p c keep, Q p c → Q p { c with segs := c.segs.filter keep }

/-- What of a chain the end of writing and of a drain keeps: the seal, and the pins of clips that close. -/
structure ChainEnds (Q : Fin 4 → Chain → Prop) : Prop where
  seals : ∀ p c keeps, Q p c → Q p { c with segs := c.segs.map (sealedAs keeps) }
  unpins : ∀ p c f, (∀ x, f x = { x with pins := (f x).pins }) → Q p c → Q p { c with segs := c.segs.map f }
  closes : ∀ p c, Q p c → Q p { c with openClips := 0 }

/-- Every chain is as `Q` asks. -/
def ChainsHold (Q : Fin 4 → Chain → Prop) (s : State) : Prop := ∀ p, Q p (s.chain p)

section
variable {Q : Fin 4 → Chain → Prop} {s t : State}

theorem ChainsHold.of_chains (holds : ChainsHold Q s) (same : t.chains = s.chains) : ChainsHold Q t := by
  unfold ChainsHold State.chain at *
  rwa [same]

theorem ChainsHold.modSched (holds : ChainsHold Q s) (f : Scheduler → Scheduler) : ChainsHold Q (s.modSched f) :=
  holds

theorem ChainsHold.modLive (holds : ChainsHold Q s) (p : Fin 4) (f : Live → Live) : ChainsHold Q (s.modLive p f) :=
  holds

theorem ChainsHold.modProg (holds : ChainsHold Q s) (p : Fin 4) (f : Program → Program) :
    ChainsHold Q (s.modProg p f) := holds

theorem ChainsHold.modClips (holds : ChainsHold Q s) (f : ClipLog → ClipLog) : ChainsHold Q (s.modClips f) :=
  holds

theorem ChainsHold.of_inner {ps : List Part} (holds : ChainsHold Q s) (kept : Inner ps s t) (not : Part.chains ∉ ps) :
    ChainsHold Q t := holds.of_chains (kept.same .chains not)

theorem ChainsHold.modSegs {p : Fin 4} {f : Segment → Segment} (holds : ChainsHold Q s)
    (maps : Q p (s.chain p) → Q p { s.chain p with segs := (s.chain p).segs.map f }) :
    ChainsHold Q (modSegs p f s) := by
  intro q
  rw [modSegs_chain]
  split
  next same => exact same ▸ maps (holds p)
  · exact holds q

variable (K : ChainKeeps Q)
include K

theorem addRefs_chains (holds : ChainsHold Q s) (p : Fin 4) (run off len : Nat) : ChainsHold Q (addRefs p run off len s) :=
  holds.modSegs (K.map p _ _ fun x => by split <;> exact ⟨rfl, id⟩)

theorem dropRefs_chains (holds : ChainsHold Q s) (p : Fin 4) (run off len : Nat) :
    ChainsHold Q (dropRefs p run off len s) :=
  holds.modSegs (K.map p _ _ fun x => by split <;> exact ⟨rfl, id⟩)

theorem clearPassed_chains (holds : ChainsHold Q s) (p : Fin 4) : ChainsHold Q (clearPassed p s) := by
  unfold clearPassed
  split
  · exact holds
  · exact holds.modSegs (K.map p _ _ fun x => by split <;> exact ⟨rfl, fun h => by simp [h]⟩)

theorem enterWindow_chains (holds : ChainsHold Q s) (e : Entry) : ChainsHold Q (enterWindow e s) := by
  have adds : ChainsHold Q (placeAdds e s) := by
    unfold placeAdds
    split
    · exact holds
    · exact addRefs_chains K holds _ _ _ _
    · exact addRefs_chains K holds _ _ _ _
  exact adds.modSched _

theorem removeEntries_chains (holds : ChainsHold Q s) (gone : Entry → Bool) : ChainsHold Q (removeEntries gone s) := by
  unfold removeEntries
  suffices folds : ∀ (l : List Entry) t, ChainsHold Q t → ChainsHold Q (l.foldl (fun t e => placeDrops e t) t) from
    (folds (s.sched.window.filter gone) s holds).modSched _
  intro l
  induction l with
  | nil => exact fun t holds => holds
  | cons e es ih =>
    intro t holds
    refine ih _ ?_
    unfold placeDrops
    dsimp only
    split
    · exact holds
    · exact dropRefs_chains K holds _ _ _ _
    · exact dropRefs_chains K holds _ _ _ _

theorem makeRoom_chains (holds : ChainsHold Q s) : ChainsHold Q (makeRoom s) := by
  unfold makeRoom
  split
  · unfold displace
    split
    · exact holds
    · exact ((removeEntries_chains K holds _).modSched _).modSched _
  · exact holds

theorem takeLive_chains (holds : ChainsHold Q s) (l : Fin 6) (p : Fin 4) (len : Nat) :
    ChainsHold Q (takeLive l p len s) := by
  cases cursor : (s.live p).cursor with
  | none => rwa [takeLive_of_no_cursor cursor]
  | some place =>
    rw [takeLive_of_cursor cursor]
    have handed (h : Header) (b : List Byte) := holds.of_inner (handOver_inner l h b s) (by decide)
    have entered (h : Header) (b : List Byte) (e : Entry) :=
      enterWindow_chains K (makeRoom_chains K (handed h b)) e
    exact ((clearPassed_chains K ((entered _ _ _).modLive p _) p).modLive p _).modSched _

theorem staleCheck_chains (holds : ChainsHold Q s) (p : Fin 4) : ChainsHold Q (staleCheck p s) := by
  unfold staleCheck
  split
  · exact holds
  · split
    · exact holds
    · split
      · exact clearPassed_chains K ((holds.modLive p _).modLive p _) p
      · exact holds

theorem takeLabel_chains (holds : ChainsHold Q s) (l : Fin 6) (c : Nat) (k : Clip) :
    ChainsHold Q (takeLabel l c k s) := by
  unfold takeLabel
  refine ChainsHold.of_inner ?_ (labelSent_inner c _ _) (by decide)
  exact enterWindow_chains K ((holds.of_inner (handOver_inner l _ _ s) (by decide)).modSched _) _

theorem takeResend_chains (holds : ChainsHold Q s) (l : Fin 6) (e : Entry) : ChainsHold Q (takeResend l e s) := by
  unfold takeResend
  have handed := holds.of_inner (handOver_inner l (resendPacket e s).1 (resendPacket e s).2 s) (by decide)
  refine ChainsHold.modSched ?_ _
  refine ChainsHold.of_inner ?_ (reportLabel_inner _ _) (by decide)
  exact removeEntries_chains K (enterWindow_chains K handed _) _

theorem takeClip_chains (holds : ChainsHold Q s) (l : Fin 6) (k : ClipCursor) (len : Nat) :
    ChainsHold Q (takeClip l k len s) := by
  unfold takeClip
  refine ChainsHold.of_inner (s := State.modSched _ _) ?_ (modClip_inner _ _ _) (by decide)
  exact (enterWindow_chains K (holds.of_inner (handOver_inner l _ _ s) (by decide)) _).modSched _

theorem freeZero_chains (holds : ChainsHold Q s) : ChainsHold Q (freeZero s) := by
  intro p
  rw [freeZero_chain]
  exact K.filter p _ _ (holds p)

variable (E : ChainEnds Q)
include E

theorem sealOpen_chains (holds : ChainsHold Q s) (p : Fin 4) : ChainsHold Q (sealOpen p s) := by
  obtain ⟨keeps, same⟩ := sealOpen_eq p s
  rw [same]
  exact clearPassed_chains K (holds.modSegs (E.seals p _ keeps)) p

omit K in
theorem unpin_chains (holds : ChainsHold Q s) (p : Fin 4) (numbers : List Nat) : ChainsHold Q (unpin p numbers s) :=
  holds.modSegs (E.unpins p _ _ fun x => by split <;> rfl)

omit K in
theorem setOpenClips_chains (holds : ChainsHold Q s) (p : Fin 4) : ChainsHold Q (setOpenClips p 0 s) := by
  intro q
  unfold setOpenClips
  rw [modChain_chain]
  split
  next same => exact same ▸ E.closes p _ (holds p)
  · exact holds q

omit K in
theorem closeClip_chains (holds : ChainsHold Q s) (c q : Nat) (t : Option Timecode) (o : Nat) :
    ChainsHold Q (closeClip c q t o s) := by
  unfold closeClip
  split
  · exact holds
  next k _ =>
    dsimp only
    have opened : ChainsHold Q (if k.st == .opened then setOpenClips k.program 0 s else s) := by
      split
      · exact setOpenClips_chains E holds _
      · exact holds
    have closed (f : Clip → Clip) (far : List Nat) := (unpin_chains E opened k.program far).of_inner
      (modClip_inner c f _) (by decide)
    have labelled (f : Clip → Clip) (far : List Nat) : ChainsHold Q
        (if k.label == .pending then addLabel c (modClip c f (unpin k.program far
          (if k.st == .opened then setOpenClips k.program 0 s else s))) else modClip c f (unpin k.program far
          (if k.st == .opened then setOpenClips k.program 0 s else s))) := by
      split
      · exact (closed f far).of_inner (addLabel_inner c _) (by decide)
      · exact closed f far
    split
    · exact ((labelled _ _).of_inner (queueShip_inner c _) (by decide)).modClips _
    · exact labelled _ _

omit K in
theorem closeAtIdle_chains (holds : ChainsHold Q s) (p : Fin 4) : ChainsHold Q (closeAtIdle p s) := by
  unfold closeAtIdle
  generalize clipIds _ s = ids
  induction ids generalizing s with
  | nil => exact holds
  | cons c cs ih =>
    refine ih ?_
    dsimp only
    split
    · exact holds
    · exact closeClip_chains E holds _ _ _ _

omit K in
theorem enterIdle_chains (holds : ChainsHold Q s) (p : Fin 4) (cause : IdleCause) :
    ChainsHold Q (enterIdle p cause s) := by
  unfold enterIdle
  exact closeAtIdle_chains E ((holds.modProg p _).of_inner (raise_inner .programIdle _ _)
    (by decide)) p

end

/-- What the end of an event keeps of the chains; where no program drains, nothing is sealed and no clip closes. -/
theorem settle_chains {Q : Fin 4 → Chain → Prop} {s : State} (K : ChainKeeps Q)
    (ends : ∀ p, (s.prog p).st = .draining → ChainEnds Q) (holds : ChainsHold Q s) : ChainsHold Q (settle s) := by
  let Drains (t : State) : Prop := ∀ p, (t.prog p).st = .draining → (s.prog p).st = .draining
  have kept {ps : List Part} {t u : State} (h : Inner ps t u) (not : Part.progs ∉ ps) (drains : Drains t) : Drains u :=
    fun p drain => drains p (by rwa [← prog_of_same h not p])
  have one {ps : List Part} {t u : State} (h : Inner ps t u) (not : Part.progs ∉ ps)
      (both : ChainsHold Q t ∧ Drains t) (chains : ChainsHold Q u) : ChainsHold Q u ∧ Drains u :=
    ⟨chains, kept h not both.2⟩
  refine (settle_holds (P := fun t => ChainsHold Q t ∧ Drains t) ?_ ⟨holds, fun p drain => drain⟩).1
  constructor
  · exact fun t v both => ⟨both.1.of_chains rfl, both.2⟩
  · exact fun l t both _ _ _ => one (sendProbe_inner l t) (by decide) both
      (both.1.of_inner (sendProbe_inner l t) (by decide))
  · exact fun l c k _ t both _ _ _ _ => one (takeLabel_parts l c k t) (by decide) both (takeLabel_chains K both.1 l c k)
  · exact fun l e t both _ _ => one (takeResend_parts l e t) (by decide) both (takeResend_chains K both.1 l e)
  · exact fun l p t both _ _ => one (takeLive_inner l p _ t) (by decide) both (takeLive_chains K both.1 l p _)
  · exact fun l k len t both _ _ _ _ _ => one (takeClip_parts l k len t) (by decide) both (takeClip_chains K both.1 l k len)
  · exact fun p t both => one (staleCheck_inner p t) (by decide) both (staleCheck_chains K both.1 p)
  · intro p t both done
    have E := ends p (both.2 p (draining_of_done done))
    refine ⟨?_, fun q drain => both.2 q ?_⟩
    · rw [endWriting_of_done done]
      exact (sealOpen_chains K E both.1 p).modProg p _
    · rw [endWriting_prog done q] at drain
      split at drain <;> exact drain
  · intro p t both done
    have E := ends p (both.2 p (draining_of_drained done))
    refine ⟨?_, fun q drain => both.2 q ?_⟩
    · rw [completeDrain_of_drained done]
      exact enterIdle_chains E (both.1.modLive p _) p _
    · rw [completeDrain_prog done q] at drain
      split at drain
      · cases drain
      · exact drain
  · exact fun t both _ => one (completeShip_inner t) (by decide) both (both.1.of_inner (completeShip_inner t) (by decide))
  · exact fun t both _ => one (startShip_inner t) (by decide) both (both.1.of_inner (startShip_inner t) (by decide))
  · exact fun t both => one (freeZero_inner t) (by decide) both (freeZero_chains K both.1)

/-! ### Segments and figures of a chain at the end of an event -/

theorem ChainKeeps.of_segments {Q : Fin 4 → Segment → Prop} (sends : ∀ p x y, Sends x y → Q p x → Q p y) :
    ChainKeeps fun p c => ∀ x ∈ c.segs, Q p x where
  map p c f each holds y mem := by
    obtain ⟨x, memX, rfl⟩ := List.mem_map.mp mem
    exact sends p x _ (each x) (holds x memX)
  filter p c keep holds x mem := holds x (List.mem_filter.mp mem).1

theorem ChainEnds.of_segments {Q : Fin 4 → Segment → Prop} (seals : ∀ p x keeps, Q p x → Q p (sealedAs keeps x))
    (unpins : ∀ p x n, Q p x → Q p { x with pins := n }) : ChainEnds fun p c => ∀ x ∈ c.segs, Q p x where
  seals p c keeps holds y mem := by
    obtain ⟨x, memX, rfl⟩ := List.mem_map.mp mem
    exact seals p x keeps (holds x memX)
  unpins p c f each holds y mem := by
    obtain ⟨x, memX, rfl⟩ := List.mem_map.mp mem
    rw [each x]
    exact unpins p x _ (holds x memX)
  closes p c holds := holds

/-- The figures of a chain that no end of an event changes: its cut picture, and its open-clip count of 0. -/
theorem chainKeeps_figures (Q : Fin 4 → Option Nat → Nat → Prop) : ChainKeeps fun p c => Q p c.cut c.openClips :=
  ⟨fun _ _ _ _ holds => holds, fun _ _ _ holds => holds⟩

theorem settle_cut (s : State) (p : Fin 4) : ((settle s).chain p).cut = (s.chain p).cut :=
  settle_chains (Q := fun q c => c.cut = (s.chain q).cut) (chainKeeps_figures fun q cut _ => cut = (s.chain q).cut)
    (fun _ _ => ⟨fun _ _ _ holds => holds, fun _ _ _ _ holds => holds, fun _ _ holds => holds⟩) (fun _ => rfl) p

theorem settle_openClips {s : State} {p : Fin 4} (none' : (s.chain p).openClips = 0) :
    ((settle s).chain p).openClips = 0 :=
  settle_chains (Q := fun q c => q = p → c.openClips = 0) (chainKeeps_figures fun q' _ n => q' = p → n = 0)
    (fun _ _ => ⟨fun _ _ _ holds => holds, fun _ _ _ _ holds => holds, fun _ _ _ _ => rfl⟩)
    (fun _ own => own ▸ none') p rfl

/-- A segment that is SEALED, with its pending-send flag clear where its run is one of `R`. -/
def Shut (R : Nat → Prop) (x : Segment) : Prop := x.isSealed = true ∧ (R x.run → x.pendingSend = false)

theorem Shut.sends {R : Nat → Prop} {x y : Segment} (shut : Shut R x) (sends : Sends x y) : Shut R y := by
  obtain ⟨fields, sent⟩ := sends
  refine ⟨?_, fun own => sent (shut.2 ?_)⟩
  · rw [fields]
    exact shut.1
  · rw [fields] at own
    exact own

theorem Shut.sealedAs {R : Nat → Prop} {x : Segment} (shut : Shut R x) (keeps : Bool) : Shut R (sealedAs keeps x) := by
  unfold Machine.sealedAs
  rw [if_pos shut.1]
  exact shut

/-- What is asked of a segment of program `q` where the runs `R` of program `p` have ended. -/
def RunShut (p : Fin 4) (R : Nat → Prop) (q : Fin 4) (x : Segment) : Prop := q = p → Shut R x

theorem runShut_keeps (p : Fin 4) (R : Nat → Prop) : ChainKeeps fun q c => ∀ x ∈ c.segs, RunShut p R q x :=
  .of_segments fun _ _ _ sends holds own => (holds own).sends sends

theorem runShut_ends (p : Fin 4) (R : Nat → Prop) : ChainEnds fun q c => ∀ x ∈ c.segs, RunShut p R q x :=
  .of_segments (fun _ _ keeps holds own => (holds own).sealedAs keeps) fun _ _ _ holds own => holds own

theorem settle_shut {s : State} {p : Fin 4} {R : Nat → Prop} (shut : ∀ x ∈ (s.chain p).segs, Shut R x) :
    ∀ x ∈ ((settle s).chain p).segs, Shut R x :=
  fun x mem => settle_chains (runShut_keeps p R) (fun _ _ => runShut_ends p R)
    (fun _ x mem own => shut x (own ▸ mem)) p x mem rfl

theorem enterIdle_latches (p : Fin 4) (cause : IdleCause) (s : State) :
    (enterIdle p cause s).link.latches.get 5 = true := by
  rw [enterIdle_link]
  exact raise_latches .programIdle _ _

/-! ### The end of a drain (R16) -/

theorem sealOpen_shut (p : Fin 4) (s : State) : ∀ x ∈ ((sealOpen p s).chain p).segs, x.isSealed = true := by
  obtain ⟨f, mapped, closes⟩ := sealOpen_mapped p s
  intro x mem
  rw [mapped] at mem
  obtain ⟨y, -, rfl⟩ := List.mem_map.mp mem
  exact (closes y).2

/-- Settles O20. -/
theorem drainEndsInIdle : Obligations.DrainEndsInIdle := by
  intro p s drains
  refine ⟨fun goesOn past empty none' => ?_, fun ended cursor => ?_⟩
  · have done : writingDone p s = true := by
      simp [writingDone, drains, goesOn, past, empty, none']
    have shut : ∀ x ∈ ((endWriting p s).chain p).segs, Shut (fun _ => False) x := by
      rw [endWriting_of_done done]
      exact fun x mem => ⟨sealOpen_shut p s x mem, False.elim⟩
    have prog := endWriting_prog done p
    rw [if_pos rfl] at prog
    have later := settle_drainsTo (endWriting p s) p
    refine ⟨_, exec_endOfWriting p s, later.ended (by rw [prog]), ?_, fun x mem => (settle_shut shut x mem).1⟩
    rcases later.state with same | idle
    · exact .inl (same.trans (by rw [prog, drains]))
    · exact .inr idle.2
  · have done : drained p s = true := by
      simp [drained, drains, ended, cursor]
    have prog := completeDrain_prog done p
    have live := completeDrain_live done p
    rw [if_pos rfl] at prog live
    refine ⟨_, exec_drainComplete p s, ?_, settle_no_cursor (by rw [live]), settle_latches ?_⟩
    · rw [settle_prog (by rw [prog]; exact nofun), prog]
    · rw [completeDrain_of_drained done]
      exact enterIdle_latches ..

/-! ### STOP (R15) -/

theorem perform_stop (p : Fin 4) (s : State) : perform (.stop p.1) s =
    (.answer (if (s.prog p).st == .running || (s.prog p).st == .draining then accepted else done), stopProgram p s) := by
  have inRange' : firstFail 1 [isProgram p.1] = 0 := firstFail_of_all (by simp [isProgram]; omega)
  show atOnce (checked [isProgram p.1] s
    (if (s.prog (idx4 p.1)).st == .running || (s.prog (idx4 p.1)).st == .draining then accepted else done,
      stopProgram (idx4 p.1) s)) = _
  rw [checked_of_fields _ _ inRange', idx4_val]
  rfl

theorem perform_abort (p : Fin 4) (s : State) : perform (.abort p.1) s =
    (.answer done, if (s.prog p).st == .idle then s else settle (abortProgram p s)) := by
  have inRange' : firstFail 1 [isProgram p.1] = 0 := firstFail_of_all (by simp [isProgram]; omega)
  show atOnce (checked [isProgram p.1] s
    (done, if (s.prog (idx4 p.1)).st == .idle then s else settle (abortProgram (idx4 p.1) s))) = _
  rw [checked_of_fields _ _ inRange', idx4_val]
  rfl

section
variable {p : Fin 4} {s : State}

theorem stopProgram_of_idle (idle : (s.prog p).st = .idle) : stopProgram p s = s := by
  unfold stopProgram
  rw [idle]

theorem stopProgram_of_armed (armed : (s.prog p).st = .armed) : stopProgram p s = enterIdle p .stoppedArmed s := by
  unfold stopProgram
  rw [armed]

theorem stopProgram_of_draining (drains : (s.prog p).st = .draining) : stopProgram p s = s := by
  unfold stopProgram
  rw [drains]

/-- The program that STOP takes to DRAINING. -/
def drainStarted (p : Fin 4) (s : State) : State :=
  s.modProg p fun g => { g with st := .draining, drainPicture := some s.tb.picture }

theorem stopProgram_of_running (runs : (s.prog p).st = .running) :
    stopProgram p s = runAllocator .programState (drainStarted p s) := by
  unfold stopProgram
  rw [runs]
  rfl

theorem takeToIdle_of_armed (armed : (s.prog p).st = .armed) (cause : IdleCause) :
    takeToIdle p cause s = enterIdle p cause (clearCut p s) := by
  unfold takeToIdle
  rw [armed]

theorem takeToIdle_of_run (runs : (s.prog p).st = .running ∨ (s.prog p).st = .draining) (cause : IdleCause) :
    takeToIdle p cause s = leaveRun p cause s := by
  unfold takeToIdle
  rcases runs with h | h <;> rw [h]

end

/-- A program that does not run has no share of the budget (R68). -/
theorem allocate_share_of_rest {cause : AllocCause} {s : State} {p : Fin 4} (rests : (s.prog p).st ≠ .running) :
    (allocate cause s).shares.get p = 0 := by
  rw [allocate_share]
  exact shareOf_not_running _ _ rests _ _

/-! ### ABORT (R17, R18) -/

/-- A program's run as it is left, before the program enters IDLE (R17). -/
def runStopped (p : Fin 4) (s : State) : State :=
  ((storeAbort p (((s.modCoder p coderStop).modIntake p intakeStop).modFramer p framerStop)).modLive p fun v =>
    { v with cursor := none }).modProg p fun g => { g with writingEnded := true }

theorem leaveRun_eq (p : Fin 4) (cause : IdleCause) (s : State) :
    leaveRun p cause s = enterIdle p cause (runStopped p s) := rfl

section
variable (p : Fin 4) (s : State)

theorem storeAbort_chain : ((storeAbort p s).chain p).cut = none ∧
    ∀ x ∈ ((storeAbort p s).chain p).segs, Shut (· = (s.prog p).run) x := by
  have chain : (storeAbort p s).chain p = { (sealOpen p s).chain p with
      segs := ((sealOpen p s).chain p).segs.map fun g =>
        if g.run == (s.prog p).run then { g with pendingSend := false } else g
      cut := none } := by
    unfold storeAbort clearCut
    rw [modChain_chain, if_pos rfl, modSegs_chain, if_pos rfl]
  rw [chain]
  refine ⟨rfl, fun x mem => ?_⟩
  obtain ⟨y, memY, rfl⟩ := List.mem_map.mp mem
  have closed := sealOpen_shut p s y memY
  split
  · exact ⟨closed, fun _ => rfl⟩
  next other => exact ⟨closed, fun own => absurd (beq_iff_eq.mpr own) other⟩

theorem runStopped_prog : (runStopped p s).prog p = { s.prog p with writingEnded := true } := by
  have prog : (storeAbort p (((s.modCoder p coderStop).modIntake p intakeStop).modFramer p framerStop)).prog p = s.prog p :=
    prog_of_same (storeAbort_inner p _) (by decide) p
  rw [← prog]
  exact modified_prog p (fun g => { g with writingEnded := true }) _

theorem runStopped_chain : ((runStopped p s).chain p).cut = none ∧
    ∀ x ∈ ((runStopped p s).chain p).segs, Shut (· = (s.prog p).run) x := storeAbort_chain p _

/-- The state whose segments the leaving of a run seals. -/
def runHalted : State := ((s.modCoder p coderStop).modIntake p intakeStop).modFramer p framerStop

theorem runStopped_coders : (runStopped p s).coders = (s.modCoder p coderStop).coders :=
  (storeAbort_inner p (runHalted p s)).same .coders (by decide)

theorem runStopped_intakes : (runStopped p s).intakes = ((s.modCoder p coderStop).modIntake p intakeStop).intakes :=
  (storeAbort_inner p (runHalted p s)).same .intakes (by decide)

theorem runStopped_framers : (runStopped p s).framers = (runHalted p s).framers :=
  (storeAbort_inner p (runHalted p s)).same .framers (by decide)

theorem runStopped_coder : (runStopped p s).coder p = coderStop (s.coder p) := by
  have coder : (runStopped p s).coder p = (s.modCoder p coderStop).coder p :=
    congrArg (fun v => v.get p) (runStopped_coders p s)
  rw [coder, modified_coder]

theorem runStopped_intake : (runStopped p s).intake p = intakeStop (s.intake p) := by
  have intake : (runStopped p s).intake p = ((s.modCoder p coderStop).modIntake p intakeStop).intake p :=
    congrArg (fun v => v.get p) (runStopped_intakes p s)
  rw [intake, modified_intake]
  rfl

theorem runStopped_framer : (runStopped p s).framer p = framerStop (s.framer p) := by
  have framer : (runStopped p s).framer p = (runHalted p s).framer p :=
    congrArg (fun v => v.get p) (runStopped_framers p s)
  rw [framer]
  exact (modFramer_framer _ p p framerStop).trans (if_pos rfl)

theorem runStopped_live : ((runStopped p s).live p).cursor = none :=
  congrArg Live.cursor ((modLive_live _ p p fun v => { v with cursor := none }).trans (if_pos rfl))

end

theorem enterIdle_cut (p q : Fin 4) (cause : IdleCause) (s : State) :
    ((enterIdle p cause s).chain q).cut = (s.chain q).cut :=
  enterIdle_chains (Q := fun q c => c.cut = (s.chain q).cut)
    ⟨fun _ _ _ holds => holds, fun _ _ _ _ holds => holds, fun _ _ holds => holds⟩ (fun _ => rfl) p cause q

theorem enterIdle_shut {p : Fin 4} {R : Nat → Prop} {s : State} (cause : IdleCause)
    (shut : ∀ x ∈ (s.chain p).segs, Shut R x) : ∀ x ∈ ((enterIdle p cause s).chain p).segs, Shut R x :=
  fun x mem => enterIdle_chains (runShut_ends p R) (fun _ x mem own => shut x (own ▸ mem)) p cause p x mem rfl

/-- What an abort leaves of a program that has left its run, or was ARMED. -/
structure Aborted (p : Fin 4) (s t : State) : Prop where
  replies : t.link.replies = s.link.replies
  latches : t.link.latches.get 5 = true
  cut : (t.chain p).cut = none

theorem abortProgram_of_rest {p : Fin 4} {s : State} (rests : (s.prog p).st ≠ .running) :
    abortProgram p s = takeToIdle p .aborted s := by
  unfold abortProgram
  exact if_neg (by simpa using rests)

theorem abortProgram_of_running {p : Fin 4} {s : State} (runs : (s.prog p).st = .running) :
    abortProgram p s = runAllocator .programState (takeToIdle p .aborted s) := by
  unfold abortProgram
  exact if_pos (by simpa using runs)

theorem settle_replies (s : State) : (settle s).link.replies = s.link.replies := (settle_inner s).queues.replies

/-- What the end of an event leaves of an ARMED program that was aborted. -/
theorem aborted_of_armed {p : Fin 4} {s : State} (armed : (s.prog p).st = .armed) :
    Aborted p s (settle (abortProgram p s)) ∧
      (settle (abortProgram p s)).prog p = { s.prog p with st := .idle, drainPicture := none } := by
  have aborts : abortProgram p s = enterIdle p .aborted (clearCut p s) := by
    rw [abortProgram_of_rest (by rw [armed]; exact nofun), takeToIdle_of_armed armed]
  have prog : (enterIdle p .aborted (clearCut p s)).prog p = { s.prog p with st := .idle, drainPicture := none } := by
    rw [enterIdle_prog, if_pos rfl]
    rfl
  have cut : ((clearCut p s).chain p).cut = none :=
    congrArg Chain.cut ((modChain_chain s p p fun c => { c with cut := none }).trans (if_pos rfl))
  rw [aborts]
  refine ⟨⟨?_, settle_latches (enterIdle_latches ..), ?_⟩, ?_⟩
  · rw [settle_replies, (enterIdle_inner p .aborted _).queues.replies]
    rfl
  · rw [settle_cut, enterIdle_cut, cut]
  · rw [settle_prog (by rw [prog]; exact nofun), prog]

/-- What the end of an event leaves of a run that was aborted. -/
structure RunLeft (p : Fin 4) (s t : State) : Prop extends Aborted p s t where
  prog : t.prog p = { s.prog p with st := .idle, drainPicture := none, writingEnded := true }
  coder : t.coder p = { s.coder p with list := [], coding := none, cut := none }
  taking : (t.intake p).taking = none
  cursor : (t.live p).cursor = none
  filling : (t.framer p).filling = false
  shut : ∀ x ∈ (t.chain p).segs, Shut (· = (s.prog p).run) x

theorem runLeft_of_run {p : Fin 4} {s t : State} (kept : Inner [.alloc, .sched, .link] (leaveRun p .aborted s) t) :
    RunLeft p s (settle t) := by
  have event := settle_inner t
  have left := enterIdle_inner p .aborted (runStopped p s)
  have prog : t.prog p = { s.prog p with st := .idle, drainPicture := none, writingEnded := true } := by
    rw [prog_of_same kept (by decide), leaveRun_eq, enterIdle_prog, if_pos rfl, runStopped_prog]
  have chain : t.chain p = (leaveRun p .aborted s).chain p := congrArg (fun v => v.get p) (kept.same .chains (by decide))
  have stopped := runStopped_chain p s
  refine ⟨⟨?_, settle_latches ?_, ?_⟩, ?_, ?_, ?_, ?_, ?_, ?_⟩
  · rw [settle_replies, kept.queues.replies, (leaveRun_inner p .aborted s).queues.replies]
  · exact (kept.link (by decide)).latches 5 (enterIdle_latches ..)
  · rw [settle_cut, chain, leaveRun_eq, enterIdle_cut, stopped.1]
  · rw [settle_prog (by rw [prog]; exact nofun), prog]
  · refine (congrArg (fun v => v.get p) (event.same .coders (by decide))).trans ?_
    refine (congrArg (fun v => v.get p) (kept.same .coders (by decide))).trans ?_
    exact (congrArg (fun v => v.get p) (left.same .coders (by decide))).trans (runStopped_coder p s)
  · have intake : t.intake p = intakeStop (s.intake p) :=
      (congrArg (fun v => v.get p) (kept.same .intakes (by decide))).trans
        ((congrArg (fun v => v.get p) (left.same .intakes (by decide))).trans (runStopped_intake p s))
    have after : (settle t).intake p = t.intake p := congrArg (fun v => v.get p) (event.same .intakes (by decide))
    rw [after, intake]
    rfl
  · have live : t.live p = (runStopped p s).live p :=
      (congrArg (fun v => v.get p) (kept.same .lives (by decide))).trans
        (congrArg (fun v => v.get p) (left.same .lives (by decide)))
    exact settle_no_cursor (by rw [live]; exact runStopped_live p s)
  · have framer : t.framer p = framerStop (s.framer p) :=
      (congrArg (fun v => v.get p) (kept.same .framers (by decide))).trans
        ((congrArg (fun v => v.get p) (left.same .framers (by decide))).trans (runStopped_framer p s))
    have after : (settle t).framer p = t.framer p := congrArg (fun v => v.get p) (event.same .framers (by decide))
    rw [after, framer]
    rfl
  · refine settle_shut ?_
    rw [chain, leaveRun_eq]
    exact enterIdle_shut _ stopped.2

/-- What the end of an event leaves of a run that was aborted while RUNNING: its share of the budget is gone. -/
theorem runLeft_of_running {p : Fin 4} {s : State} (runs : (s.prog p).st = .running) :
    RunLeft p s (settle (abortProgram p s)) ∧ (settle (abortProgram p s)).alloc.shares.get p = 0 := by
  have left : takeToIdle p .aborted s = leaveRun p .aborted s := takeToIdle_of_run (.inl runs) .aborted
  rw [abortProgram_of_running runs, left]
  have rests : ((leaveRun p .aborted s).prog p).st ≠ .running := by
    rw [leaveRun_eq, enterIdle_prog, if_pos rfl]
    exact nofun
  refine ⟨runLeft_of_run (runAllocator_inner .programState _), ?_⟩
  have alloc : (settle (runAllocator .programState (leaveRun p .aborted s))).alloc = allocate .programState (leaveRun p .aborted s) :=
    ((settle_inner _).same .alloc (by decide)).trans (runAllocator_alloc _ _)
  rw [alloc, allocate_share_of_rest rests]

theorem runLeft_of_draining {p : Fin 4} {s : State} (drains : (s.prog p).st = .draining) :
    RunLeft p s (settle (abortProgram p s)) := by
  have left : takeToIdle p .aborted s = leaveRun p .aborted s := takeToIdle_of_run (.inr drains) .aborted
  rw [abortProgram_of_rest (by rw [drains]; exact nofun), left]
  exact runLeft_of_run (.refl _ _)

theorem replied_replies (tag kind : Byte) (a : Answer) (t : State) : (replied tag kind a t).link.replies =
    t.link.replies ++ [.made ⟨tag, kind, a.status, a.detail, a.detail2, a.body⟩] := rfl

section
variable {tag : Byte} {p : Fin 4} {s t : State}

theorem exec_stop_free (free : Free s) : exec (.stop tag p.1) s = .next (replied tag 7
    (if (s.prog p).st == .running || (s.prog p).st == .draining then accepted else done) (stopProgram p (counted s))) :=
  exec_replied (exec_stop tag p.1 s) free (perform_stop p (counted s))

theorem exec_abort_free (free : Free s) : exec (.abort tag p.1) s = .next (replied tag 8 done
    (if (s.prog p).st == .idle then counted s else settle (abortProgram p (counted s)))) :=
  exec_replied (exec_abort tag p.1 s) free (perform_abort p (counted s))

/-- STOP and ABORT of a program that is IDLE (R18). -/
theorem stopAbort_of_idle (free : Free s) (idle : (s.prog p).st = .idle) :
    exec (.stop tag p.1) s = .next (answered tag 7 .done 0 0 [] s) ∧
      exec (.abort tag p.1) s = .next (answered tag 8 .done 0 0 [] s) := by
  rw [exec_stop_free free, exec_abort_free free, stopProgram_of_idle (s := counted s) idle, idle]
  exact ⟨rfl, rfl⟩

theorem stop_of_draining (free : Free s) (drains : (s.prog p).st = .draining) :
    exec (.stop tag p.1) s = .next (answered tag 7 .accepted 0 0 [] s) := by
  rw [exec_stop_free free, stopProgram_of_draining (s := counted s) drains, drains]
  rfl

theorem stop_of_armed (free : Free s) (armed : (s.prog p).st = .armed) : ∃ t, exec (.stop tag p.1) s = .next t ∧
    t.link.replies = s.link.replies ++ [.made ⟨tag, 7, .done, 0, 0, []⟩] ∧
    t.prog p = { s.prog p with st := .idle, drainPicture := none } ∧
    t.link.raises.get 5 = (s.link.raises.get 5 + 1) % 2 ^ 32 ∧ t.link.latches.get 5 = true := by
  refine ⟨_, exec_stop_free free, ?_, ?_, ?_, ?_⟩ <;> rw [stopProgram_of_armed (s := counted s) armed, armed]
  · rw [replied_replies, (enterIdle_inner p .stoppedArmed (counted s)).queues.replies]
    rfl
  · refine (enterIdle_prog ..).trans (if_pos rfl)
  · refine (congrArg (fun l => l.raises.get 5) (enterIdle_link p .stoppedArmed (counted s))).trans ?_
    exact raise_raises .programIdle _ _ (by decide)
  · exact enterIdle_latches p .stoppedArmed (counted s)

theorem stop_of_running (free : Free s) (runs : (s.prog p).st = .running) : ∃ t, exec (.stop tag p.1) s = .next t ∧
    t.link.replies = s.link.replies ++ [.made ⟨tag, 7, .accepted, 0, 0, []⟩] ∧
    t.prog p = { s.prog p with st := .draining, drainPicture := some s.tb.picture } ∧ t.alloc.shares.get p = 0 ∧
    t.alloc.cause = some .programState ∧ t.coders = s.coders ∧ t.intakes = s.intakes ∧ t.chains = s.chains := by
  have drained := modified_prog p (fun g => { g with st := .draining, drainPicture := some s.tb.picture }) (counted s)
  have kept := runAllocator_inner .programState (drainStarted p (counted s))
  have rests : ((drainStarted p (counted s)).prog p).st ≠ .running := by
    rw [drainStarted, modified_prog]
    exact nofun
  refine ⟨_, exec_stop_free free, ?_, ?_, ?_, ?_, ?_, ?_, ?_⟩ <;>
    rw [stopProgram_of_running (s := counted s) runs, runs]
  · rw [replied_replies, kept.queues.replies]
    rfl
  · exact (prog_of_same kept (by decide) p).trans drained
  · exact (congrArg (fun a => a.shares.get p) (runAllocator_alloc ..)).trans (allocate_share_of_rest rests)
  · exact congrArg (fun a => a.cause) (runAllocator_alloc ..)
  · exact kept.same .coders (by decide)
  · exact kept.same .intakes (by decide)
  · exact kept.same .chains (by decide)

theorem aborted_replies (left : Aborted p (counted s) t) : (replied tag 8 done t).link.replies =
    s.link.replies ++ [.made ⟨tag, 8, .done, 0, 0, []⟩] := by
  rw [replied_replies, left.replies]
  rfl

theorem abort_of_armed (free : Free s) (armed : (s.prog p).st = .armed) : ∃ t, exec (.abort tag p.1) s = .next t ∧
    t.link.replies = s.link.replies ++ [.made ⟨tag, 8, .done, 0, 0, []⟩] ∧
    t.prog p = { s.prog p with st := .idle, drainPicture := none } ∧ (t.chain p).cut = none ∧
    t.link.latches.get 5 = true := by
  have taken := exec_abort_free (tag := tag) (p := p) free
  rw [armed] at taken
  have ends := aborted_of_armed (s := counted s) armed
  generalize settle (abortProgram p (counted s)) = t at taken ends
  obtain ⟨left, prog⟩ := ends
  exact ⟨_, taken, aborted_replies left, prog, left.cut, left.latches⟩

end

/-- Settles O19. -/
theorem stopAndAbortLeaveTheRun : Obligations.StopAndAbortLeaveTheRun := by
  intro tag p s free
  dsimp only
  refine ⟨stopAbort_of_idle free, stop_of_draining free, stop_of_armed free, stop_of_running free, abort_of_armed free,
    fun runs => ?_⟩
  have ends : RunLeft p (counted s) (settle (abortProgram p (counted s))) ∧
      ((s.prog p).st = .running → (settle (abortProgram p (counted s))).alloc.shares.get p = 0) := by
    rcases runs with runs | drains
    · have left := runLeft_of_running (s := counted s) runs
      exact ⟨left.1, fun _ => left.2⟩
    · exact ⟨runLeft_of_draining (s := counted s) drains, fun other => absurd (drains.symm.trans other) nofun⟩
  obtain ⟨left, share⟩ := ends
  have busy : ((s.prog p).st == .idle) = false := by rcases runs with h | h <;> rw [h] <;> rfl
  have taken := exec_abort_free (tag := tag) (p := p) free
  rw [busy] at taken
  generalize settle (abortProgram p (counted s)) = t at taken left share
  exact ⟨_, taken, aborted_replies left.toAborted, left.prog, left.coder, left.taking, left.cursor, left.filling, left.cut,
    left.shut, share, left.latches⟩

end Sys2Proof.Machine
end

section
/-! PROOFS. Marking in (R177 to R179) and the mark lines (R185, R186). -/

namespace Sys2Proof.Machine

set_option Elab.async false

/-! ### The checks of a mark in (R177) -/

/-- Clip `c` is OPEN and of program `p`. -/
def OpenAt (p : Fin 4) (s : State) (c : Fin 64) : Prop := ∃ k, s.clips.recs.get c = some k ∧ k.program = p ∧ k.st = .opened

section
variable {p : Fin 4} {s : State} {c : Fin 64}

theorem find?_finRange_first {n : Nat} {f : Fin n → Bool} {c : Fin n} (holds : f c = true) (first : ∀ d < c, f d = false) :
    (List.finRange n).find? f = some c := by
  rw [← Fin.find?_eq_find?_finRange, Fin.find?_eq_some_iff]
  exact ⟨holds, fun d lower => by simp [first d lower]⟩

theorem clipPasses_open : clipPasses (fun k => k.program == p && k.st == .opened) s c = true ↔ OpenAt p s c := by
  simp [clipPasses_iff, OpenAt]

theorem openClipOf_of_first (opens : OpenAt p s c) (first : ∀ d < c, ¬OpenAt p s d) : openClipOf p s = some c.1 := by
  have found := find?_finRange_first (clipPasses_open.mpr opens) fun d lower =>
    Bool.eq_false_iff.mpr (mt clipPasses_open.mp (first d lower))
  unfold openClipOf
  rw [clipIds_head?, found]
  rfl

theorem openClipOf_of_none (none' : ∀ c, ¬OpenAt p s c) : openClipOf p s = none := by
  unfold openClipOf
  rw [clipIds_eq_nil]
  · rfl
  · intro c k found
    exact Bool.eq_false_iff.mpr fun passes => none' c (clipPasses_open.mp (clipPasses_iff.mpr ⟨k, found, passes⟩))

theorem lowestFree_of_first (free : s.clips.recs.get c = none) (first : ∀ d < c, s.clips.recs.get d ≠ none) :
    lowestFree s = c.1 := by
  have found := find?_finRange_first (f := fun c => (s.clips.recs.get c).isNone) (Option.isNone_iff_eq_none.mpr free)
    fun d lower => by simpa [Option.isSome_iff_ne_none] using first d lower
  unfold lowestFree
  rw [List.headD_eq_head?_getD, List.head?_map, List.head?_filter, found]
  rfl

theorem clipIds_full_iff : (clipIds (fun _ => true) s).length = Config.clipCount ↔ ∀ c, s.clips.recs.get c ≠ none := by
  have passes (c : Fin 64) : clipPasses (fun _ => true) s c = true ↔ s.clips.recs.get c ≠ none := by
    rw [clipPasses_iff, Option.ne_none_iff_exists']
    simp
  rw [clipIds_eq, List.length_map, show Config.clipCount = (List.finRange 64).length from List.length_finRange.symm,
    List.length_filter_eq_length_iff]
  exact ⟨fun all c => (passes c).mp (all c (List.mem_finRange c)), fun all c _ => (passes c).mpr (all c)⟩

theorem markInRefusal_of_open (opens : OpenAt p s c) (first : ∀ d < c, ¬OpenAt p s d) :
    markInRefusal p s = some ⟨.clipOpen, c.1⟩ := by
  unfold markInRefusal
  rw [openClipOf_of_first opens first]

theorem markInRefusal_of_rest (none' : ∀ c, ¬OpenAt p s c) (rests : (s.prog p).st ≠ .running) :
    markInRefusal p s = some ⟨.wrongState, p.1⟩ := by
  unfold markInRefusal
  rw [openClipOf_of_none none']
  exact if_pos (by simpa using rests)

theorem markInRefusal_of_full (none' : ∀ c, ¬OpenAt p s c) (runs : (s.prog p).st = .running)
    (full : ∀ c, s.clips.recs.get c ≠ none) : markInRefusal p s = some ⟨.clipLogFull, 64⟩ := by
  unfold markInRefusal
  rw [openClipOf_of_none none', runs]
  exact if_pos (clipIds_full_iff.mpr full)

theorem markInRefusal_of_free (none' : ∀ c, ¬OpenAt p s c) (runs : (s.prog p).st = .running)
    (free : s.clips.recs.get c = none) : markInRefusal p s = none := by
  unfold markInRefusal
  rw [openClipOf_of_none none', runs]
  exact if_neg (mt clipIds_full_iff.mp fun full => full c free)

end

/-! ### The place of the in point (R178) -/

section
variable (p : Fin 4) (q : Nat) (s : State)

/-- The in point at a head. -/
def pointAt (m : Mark) (trimmed : Bool) : InPoint :=
  ⟨m.picture, m.offset, headLabel p (s.prog p).run m.offset s, trimmed⟩

variable {p q s}

theorem placeIn_of_found {m : Mark} (found : (tailHeads p (s.prog p).run s).find? (fun m => m.picture == q) = some m) :
    placeIn p q s = pointAt p s m false := by
  unfold placeIn
  dsimp only
  rw [found]
  rfl

theorem placeIn_of_nil (heads : tailHeads p (s.prog p).run s = []) :
    placeIn p q s = ⟨s.tb.picture, (s.prog p).streamOffset, s.tb.label, newer32 s.tb.picture q⟩ := by
  unfold placeIn
  dsimp only
  rw [heads]
  rfl

theorem placeIn_of_older {oldest : Mark} {rest : List Mark} (heads : tailHeads p (s.prog p).run s = oldest :: rest)
    (absent : ∀ m ∈ tailHeads p (s.prog p).run s, m.picture ≠ q) (older : newer32 oldest.picture q = true) :
    placeIn p q s = pointAt p s oldest true := by
  have lost : (tailHeads p (s.prog p).run s).find? (fun m => m.picture == q) = none :=
    List.find?_eq_none.mpr fun m mem => by simpa using absent m mem
  rw [heads] at lost
  unfold placeIn
  dsimp only
  rw [heads, lost]
  dsimp only
  rw [if_pos older]
  rfl

theorem getLast?_filter_of_last {α : Type} {f : α → Bool} {before after : List α} {m : α} (holds : f m = true)
    (last : ∀ x ∈ after, f x = false) : ((before ++ m :: after).filter f).getLast? = some m := by
  have rest : after.filter f = [] := List.filter_eq_nil_iff.mpr fun x mem => by simp [last x mem]
  rw [List.filter_append, List.filter_cons_of_pos holds, rest, List.getLast?_append]
  rfl

theorem placeIn_of_newer {oldest m : Mark} {rest before after : List Mark}
    (heads : tailHeads p (s.prog p).run s = oldest :: rest)
    (absent : ∀ m ∈ tailHeads p (s.prog p).run s, m.picture ≠ q) (older : newer32 oldest.picture q = false)
    (parts : tailHeads p (s.prog p).run s = before ++ m :: after) (holds : newer32 q m.picture = true)
    (last : ∀ x ∈ after, newer32 q x.picture = false) : placeIn p q s = pointAt p s m false := by
  have lost : (tailHeads p (s.prog p).run s).find? (fun m => m.picture == q) = none :=
    List.find?_eq_none.mpr fun m mem => by simpa using absent m mem
  have newest := getLast?_filter_of_last (f := fun m => newer32 q m.picture) (before := before) holds last
  rw [← parts, heads] at newest
  rw [heads] at lost
  unfold placeIn
  dsimp only
  rw [heads, lost]
  dsimp only
  rw [if_neg (by rw [older]; exact nofun), newest]
  rfl

end

/-! ### A mark in that is taken (R177 to R179) -/

/-- The record that a mark in leaves OPEN. -/
def clipMarked (p : Fin 4) (q : Nat) (yieldable : Bool) (source : ClipSource) (s : State) : Clip :=
  let point := placeIn p q s
  { st := .opened, program := p, run := (s.prog p).run, creation := s.clips.nextCreation, source := source,
    inPicture := point.picture, inTimecode := point.timecode, inOffset := point.offset, outPicture := none,
    outTimecode := none, outOffset := none, requestedOut := none, shipAtClose := false, text := [], tags := [],
    rating := 0, yieldable := yieldable, trimmed := point.trimmed, revision := 0, label := .pending,
    shipCursor := none, pinned := (pinFrom p (s.prog p).run point.offset s).1 }

/-- The state with the clip of a mark in opened and its range pinned, before CLIP_TRIMMED is raised. -/
def markPlaced (p : Fin 4) (k : Clip) (s : State) : State :=
  (setOpenClips p 1 (pinFrom p (s.prog p).run k.inOffset s).2).modClips fun l =>
    { l with
      recs := Vec.put l.recs (Fin.ofNat 64 (lowestFree s)) (some k)
      nextCreation := nextCreationAfter l.nextCreation
      created := incWrap32 l.created
      trims := if k.trimmed then incSat16 l.trims else l.trims }

theorem markIn_eq (p : Fin 4) (picture : Nat) (yieldable : Bool) (source : ClipSource) (s : State) :
    markIn p picture yieldable source s =
      let k := clipMarked p (clampIn s p picture) yieldable source s
      if k.trimmed then raise .clipTrimmed (u8 (lowestFree s) ++ u32 (clampIn s p picture) ++ u32 k.inPicture) (markPlaced p k s)
      else markPlaced p k s := rfl

section
variable (p : Fin 4) (picture : Nat) (yieldable : Bool) (source : ClipSource) (s : State)

theorem markIn_clips : (markIn p picture yieldable source s).clips =
    (markPlaced p (clipMarked p (clampIn s p picture) yieldable source s) s).clips := by
  rw [markIn_eq]
  dsimp only
  split
  · exact (raise_inner ..).same .clips (by decide)
  · rfl

theorem markIn_chains : (markIn p picture yieldable source s).chains =
    (markPlaced p (clipMarked p (clampIn s p picture) yieldable source s) s).chains := by
  rw [markIn_eq]
  dsimp only
  split
  · exact (raise_inner ..).same .chains (by decide)
  · rfl

theorem markIn_raises : (markIn p picture yieldable source s).link.raises.get 13 =
    if (clipMarked p (clampIn s p picture) yieldable source s).trimmed then (s.link.raises.get 13 + 1) % 2 ^ 32
    else s.link.raises.get 13 := by
  rw [markIn_eq]
  dsimp only
  split
  · exact raise_raises .clipTrimmed _ _ (by decide)
  · rfl

theorem markIn_counted : markIn p picture yieldable source (counted s) = counted (markIn p picture yieldable source s) := by
  have clip : clipMarked p (clampIn (counted s) p picture) yieldable source (counted s) =
    clipMarked p (clampIn s p picture) yieldable source s := rfl
  have placed (k : Clip) : markPlaced p k (counted s) = counted (markPlaced p k s) := rfl
  have lowest : lowestFree (counted s) = lowestFree s := rfl
  have clamped : clampIn (counted s) p picture = clampIn s p picture := rfl
  rw [markIn_eq, markIn_eq, clip, lowest, clamped]
  dsimp only
  rw [placed, raise_counted]
  split <;> rfl

end

section
variable (p : Fin 4) (k : Clip) (s : State)

theorem pinFrom_chain (lo : Nat) : ((pinFrom p (s.prog p).run lo s).2.chain p) =
    { s.chain p with segs := (s.chain p).segs.map fun g =>
        if g.run == (s.prog p).run && pinMeets lo g then { g with pins := g.pins + 1 } else g } := by
  refine (modSegs_chain p p _ s).trans ?_
  rw [if_pos rfl]

theorem markPlaced_openClips : ((markPlaced p k s).chain p).openClips = 1 :=
  congrArg Chain.openClips ((modChain_chain _ p p fun c => { c with openClips := 1 }).trans (if_pos rfl))

theorem markPlaced_segs : ((markPlaced p k s).chain p).segs = (s.chain p).segs.map fun g =>
    if g.run == (s.prog p).run && pinMeets k.inOffset g then { g with pins := g.pins + 1 } else g := by
  have chain : (markPlaced p k s).chain p = { (pinFrom p (s.prog p).run k.inOffset s).2.chain p with openClips := 1 } :=
    (modChain_chain _ p p fun c => { c with openClips := 1 }).trans (if_pos rfl)
  rw [chain, pinFrom_chain]

end

theorem pinMeets_iff (lo : Nat) (g : Segment) : pinMeets lo g = true ↔
    (g.isSealed = true ∧ 0 < g.fill ∧ lo < g.first + g.fill) ∨ (g.isSealed = false ∧ lo < g.first + 262144) := by
  unfold pinMeets segEnd Config.segmentBytes
  cases g.isSealed <;> simp

/-- A clip begins at a head of the tail. -/
theorem clipMarked_of_point {p : Fin 4} {q : Nat} {yieldable : Bool} {source : ClipSource} {s : State} {m : Mark}
    {trimmed : Bool} (at' : placeIn p q s = pointAt p s m trimmed) :
    ((clipMarked p q yieldable source s).inPicture = m.picture ∧ (clipMarked p q yieldable source s).inOffset = m.offset ∧
      (clipMarked p q yieldable source s).inTimecode = headLabel p (s.prog p).run m.offset s) ∧
      (clipMarked p q yieldable source s).trimmed = trimmed := by
  unfold clipMarked
  rw [at']
  exact ⟨⟨rfl, rfl, rfl⟩, rfl⟩

theorem markInFields (p : Fin 4) (selector value yieldable : Nat) :
    firstFail 1 [isProgram p.1, isFlag selector && (selector == 0 || decide (value ≤ 65535)), isFlag yieldable] =
      if 1 < selector ∨ (selector = 1 ∧ 65535 < value) then 2 else if 1 < yieldable then 3 else 0 := by
  have range : (isFlag selector && (selector == 0 || decide (value ≤ 65535))) = false ↔
      1 < selector ∨ (selector = 1 ∧ 65535 < value) := by
    rw [Bool.and_eq_false_iff, isFlag_eq_false, Bool.or_eq_false_iff, le_eq_false, beq_eq_false_iff_ne]
    omega
  rw [firstFail_cons _ (isProgram_eq_false p.1), if_neg (by omega), firstFail_cons _ range,
    firstFail_cons _ (isFlag_eq_false yieldable)]
  rfl

theorem recs_markIn {p : Fin 4} {picture : Nat} {yieldable : Bool} {source : ClipSource} {s : State} {c : Fin 64}
    (lowest : lowestFree s = c.1) : (markIn p picture yieldable source s).clips.recs =
      Vec.put s.clips.recs c (some (clipMarked p (clampIn s p picture) yieldable source s)) := by
  rw [markIn_clips]
  unfold markPlaced
  rw [lowest, Fin.ofNat_val_eq_self]
  rfl

/-- The values of the MARK_IN reply. -/
theorem markInBody_markIn {p : Fin 4} {picture : Nat} {yieldable : Bool} {source : ClipSource} {s : State} {c : Fin 64}
    (lowest : lowestFree s = c.1) (k : Clip) (marked : clipMarked p (clampIn s p picture) yieldable source s = k) :
    markInBody c.1 (markIn p picture yieldable source s) =
      u8 c.1 ++ u32 k.creation ++ u32 k.inPicture ++ u48 k.inOffset ++ flag k.trimmed := by
  have found : clipAt c.1 (markIn p picture yieldable source s) = some k := by
    rw [clipAt_val, recs_markIn lowest, marked, Vec_get_put, if_pos rfl]
  unfold markInBody
  rw [found]

/-- Settles O48. -/
theorem markInOpensAClip : Obligations.MarkInOpensAClip := by
  intro tag p selector value yieldable s free opens field ok call asked start latest q heads begins
  have fields := markInFields p selector value yieldable
  have number := idx4_val p
  have taken := exec_markIn tag p.1 selector value yieldable s
  have refusal (fits : ok) {r : MarkRefusal} (refused : markInRefusal p s = some r) :
      exec call s = .next (answered tag 38 r.status r.detail 0 [] s) := by
    refine answers_checked (a := refuse r.status r.detail) free taken rfl (fields.trans fits) ?_
    dsimp only
    rw [number, show markInRefusal p (counted s) = some r from refused]
  refine ⟨fun n outside => ?_, fun fails => answers_outOfRange free taken rfl fields fails,
    fun fits c opened first => refusal fits (markInRefusal_of_open opened first),
    fun fits none' rests => refusal fits (markInRefusal_of_rest none' rests),
    fun fits none' runs full => refusal fits (markInRefusal_of_full none' runs full),
    fun fits none' runs c absent first => ?_⟩
  · have outside' : isProgram n = false := (isProgram_eq_false n).mpr outside
    refine answers_outOfRange free (exec_markIn tag n selector value yieldable s) rfl (k := 1) ?_ (by decide)
    rw [firstFail_cons _ (isProgram_eq_false n), if_pos outside]
  · have picture : selectedIn selector value s = asked := rfl
    have lowest := lowestFree_of_first absent first
    let k := clipMarked p q (flagOf yieldable) .host s
    have marked : clipMarked p (clampIn s p asked) (flagOf yieldable) .host s = k := rfl
    have clips : (markIn p asked (flagOf yieldable) .host s).clips = (markPlaced p k s).clips := markIn_clips ..
    have chain : (markIn p asked (flagOf yieldable) .host s).chain p = (markPlaced p k s).chain p :=
      congrArg (fun v => v.get p) (markIn_chains ..)
    refine ⟨markIn p asked (flagOf yieldable) .host s, k, ?_, (markIn_inner p asked (flagOf yieldable) .host s).frame, ?_, ?_,
      rfl, rfl, rfl, rfl, rfl, rfl, rfl, rfl, rfl, rfl, rfl, rfl, fun m found => ?_, fun absent' oldest rest headed => ⟨fun older => ?_,
      fun older before m after parts newer last => ?_⟩, fun none'' => ?_, ?_, ?_⟩
    · refine answers_checked (a := doneWith (u8 c.1 ++ u32 k.creation ++ u32 k.inPicture ++ u48 k.inOffset ++ flag k.trimmed))
        free taken rfl (fields.trans fits) ?_
      dsimp only
      rw [number, show markInRefusal p (counted s) = none from markInRefusal_of_free none' runs absent]
      dsimp only
      rw [markIn_counted, show lowestFree (counted s) = c.1 from lowest]
      have body := markInBody_markIn (picture := asked) lowest k marked
      exact congrArg (fun b => (doneWith b, counted (markIn p asked (flagOf yieldable) .host s))) body
    · rw [clips]
      unfold markPlaced
      rw [lowest, Fin.ofNat_val_eq_self]
      rfl
    · exact markIn_raises ..
    · have place := clipMarked_of_point (yieldable := flagOf yieldable) (source := .host) (placeIn_of_found found)
      have named : m.picture = q := by simpa using List.find?_some found
      exact ⟨place.1, place.1.1.trans named, place.2⟩
    · exact clipMarked_of_point (placeIn_of_older headed absent' older)
    · exact clipMarked_of_point (placeIn_of_newer headed absent' older parts newer last)
    · have place := placeIn_of_nil (q := q) none''
      have figures : k.inPicture = (placeIn p q s).picture ∧ k.inOffset = (placeIn p q s).offset ∧
        k.inTimecode = (placeIn p q s).timecode ∧ k.trimmed = (placeIn p q s).trimmed := ⟨rfl, rfl, rfl, rfl⟩
      rw [place] at figures
      exact figures
    · rw [chain, markPlaced_openClips]
    · rw [chain, markPlaced_segs]
      refine List.map_congr_left fun g _ => ?_
      simp only [Bool.and_eq_true, beq_iff_eq, pinMeets_iff]

/-! ### The mark lines (R185, R186) -/

section
variable {m : Fin 2} {p : Fin 4} {s : State}

theorem takePress_of_unbound (unbound : (s.line m).binding = none) :
    takePress m s = s.modLine m fun k => { k with refused := incSat16 k.refused } := by
  unfold takePress
  rw [unbound]

/-- The state with an edge on a line counted as a press. -/
def pressTaken (m : Fin 2) (s : State) : State :=
  s.modLine m fun k => { k with lastPress := some s.tb.pacing, presses := incSat16 k.presses }

theorem pressAccepted_iff (k : MarkLine) (pacing : Nat) :
    pressAccepted k pacing = true ↔ ∀ a, k.lastPress = some a → 200 < diff32 pacing a := by
  unfold pressAccepted
  cases k.lastPress <;> simp

theorem takePress_of_bounce {a : Nat} (bound : (s.line m).binding = some p.1) (last : (s.line m).lastPress = some a)
    (soon : diff32 s.tb.pacing a ≤ 200) : takePress m s = s.modLine m fun k => { k with bounces := incSat16 k.bounces } := by
  unfold takePress
  rw [bound]
  exact if_neg fun accepted => Nat.not_lt.mpr soon ((pressAccepted_iff ..).mp accepted a last)

theorem takePress_of_accepted (bound : (s.line m).binding = some p.1)
    (accepted : ∀ a, (s.line m).lastPress = some a → 200 < diff32 s.tb.pacing a) :
    takePress m s = actOnPress m p (pressTaken m s) := by
  unfold takePress
  rw [bound]
  refine (if_pos ((pressAccepted_iff ..).mpr accepted)).trans ?_
  rw [idx4_val]
  rfl

theorem actOnPress_of_open {c : Nat} (opens : openClipOf p s = some c) :
    actOnPress m p s = settle (markOut p c none s) := by
  unfold actOnPress
  rw [opens]

theorem actOnPress_of_refused {r : MarkRefusal} (none' : openClipOf p s = none) (refused : markInRefusal p s = some r) :
    actOnPress m p s = s.modLine m fun k => { k with refused := incSat16 k.refused } := by
  unfold actOnPress
  rw [none', refused]

theorem actOnPress_of_taken (none' : openClipOf p s = none) (taken : markInRefusal p s = none) : actOnPress m p s =
    markIn p (diff32 s.tb.picture (s.line m).preRoll) (s.line m).yieldable (if m = 0 then .m0 else .m1) s := by
  unfold actOnPress
  rw [none', taken]

theorem modified_line (m : Fin 2) (f : MarkLine → MarkLine) (s : State) : (s.modLine m f).line m = f (s.line m) :=
  (modLine_line s m m f).trans (if_pos rfl)

theorem modLine_modLine (m : Fin 2) (f g : MarkLine → MarkLine) (s : State) :
    (s.modLine m f).modLine m g = s.modLine m fun k => g (f k) := by
  have folds : Vec.put (Vec.put s.lines m (f (s.lines.get m))) m (g ((Vec.put s.lines m (f (s.lines.get m))).get m)) =
      Vec.put s.lines m (g (f (s.lines.get m))) := by
    rw [Vec_get_put_same]
    exact Vector.set_set ..
  exact congrArg (fun v => { s with lines := v }) folds

end

theorem setMarkLineFields (m : Fin 2) (binding : Option Nat) (roll yieldable : Nat) :
    firstFail 1 [decide (m.1 ≤ 1), (binding.map isProgram).getD true, decide (roll ≤ 1000), isFlag yieldable] =
      if 3 < binding.getD 0 then 2 else if 1000 < roll then 3 else if 1 < yieldable then 4 else 0 := by
  have range : (binding.map isProgram).getD true = false ↔ 3 < binding.getD 0 := by
    cases binding with
    | none => simp
    | some n => exact isProgram_eq_false n
  rw [firstFail_cons _ (le_eq_false m.1 1), if_neg (by omega), firstFail_cons _ range, firstFail_cons _ (le_eq_false roll 1000),
    firstFail_cons _ (isFlag_eq_false yieldable)]
  rfl

end Sys2Proof.Machine
end

section
/-! PROOFS. A clip that neither ships nor waits to ship keeps its record through the end of an event, but for its label's
state: marking out, the period end and an accepted press (R180 to R186). -/

namespace Sys2Proof.Machine

set_option Elab.async false

/-! ### A clip closes (R183) -/

/-- The clip log with a clip's record changed. -/
def recChanged (c : Nat) (f : Clip → Clip) (l : ClipLog) : ClipLog :=
  { l with recs := Vec.put l.recs (Fin.ofNat 64 c) ((l.recs.get (Fin.ofNat 64 c)).map f) }

/-- The clip log with a clip at the ship queue's tail. -/
def shipQueuedIn (c : Nat) (l : ClipLog) : ClipLog :=
  { recChanged c (fun k => { k with st := .queued, shipCursor := none }) l with shipQueue := l.shipQueue ++ [c] }

theorem modClip_clips (c : Nat) (f : Clip → Clip) (s : State) : (modClip c f s).clips = recChanged c f s.clips := rfl

theorem addLabel_clips (c : Nat) (s : State) : (addLabel c s).clips = s.clips := (addLabel_inner c s).same .clips (by decide)

/-- The record that a closing at `q` leaves, whose range ends at `out`; `far` are the segments no longer pinned. -/
def closedAs (q : Nat) (t : Option Timecode) (out : Nat) (far : List Nat) (k : Clip) : Clip :=
  { k with
    st := .closed, outPicture := some q, outTimecode := t, outOffset := some out, requestedOut := none
    shipAtClose := false, pinned := k.pinned.filter fun n => !far.contains n }

section
variable {c q : Nat} {t : Option Timecode} {o : Nat} {k : Clip} {s : State}

theorem closeClip_of_none (absent : clipAt c s = none) : closeClip c q t o s = s := by
  unfold closeClip
  rw [absent]

/-- The clip log that a closing leaves. -/
theorem closeClip_clips (found : clipAt c s = some k) :
    let l := recChanged c (closedAs q t (max k.inOffset o) (pinsBeyond k (max k.inOffset o) s)) s.clips
    (closeClip c q t o s).clips =
      if k.shipAtClose then { shipQueuedIn c l with shipQueued := incWrap32 l.shipQueued } else l := by
  intro l
  have labelled {u : State} (shut : u.clips = l) : (if k.label == .pending then addLabel c u else u).clips = l := by
    split
    · rw [addLabel_clips, shut]
    · exact shut
  have shut : (modClip c (closedAs q t (max k.inOffset o) (pinsBeyond k (max k.inOffset o) s))
      (unpin k.program (pinsBeyond k (max k.inOffset o) s)
        (if k.st == .opened then setOpenClips k.program 0 s else s))).clips = l := by
    rw [modClip_clips, (unpin_inner ..).same .clips (by decide)]
    split <;> rfl
  unfold closeClip
  rw [found]
  dsimp only
  split
  · exact congrArg (fun l => { shipQueuedIn c l with shipQueued := incWrap32 l.shipQueued }) (labelled shut)
  · exact labelled shut

/-- The chains that a closing leaves. -/
theorem closeClip_chains_eq (found : clipAt c s = some k) (q : Nat) (t : Option Timecode) (o : Nat) :
    (closeClip c q t o s).chains = (unpin k.program (pinsBeyond k (max k.inOffset o) s)
      (if k.st == .opened then setOpenClips k.program 0 s else s)).chains := by
  have labelled {u : State} : (if k.label == .pending then addLabel c u else u).chains = u.chains := by
    split
    · exact (addLabel_inner c u).same .chains (by decide)
    · rfl
  unfold closeClip
  rw [found]
  dsimp only
  split
  · exact labelled
  · exact labelled

theorem recChanged_ne {d : Fin 64} (other : Fin.ofNat 64 c ≠ d) (f : Clip → Clip) (l : ClipLog) :
    (recChanged c f l).recs.get d = l.recs.get d := by
  show (Vec.put _ _ _).get d = _
  rw [Vec_get_put, if_neg other]

theorem closeClip_recs_ne {d : Fin 64} (other : Fin.ofNat 64 c ≠ d) :
    (closeClip c q t o s).clips.recs.get d = s.clips.recs.get d := by
  cases found : clipAt c s with
  | none => rw [closeClip_of_none found]
  | some k =>
    rw [closeClip_clips found]
    split
    · exact (recChanged_ne other _ _).trans (recChanged_ne other _ _)
    · exact recChanged_ne other _ _

theorem closeClip_shipQueue : ∀ i ∈ (closeClip c q t o s).clips.shipQueue, i ∈ s.clips.shipQueue ∨ i = c := by
  cases found : clipAt c s with
  | none => rw [closeClip_of_none found]; exact fun i mem => .inl mem
  | some k =>
    rw [closeClip_clips found]
    split
    · intro i mem
      rcases List.mem_append.mp mem with before | new
      · exact .inl before
      · exact .inr (List.mem_singleton.mp new)
    · exact fun i mem => .inl mem

theorem closeClip_of_plain {c : Fin 64} (found : s.clips.recs.get c = some k) (plain : k.shipAtClose = false) :
    (closeClip c.1 q t o s).clips.recs.get c =
        some (closedAs q t (max k.inOffset o) (pinsBeyond k (max k.inOffset o) s) k) ∧
      (closeClip c.1 q t o s).clips.shipQueue = s.clips.shipQueue := by
  rw [closeClip_clips (c := c.1) (by rw [clipAt_val]; exact found), plain]
  refine ⟨?_, rfl⟩
  show (Vec.put _ _ _).get c = _
  rw [Fin.ofNat_val_eq_self, Vec_get_put, if_pos rfl, found]
  rfl

end

/-! ### A clip at rest -/

/-- Clip `c` has record `k` but for the state of its label; it neither ships nor waits to ship, and its program does not
drain. -/
structure Rests (c : Fin 64) (k : Clip) (s : State) : Prop where
  record : ∃ l, s.clips.recs.get c = some { k with label := l }
  queue : ∀ i ∈ s.clips.shipQueue, Fin.ofNat 64 i ≠ c
  cursor : ∀ x, s.sched.clipCursor = some x → Fin.ofNat 64 x.clip ≠ c
  program : (s.prog k.program).st ≠ .draining

section
variable {c : Fin 64} {k : Clip} {s t : State}

theorem Rests.of_parts (rests : Rests c k s) (clips : t.clips = s.clips)
    (cursor : t.sched.clipCursor = s.sched.clipCursor) (progs : t.progs = s.progs) : Rests c k t := by
  obtain ⟨record, queue, cursor', program⟩ := rests
  refine ⟨by rw [clips]; exact record, by rw [clips]; exact queue, by rw [cursor]; exact cursor', ?_⟩
  unfold State.prog
  rw [progs]
  exact program

theorem Rests.of_inner {ps : List Part} (rests : Rests c k s) (inner : Inner ps s t)
    (apart : Part.clips ∉ ps ∧ Part.sched ∉ ps ∧ Part.progs ∉ ps) : Rests c k t :=
  rests.of_parts (inner.same .clips apart.1) (by rw [inner.same .sched apart.2.1]) (inner.same .progs apart.2.2)

/-- A change of another clip, or of the state of the clip's label. -/
theorem Rests.of_modClip (rests : Rests c k s) (i : Nat) (f : Clip → Clip)
    (keeps : Fin.ofNat 64 i = c → ∀ m, ∃ l, f m = { m with label := l }) : Rests c k (modClip i f s) := by
  obtain ⟨⟨l, record⟩, queue, cursor, program⟩ := rests
  refine ⟨?_, queue, cursor, program⟩
  rw [modClip_recs, record]
  split
  next same =>
    obtain ⟨l', change⟩ := keeps same { k with label := l }
    exact ⟨l', congrArg some change⟩
  · exact ⟨l, rfl⟩

theorem Rests.labelSent (rests : Rests c k s) (i r : Nat) : Rests c k (labelSent i r s) := by
  refine rests.of_modClip i _ fun _ m => ?_
  split
  · exact ⟨.sent, rfl⟩
  · exact ⟨m.label, rfl⟩

theorem Rests.reportLabel (rests : Rests c k s) (e : Entry) : Rests c k (reportLabel e s) := by
  unfold Machine.reportLabel
  split
  · exact rests.labelSent _ _
  · exact rests
  · exact rests

theorem Rests.closeClip (rests : Rests c k s) {i : Nat} (other : Fin.ofNat 64 i ≠ c) (q : Nat) (tc : Option Timecode) (o : Nat) :
    Rests c k (closeClip i q tc o s) := by
  obtain ⟨record, queue, cursor, program⟩ := rests
  have only := closeClip_sched i q tc o s
  refine ⟨by rw [closeClip_recs_ne other]; exact record, fun j mem => ?_, ?_, ?_⟩
  · rcases closeClip_shipQueue j mem with before | new
    · exact queue j before
    · exact new ▸ other
  · unfold OnlyLabels at only
    rw [only]
    exact cursor
  · rwa [prog_of_same (closeClip_inner i q tc o s) (by decide)]

/-- The clips of a program other than the clip's own close as it enters IDLE. -/
theorem Rests.closeAtIdle (rests : Rests c k s) {p : Fin 4} (other : p ≠ k.program) : Rests c k (closeAtIdle p s) := by
  unfold Machine.closeAtIdle
  have apart : ∀ i ∈ clipIds (fun k => k.program == p && (k.st == .opened || k.st == .closing)) s, Fin.ofNat 64 i ≠ c := by
    intro i mem same
    obtain ⟨d, rfl, m, found, passes⟩ := mem_clipIds.mp mem
    obtain ⟨l, record⟩ := rests.record
    rw [Fin.ofNat_val_eq_self] at same
    rw [← same, found] at record
    obtain rfl := Option.some.inj record
    simp only [Bool.and_eq_true, beq_iff_eq] at passes
    exact other passes.1.symm
  generalize clipIds _ s = ids at apart
  induction ids generalizing s with
  | nil => exact rests
  | cons i is ih =>
    refine ih ?_ fun j mem => apart j (List.mem_cons_of_mem _ mem)
    dsimp only
    split
    · exact rests
    · exact rests.closeClip (apart i List.mem_cons_self) _ _ _

theorem Rests.completeDrain (rests : Rests c k s) {p : Fin 4} (done : drained p s = true) : Rests c k (completeDrain p s) := by
  have drains := draining_of_drained done
  have other : p ≠ k.program := fun same => rests.program (same ▸ drains)
  have idle : (s.progs.get k.program).st ≠ .draining → Rests c k ((s.modLive p fun v => { v with cursor := none }).modProg p
      fun g => { g with st := .idle, drainPicture := none }) := fun _ =>
    ⟨rests.record, rests.queue, rests.cursor, by
      rw [modProg_prog, if_neg other]
      exact rests.program⟩
  rw [completeDrain_of_drained done]
  unfold enterIdle
  exact ((idle rests.program).of_inner (raise_inner .programIdle _ _) (by decide)).closeAtIdle other

theorem Rests.endWriting (rests : Rests c k s) {p : Fin 4} (done : writingDone p s = true) : Rests c k (endWriting p s) := by
  have drains := draining_of_done done
  have other : p ≠ k.program := fun same => rests.program (same ▸ drains)
  have sealed := rests.of_inner (sealOpen_inner p s) (by decide)
  rw [endWriting_of_done done]
  exact ⟨sealed.record, sealed.queue, sealed.cursor, by
    rw [modProg_prog, if_neg other]
    exact sealed.program⟩

theorem Rests.takeResend (rests : Rests c k s) (l : Fin 6) (e : Entry) : Rests c k (takeResend l e s) := by
  have sent (h : Header) (b : List Byte) (new : Entry) : Rests c k (removeEntries (fun x => x.send == e.send)
      (enterWindow new (handOver l h b s))) := by
    have sched : (removeEntries (fun x => x.send == e.send) (enterWindow new (handOver l h b s))).sched.clipCursor =
        s.sched.clipCursor := by
      rw [removeEntries_sched, enterWindow_sched, handOver_sched]
    have inner := ((handOver_inner l h b s).widen (ps := [.overfull, .paths, .sched, .chains])).andThen ((enterWindow_inner new _).andThen
      (removeEntries_inner (fun x => x.send == e.send) _))
    exact rests.of_parts (inner.same .clips (by decide)) sched (inner.same .progs (by decide))
  exact ((sent ..).reportLabel _).of_parts rfl rfl rfl

theorem Rests.completeShip (rests : Rests c k s) : Rests c k (completeShip s) := by
  unfold Machine.completeShip
  split
  · exact rests
  next x cursor =>
    have other := rests.cursor x cursor
    have idle : Rests c k (s.modSched fun d => { d with clipCursor := none }) :=
      ⟨rests.record, rests.queue, fun _ h => absurd h nofun, rests.program⟩
    dsimp only
    split
    · exact idle
    · have shipped := idle.of_modClip x.clip (fun r => { r with st := .shipped, shipCursor := some x.out }) fun same =>
        absurd same other
      have counted' : Rests c k ((modClip x.clip (fun r => { r with st := .shipped, shipCursor := some x.out })
          (s.modSched fun d => { d with clipCursor := none })).modClips fun l =>
            { l with shippedCount := incWrap32 l.shippedCount }) :=
        ⟨shipped.record, shipped.queue, shipped.cursor, shipped.program⟩
      exact counted'.of_inner (raise_inner .clipShipped _ _) (by decide)

theorem Rests.startShip (rests : Rests c k s) : Rests c k (startShip s) := by
  unfold Machine.startShip
  split
  · exact rests
  next i rest waits =>
    have other : Fin.ofNat 64 i ≠ c := rests.queue i (waits ▸ List.mem_cons_self)
    have left : Rests c k (s.modClips fun l => { l with shipQueue := rest }) :=
      ⟨rests.record, fun j mem => rests.queue j (waits ▸ List.mem_cons_of_mem _ mem), rests.cursor, rests.program⟩
    dsimp only
    split
    · exact left
    next m _ =>
      have started := left.of_modClip i (fun k => { k with st := .shipping, shipCursor := some k.inOffset }) fun same =>
        absurd same other
      exact ⟨started.record, started.queue, fun x h => by cases h; exact other, started.program⟩

theorem takeLive_clips (l : Fin 6) (p : Fin 4) (len : Nat) (s : State) : (takeLive l p len s).clips = s.clips := by
  cases cursor : (s.live p).cursor with
  | none => rw [takeLive_of_no_cursor cursor]
  | some place =>
    rw [takeLive_of_cursor cursor]
    have served (run next : Nat) (u : State) : (liveServed p run next u).clips = u.clips :=
      (moveCursor_inner p run next u).same .clips (by decide)
    rw [served, (enterWindow_inner _ _).same .clips (by decide), (makeRoom_inner _).same .clips (by decide)]
    exact (handOver_inner l _ _ s).same .clips (by decide)

theorem restKeeps (c : Fin 64) (k : Clip) : SettleKeeps (Rests c k) := by
  constructor
  · exact fun s v rests => rests.of_parts rfl rfl rfl
  · intro l s rests _ _ _
    refine rests.of_parts ((sendProbe_inner l s).same .clips (by decide)) ?_ ((sendProbe_inner l s).same .progs (by decide))
    rw [sendProbe_sched]
  · intro l i m rest s rests _ _ _ _
    let e : Entry := labelEntry l i m s
    let queued := (handOver l (labelHeader i m false) (labelBody i m) s).modSched fun d => { d with labelQueue := d.labelQueue.tail }
    have sent : Rests c k (enterWindow e queued) := by
      have inner := (((handOver_inner l (labelHeader i m false) (labelBody i m) s).widen (ps := [.overfull, .paths, .sched, .chains])).andThen
        (modSched_inner' _ fun d => { d with labelQueue := d.labelQueue.tail })).andThen (enterWindow_inner e _)
      refine rests.of_parts (inner.same .clips (by decide)) ?_ (inner.same .progs (by decide))
      rw [enterWindow_sched]
      rfl
    exact sent.labelSent i m.revision
  · exact fun l e s rests _ _ => rests.takeResend l e
  · intro l p s rests _ _
    have inner := takeLive_inner l p (liveLength p s) s
    refine rests.of_parts (takeLive_clips ..) ?_ (inner.same .progs (by decide))
    cases cursor : (s.live p).cursor with
    | none => rw [takeLive_of_no_cursor cursor]
    | some place =>
      rw [takeLive_sched cursor]
      dsimp only
      rw [makeRoom_sched]
      rfl
  · intro l x len s rests _ _ cursor _ _
    have other := rests.cursor x cursor
    let e : Entry := clipEntry l x len s
    have sent (h : Header) (b : List Byte) : Rests c k ((enterWindow e (handOver l h b s)).modSched fun d =>
        { d with clipCursor := some { x with next := x.next + len }, bucket := d.bucket - packetBits len }) := by
      have inner := ((handOver_inner l h b s).widen (ps := [.overfull, .paths, .sched, .chains])).andThen (enterWindow_inner e _)
      have entered : Rests c k (enterWindow e (handOver l h b s)) := by
        refine rests.of_parts (inner.same .clips (by decide)) ?_ (inner.same .progs (by decide))
        rw [enterWindow_sched]
        rfl
      exact ⟨entered.record, entered.queue, fun y h => by cases h; exact other, entered.program⟩
    exact (sent _ _).of_modClip x.clip (fun c => { c with shipCursor := some (x.next + len) }) fun same => absurd same other
  · exact fun p s rests => rests.of_inner (staleCheck_inner p s) (by decide)
  · exact fun p s rests done => rests.endWriting done
  · exact fun p s rests done => rests.completeDrain done
  · exact fun s rests _ => rests.completeShip
  · exact fun s rests _ => rests.startShip
  · exact fun s rests => rests.of_inner (freeZero_inner s) (by decide)

theorem Rests.settle (rests : Rests c k s) : Rests c k (settle s) := settle_holds (restKeeps c k) rests

theorem Rests.closes (rests : Rests c k s) (plain : k.shipAtClose = false) (q : Nat) (tc : Option Timecode) (o : Nat) :
    ∃ far, Rests c (closedAs q tc (max k.inOffset o) far k) (Machine.closeClip c.1 q tc o s) := by
  obtain ⟨⟨l, record⟩, queue, cursor, program⟩ := rests
  have only := closeClip_sched c.1 q tc o s
  obtain ⟨closed, kept⟩ := closeClip_of_plain (q := q) (t := tc) (o := o) record plain
  refine ⟨pinsBeyond { k with label := l } (max k.inOffset o) s, ⟨l, closed⟩, by rw [kept]; exact queue, ?_, ?_⟩
  · unfold OnlyLabels at only
    rw [only]
    exact cursor
  · rw [prog_of_same (closeClip_inner c.1 q tc o s) (by decide)]
    exact program

end

/-! ### MARK_OUT (R180 to R183) -/

/-- A clip neither ships nor waits to ship. -/
def StaysPut (c : Fin 64) (s : State) : Prop :=
  (∀ i ∈ s.clips.shipQueue, i % 64 ≠ c.1) ∧ ∀ x, s.sched.clipCursor = some x → x.clip % 64 ≠ c.1

theorem ofNat_ne_of_mod {i : Nat} {c : Fin 64} (other : i % 64 ≠ c.1) : Fin.ofNat 64 i ≠ c :=
  fun same => other (by rw [← same]; rfl)

section
variable {c : Fin 64} {k : Clip} {p : Fin 4} {s : State}

theorem StaysPut.rests (stays : StaysPut c s) (found : s.clips.recs.get c = some k) (runs : (s.prog k.program).st ≠ .draining) :
    Rests c k s :=
  ⟨⟨k.label, found⟩, fun i mem => ofNat_ne_of_mod (stays.1 i mem), fun x cursor => ofNat_ne_of_mod (stays.2 x cursor), runs⟩

/-- A mark out at a picture whose period goes on leaves the clip CLOSING. -/
theorem markOut_of_waits (rests : Rests c k s) (found : s.clips.recs.get c = some k) {n : Option Nat}
    (waits : newer32 s.tb.picture (clampOut p k.inPicture n s) = false) :
    Rests c { k with st := .closing, requestedOut := some (clampOut p k.inPicture n s) } (markOut p c.1 n s) ∧
      ((markOut p c.1 n s).chain p).openClips = 0 := by
  have out : markOut p c.1 n s = modClip c.1 (fun k' => { k' with
      st := .closing, requestedOut := some (clampOut p k.inPicture n s) }) (setOpenClips p 0 s) := by
    unfold markOut
    rw [clipAt_val, found]
    exact if_neg (by rw [waits]; exact nofun)
  rw [out]
  refine ⟨⟨⟨k.label, ?_⟩, rests.queue, rests.cursor, rests.program⟩, ?_⟩
  · rw [modClip_recs, Fin.ofNat_val_eq_self, if_pos rfl]
    show (s.clips.recs.get c).map _ = _
    rw [found]
    rfl
  · exact congrArg Chain.openClips ((modChain_chain s p p fun v => { v with openClips := 0 }).trans (if_pos rfl))

theorem closeClip_openClips (found : s.clips.recs.get c = some k) (opened : k.st = .opened) (q : Nat) (tc : Option Timecode)
    (o : Nat) : ((closeClip c.1 q tc o s).chain k.program).openClips = 0 := by
  have chain : (closeClip c.1 q tc o s).chain k.program = _ :=
    congrArg (fun v => v.get k.program) (closeClip_chains_eq (c := c.1) (by rw [clipAt_val]; exact found) ..)
  have unpinned (ns : List Nat) (u : State) : ((unpin k.program ns u).chain k.program).openClips = (u.chain k.program).openClips := by
    unfold unpin
    rw [modSegs_chain, if_pos rfl]
  have zero : ((setOpenClips k.program 0 s).chain k.program).openClips = 0 :=
    congrArg Chain.openClips ((modChain_chain s _ _ fun v => { v with openClips := 0 }).trans (if_pos rfl))
  rw [chain]
  refine (unpinned _ _).trans ?_
  rw [opened]
  exact zero

theorem markOut_of_ended (rests : Rests c k s) (found : s.clips.recs.get c = some k) (opened : k.st = .opened)
    (plain : k.shipAtClose = false) {n : Option Nat}
    (ended : newer32 s.tb.picture (clampOut p k.inPicture n s) = true) : ∃ far,
    let q := clampOut p k.inPicture n s
    Rests c (closedAs q (pictureLabel p k.run q s) (max k.inOffset (endedOut p k.run q s)) far k) (markOut p c.1 n s) ∧
      ((markOut p c.1 n s).chain k.program).openClips = 0 := by
  have out : markOut p c.1 n s = closeClip c.1 (clampOut p k.inPicture n s)
      (pictureLabel p k.run (clampOut p k.inPicture n s) s) (endedOut p k.run (clampOut p k.inPicture n s) s) s := by
    unfold markOut
    rw [clipAt_val, found]
    exact if_pos ended
  obtain ⟨far, closed⟩ := rests.closes plain (clampOut p k.inPicture n s)
    (pictureLabel p k.run (clampOut p k.inPicture n s) s) (endedOut p k.run (clampOut p k.inPicture n s) s)
  rw [out]
  exact ⟨far, closed, closeClip_openClips found opened ..⟩

end

/-- The marks of a run are those given. -/
def MarksAre (M : Fin 4 → Nat → List Mark) (p : Fin 4) (v : Chain) : Prop :=
  ∀ run, marksOf (v.segs.filter fun g => g.run == run) = M p run

theorem marksOf_map {f : Segment → Segment} (keeps : ∀ x, (f x).run = x.run ∧ (f x).marks = x.marks) (segs : List Segment)
    (run : Nat) : marksOf ((segs.map f).filter fun g => g.run == run) = marksOf (segs.filter fun g => g.run == run) := by
  unfold marksOf
  rw [List.filter_map, List.flatMap_map]
  have runs : ((fun g : Segment => g.run == run) ∘ f) = fun g => g.run == run :=
    funext fun x => congrArg (· == run) (keeps x).1
  rw [runs]
  exact congrArg (fun h => List.flatMap h _) (funext fun x => (keeps x).2)

theorem sealedAs_marks (keeps : Bool) (x : Segment) : (sealedAs keeps x).marks = x.marks := by
  unfold sealedAs
  split <;> rfl

theorem marksAre_ends (M : Fin 4 → Nat → List Mark) : ChainEnds (MarksAre M) where
  seals := fun p v keeps holds run => (marksOf_map (f := sealedAs keeps) (fun x => ⟨(sealedAs_keeps keeps x).1.run, sealedAs_marks keeps x⟩) _ run).trans (holds run)
  unpins := fun p v f pins holds run => (marksOf_map (fun x => by rw [pins x]; exact ⟨rfl, rfl⟩) _ run).trans (holds run)
  closes := fun _ _ holds => holds

theorem closeClip_soundLookup (i q : Nat) (tc : Option Timecode) (o : Nat) (s : State) (p : Fin 4) (run picture : Nat) :
    soundLookup p run picture (closeClip i q tc o s) = soundLookup p run picture s := by
  have same := closeClip_chains (marksAre_ends fun p run => marksOf (runSegs p run s)) (s := s) (fun _ _ => rfl) i q tc o p run
  unfold soundLookup
  exact congrArg (fun l => (l.find? fun m => m.kind == .sound && m.picture == picture).map Mark.offset) same

/-! ### The period end (R182) -/

/-- A CLOSING clip of a program whose out picture's period has ended. -/
def endsNow (p : Fin 4) (now : Nat) (k : Clip) : Bool :=
  k.program == p && k.st == .closing && k.requestedOut.any fun q => newer32 now q

/-- One clip's part of the period end. -/
def closeEnded (p : Fin 4) (t : State) (c : Nat) : State :=
  (clipAt c t).elim t fun k => closeClip c (k.requestedOut.getD k.inPicture) (some t.tb.endedLabel)
    ((soundLookup p k.run (k.requestedOut.getD k.inPicture) t).getD (t.prog p).streamOffset) t

theorem periodEnd_eq (p : Fin 4) (s : State) :
    periodEnd p s = (clipIds (endsNow p s.tb.picture) s).foldl (closeEnded p) s := by
  unfold periodEnd
  refine congr (congrArg (fun f => List.foldl f s) (funext fun t => funext fun c => ?_))
    (congrArg (fun ok => clipIds ok s) (funext fun k => ?_))
  · unfold closeEnded
    cases clipAt c t <;> rfl
  · unfold endsNow
    cases k.requestedOut with
    | none => rw [Option.any_none]
    | some q => rw [Option.any_some]

theorem clipIds_nodup (ok : Clip → Bool) (s : State) : (clipIds ok s).Nodup := by
  rw [clipIds_eq]
  exact ((List.nodup_finRange 64).filter _).map Fin.val_injective

/-- The figures that the period end of a clip reads, where other clips of its program have closed before it. -/
structure ClosesAlike (p : Fin 4) (s t : State) : Prop where
  lookup : ∀ run q, soundLookup p run q t = soundLookup p run q s
  offset : (t.prog p).streamOffset = (s.prog p).streamOffset
  tb : t.tb = s.tb

section
variable {c : Fin 64} {k : Clip} {p : Fin 4} {s t : State}

theorem closeEnded_alike (alike : ClosesAlike p s t) (i : Nat) : ClosesAlike p s (closeEnded p t i) := by
  unfold closeEnded
  cases clipAt i t with
  | none => exact alike
  | some m =>
    have inner := closeClip_inner i (m.requestedOut.getD m.inPicture) (some t.tb.endedLabel)
      ((soundLookup p m.run (m.requestedOut.getD m.inPicture) t).getD (t.prog p).streamOffset) t
    refine ⟨fun run q => ?_, ?_, ?_⟩
    · exact (closeClip_soundLookup ..).trans (alike.lookup run q)
    · exact (congrArg Program.streamOffset (prog_of_same inner (by decide) p)).trans alike.offset
    · exact (inner.same .tb (by decide)).trans alike.tb

theorem closeEnded_of_found {i : Nat} {m : Clip} (found : clipAt i t = some m) : closeEnded p t i =
    closeClip i (m.requestedOut.getD m.inPicture) (some t.tb.endedLabel)
      ((soundLookup p m.run (m.requestedOut.getD m.inPicture) t).getD (t.prog p).streamOffset) t := by
  unfold closeEnded
  rw [found]
  rfl

theorem Rests.closeEnded (rests : Rests c k t) {i : Nat} (other : Fin.ofNat 64 i ≠ c) : Rests c k (closeEnded p t i) := by
  unfold Machine.closeEnded
  cases clipAt i t with
  | none => exact rests
  | some m => exact rests.closeClip other _ _ _

theorem closeEnded_others {ids : List Nat} (others : ∀ i ∈ ids, Fin.ofNat 64 i ≠ c) (rests : Rests c k t)
    (alike : ClosesAlike p s t) : Rests c k (ids.foldl (closeEnded p) t) ∧ ClosesAlike p s (ids.foldl (closeEnded p) t) := by
  induction ids generalizing t with
  | nil => exact ⟨rests, alike⟩
  | cons i is ih =>
    exact ih (fun j mem => others j (List.mem_cons_of_mem _ mem)) (rests.closeEnded (others i List.mem_cons_self))
      (closeEnded_alike alike i)

theorem clipIds_ne {ok : Clip → Bool} {i : Nat} (mem : i ∈ clipIds ok s) (other : i ≠ c.1) : Fin.ofNat 64 i ≠ c := by
  obtain ⟨d, rfl, -⟩ := mem_clipIds.mp mem
  rw [Fin.ofNat_val_eq_self]
  exact fun same => other (congrArg Fin.val same)

theorem periodEnd_of_waits (rests : Rests c k s) (found : s.clips.recs.get c = some k)
    (waits : endsNow p s.tb.picture k = false) : Rests c k (periodEnd p s) := by
  rw [periodEnd_eq]
  refine (closeEnded_others (s := s) (fun i mem => clipIds_ne mem fun same => ?_) rests ⟨fun _ _ => rfl, rfl, rfl⟩).1
  obtain ⟨d, rfl, m, at', passes⟩ := mem_clipIds.mp mem
  rw [Fin.ext same, found] at at'
  rw [← Option.some.inj at', waits] at passes
  cases passes

theorem periodEnd_of_ended (rests : Rests c k s) (found : s.clips.recs.get c = some k) (plain : k.shipAtClose = false)
    {q : Nat} (requested : k.requestedOut = some q) (ended : endsNow p s.tb.picture k = true) : ∃ far,
    Rests c (closedAs q (some s.tb.endedLabel)
      (max k.inOffset ((soundLookup p k.run q s).getD (s.prog p).streamOffset)) far k) (periodEnd p s) := by
  have mem : c.1 ∈ clipIds (endsNow p s.tb.picture) s := mem_clipIds.mpr ⟨c, rfl, k, found, ended⟩
  have unique := clipIds_nodup (endsNow p s.tb.picture) s
  obtain ⟨before, after, parts⟩ := List.append_of_mem mem
  rw [parts] at unique
  have apart := List.nodup_append.mp unique
  have inList {i : Nat} (mem : i ∈ before ++ c.1 :: after) (other : i ≠ c.1) : Fin.ofNat 64 i ≠ c :=
    clipIds_ne (parts ▸ mem) other
  obtain ⟨rests', alike⟩ := closeEnded_others (s := s) (t := s) (ids := before) (p := p)
    (fun i mem => inList (List.mem_append_left _ mem) (apart.2.2 i mem c.1 List.mem_cons_self)) rests ⟨fun _ _ => rfl, rfl, rfl⟩
  have closes : ∃ far, Rests c (closedAs q (some s.tb.endedLabel)
      (max k.inOffset ((soundLookup p k.run q s).getD (s.prog p).streamOffset)) far k)
      (closeEnded p (before.foldl (closeEnded p) s) c.1) := by
    obtain ⟨l, record⟩ := rests'.record
    rw [closeEnded_of_found (clipAt_val c _ ▸ record), ← alike.tb, ← alike.offset, ← alike.lookup]
    have named : ({ k with label := l } : Clip).requestedOut.getD k.inPicture = q := by rw [requested]; rfl
    rw [named]
    exact rests'.closes plain _ _ _
  obtain ⟨far, closed⟩ := closes
  rw [periodEnd_eq, parts, List.foldl_append, List.foldl_cons]
  refine ⟨far, (closeEnded_others (s := s) (fun i mem => inList (List.mem_append_right _ (List.mem_cons_of_mem _ mem)) fun same => ?_) closed
    (closeEnded_alike alike c.1)).1⟩
  exact (List.nodup_cons.mp apart.2.1).1 (same ▸ mem)

end

theorem settle_line (s : State) (m : Fin 2) : (settle s).line m = s.line m :=
  congrArg (fun v => v.get m) ((settle_inner s).same .lines (by decide))

/-- The out picture that MARK_OUT asks for, at a RUNNING program (R180). -/
theorem clampOut_of_running {p : Fin 4} {s : State} (runs : (s.prog p).st = .running) (inPicture selector value : Nat)
    (flagged : selector ≤ 1) : clampOut p inPicture (selectedOut selector value) s =
      (let v := if selector = 1 ∨ newer32 value s.tb.picture = true then s.tb.picture else value
       if selector = 0 ∧ newer32 inPicture v = true then inPicture else v) := by
  have latest : latestPicture p s = s.tb.picture := by
    unfold latestPicture
    rw [runs]
  have selectors : selector = 0 ∨ selector = 1 := by omega
  unfold clampOut selectedOut
  rw [latest]
  rcases selectors with zero | one
  · simp [zero]
  · simp [one]

theorem clampOut_now {p : Fin 4} {s : State} (runs : (s.prog p).st = .running) (inPicture : Nat) :
    clampOut p inPicture none s = s.tb.picture := by
  unfold clampOut latestPicture
  rw [runs]

/-- The reply to MARK_OUT. -/
theorem markOutBody_of_found {c : Fin 64} {q : Nat} {k : Clip} {s : State} (found : s.clips.recs.get c = some k) :
    markOutBody c.1 q s = u8 c.1 ++ u32 q ++ u8 k.st.code := by
  unfold markOutBody
  rw [clipAt_val, found]
  rfl

section
variable {tag : Byte} {p : Fin 4} {selector value : Nat} {s : State} {c : Fin 64} {k : Clip}

theorem atOnce_eq (a : Answer) (t : State) : atOnce (a, t) = (.answer a, t) := rfl

theorem markOutFields (flagged : selector ≤ 1) : firstFail 1 [isProgram p.1, isFlag selector] = 0 :=
  firstFail_of_all (by simp [isProgram, isFlag]; omega)

theorem perform_markOut (flagged : selector ≤ 1) (opens : openClipOf p s = some c.1) (found : s.clips.recs.get c = some k) :
    perform (.markOut p.1 selector value) s =
      (.answer (doneWith (markOutBody c.1 (clampOut p k.inPicture (selectedOut selector value) s)
        (markOut p c.1 (selectedOut selector value) s))), settle (markOut p c.1 (selectedOut selector value) s)) := by
  have taken : reqMarkOut p.1 selector value s =
      (doneWith (markOutBody c.1 (clampOut p k.inPicture (selectedOut selector value) s)
        (markOut p c.1 (selectedOut selector value) s)), settle (markOut p c.1 (selectedOut selector value) s)) := by
    unfold reqMarkOut
    rw [checked_of_fields _ _ (markOutFields flagged), idx4_val]
    dsimp only
    rw [opens]
    dsimp only
    rw [clipAt_val, found, Option.map_some, Option.getD_some]
  have performs : perform (.markOut p.1 selector value) s = atOnce (reqMarkOut p.1 selector value s) := rfl
  rw [performs, taken, atOnce_eq]

end

/-- Settles O49. -/
theorem markOutClosesTheClip : Obligations.MarkOutClosesTheClip := by
  intro p s runs opens stays older
  refine ⟨fun tag selector value free flagged => ⟨fun none' => ?_, fun c k found own opened first plain put => ?_⟩,
    fun c k q found own closing requested plain put => ?_⟩
  · refine answers_checked (a := refuse .noSuchClip p.1) free (exec_markOut tag p.1 selector value s) rfl
      (markOutFields flagged) ?_
    dsimp only
    rw [idx4_val, show openClipOf p (counted s) = none from openClipOf_of_none none']
  · intro now v q
    subst own
    have rests : Rests c k (counted s) := StaysPut.rests (s := counted s) put found (by rw [show (counted s).prog k.program = s.prog k.program from rfl, runs]; exact nofun)
    have clamped : clampOut k.program k.inPicture (selectedOut selector value) (counted s) = q :=
      clampOut_of_running (s := counted s) runs k.inPicture selector value flagged
    have first' : openClipOf k.program (counted s) = some c.1 :=
      openClipOf_of_first (s := counted s) ⟨k, found, rfl, opened⟩ first
    have taken := exec_replied (exec_markOut tag k.program.1 selector value s) free
      (perform_markOut flagged first' found)
    rw [clamped] at taken
    have ends : ∃ far : List Nat, Rests c (if newer32 now q then closedAs q (pictureLabel k.program k.run q (counted s))
        (max k.inOffset (endedOut k.program k.run q (counted s))) far k else { k with st := .closing, requestedOut := some q })
          (markOut k.program c.1 (selectedOut selector value) (counted s)) ∧
        ((markOut k.program c.1 (selectedOut selector value) (counted s)).chain k.program).openClips = 0 := by
      rw [← clamped]
      cases side : newer32 now (clampOut k.program k.inPicture (selectedOut selector value) (counted s)) with
      | true => exact markOut_of_ended rests found opened plain side
      | false => exact ⟨[], markOut_of_waits rests found side⟩
    obtain ⟨far, marked, openClips⟩ := ends
    have replies := (markOut_inner k.program c.1 (selectedOut selector value) (counted s)).queues.replies
    generalize markOut k.program c.1 (selectedOut selector value) (counted s) = u at taken marked openClips replies
    obtain ⟨l, before⟩ := marked.record
    obtain ⟨l', after⟩ := marked.settle.record
    rw [markOutBody_of_found before] at taken
    have queue : (settle u).link.replies = s.link.replies := by rw [settle_replies, replies]; rfl
    have shut := settle_openClips openClips
    generalize settle u = t at taken after queue shut
    refine ⟨_, _, taken, after, fun goesOn => ?_, fun ended => ?_, shut⟩
    · rw [if_neg goesOn]
      refine ⟨rfl, rfl, rfl, ?_⟩
      rw [replied_replies, queue]
      rfl
    · rw [if_pos ended]
      refine ⟨rfl, rfl, rfl, fun off at' => ?_, ?_⟩
      · have out : endedOut k.program k.run q (counted s) = off := by
          unfold endedOut
          rw [show soundLookup k.program k.run q (counted s) = some off from at']
        exact congrArg (fun o => some (max k.inOffset o)) out
      · rw [replied_replies, queue]
        rfl
  · subst own
    have rests : Rests c k s := StaysPut.rests put found (by rw [runs]; exact nofun)
    have passes : endsNow k.program s.tb.picture k = newer32 s.tb.picture q := by
      unfold endsNow
      rw [closing, requested, Option.any_some, beq_self_eq_true, beq_self_eq_true, Bool.true_and, Bool.true_and]
    by_cases ended : newer32 s.tb.picture q = true
    · obtain ⟨far, marked⟩ := periodEnd_of_ended rests found plain requested (passes.trans ended)
      obtain ⟨l, after⟩ := marked.settle.record
      exact ⟨_, _, exec_periodEnd k.program s, after, fun _ => ⟨rfl, rfl, rfl, rfl, rfl⟩, fun goesOn => absurd ended goesOn⟩
    · have waits := passes.trans (Bool.eq_false_iff.mpr ended)
      obtain ⟨l, after⟩ := (periodEnd_of_waits rests found waits).settle.record
      exact ⟨_, _, exec_periodEnd k.program s, after, fun now => absurd now ended, fun _ => ⟨closing, requested⟩⟩

/-! ### The mark lines (R185, R186) -/

section
variable {m : Fin 2} {p : Fin 4} {s : State}

/-- A press marks in with the line's pre-roll (R186). -/
theorem press_marksIn (bound : (s.line m).binding = some p.1)
    (accepted : ∀ a, (s.line m).lastPress = some a → 200 < diff32 s.tb.pacing a) (none' : ∀ c, ¬OpenAt p s c)
    (runs : (s.prog p).st = .running) {c : Fin 64} (free : s.clips.recs.get c = none)
    (first : ∀ d < c, s.clips.recs.get d ≠ none) :
    let k := clipMarked p (clampIn s p (diff32 s.tb.picture (s.line m).preRoll)) (s.line m).yieldable
      (if m = 0 then .m0 else .m1) s
    (takePress m s).line m = (pressTaken m s).line m ∧ (takePress m s).clips.recs = Vec.put s.clips.recs c (some k) := by
  intro k
  have line := modified_line m (fun k => { k with lastPress := some s.tb.pacing, presses := incSat16 k.presses }) s
  have opened : openClipOf p (pressTaken m s) = none := openClipOf_of_none (s := pressTaken m s) none'
  have refusal : markInRefusal p (pressTaken m s) = none := markInRefusal_of_free (s := pressTaken m s) none' runs free
  have lowest : lowestFree (pressTaken m s) = c.1 := lowestFree_of_first (s := pressTaken m s) free first
  have roll : ((pressTaken m s).line m).preRoll = (s.line m).preRoll := by
    rw [pressTaken, line]
  have yields : ((pressTaken m s).line m).yieldable = (s.line m).yieldable := by
    rw [pressTaken, line]
  rw [takePress_of_accepted bound accepted, actOnPress_of_taken opened refusal, roll, yields]
  refine ⟨?_, ?_⟩
  · exact congrArg (fun v => v.get m) ((markIn_inner p _ _ _ (pressTaken m s)).same .lines (by decide))
  · rw [recs_markIn lowest]
    rfl

/-- A press marks out with now (R186). -/
theorem press_marksOut (bound : (s.line m).binding = some p.1)
    (accepted : ∀ a, (s.line m).lastPress = some a → 200 < diff32 s.tb.pacing a) {c : Fin 64} {k : Clip}
    (found : s.clips.recs.get c = some k) (own : k.program = p) (opened : k.st = .opened) (first : ∀ d < c, ¬OpenAt p s d)
    (runs : (s.prog p).st = .running) (put : StaysPut c s) :
    (takePress m s).line m = (pressTaken m s).line m ∧
      ∃ l, (takePress m s).clips.recs.get c = some { k with st := .closing, requestedOut := some s.tb.picture, label := l } := by
  subst own
  have opens : openClipOf k.program (pressTaken m s) = some c.1 :=
    openClipOf_of_first (s := pressTaken m s) ⟨k, found, rfl, opened⟩ first
  have rests : Rests c k (pressTaken m s) := StaysPut.rests (s := pressTaken m s) put found fun drains =>
    absurd (runs.symm.trans drains) nofun
  have now : clampOut k.program k.inPicture none (pressTaken m s) = s.tb.picture := clampOut_now (s := pressTaken m s) runs _
  have waits : newer32 (pressTaken m s).tb.picture (clampOut k.program k.inPicture none (pressTaken m s)) = false := by
    rw [now]
    exact newer32_irrefl s.tb.picture
  obtain ⟨marked, -⟩ := markOut_of_waits (n := none) rests found waits
  rw [now] at marked
  have line : (markOut k.program c.1 none (pressTaken m s)).line m = (pressTaken m s).line m :=
    congrArg (fun v => v.get m) ((markOut_inner ..).same .lines (by decide))
  rw [takePress_of_accepted bound accepted, actOnPress_of_open opens, settle_line, line]
  obtain ⟨l, after⟩ := marked.settle.record
  exact ⟨rfl, l, after⟩

theorem press_refused (bound : (s.line m).binding = some p.1)
    (accepted : ∀ a, (s.line m).lastPress = some a → 200 < diff32 s.tb.pacing a) (none' : ∀ c, ¬OpenAt p s c)
    (rests : (s.prog p).st ≠ .running) : takePress m s = s.modLine m fun l =>
      { l with lastPress := some s.tb.pacing, presses := incSat16 l.presses, refused := incSat16 l.refused } := by
  have opened : openClipOf p (pressTaken m s) = none := openClipOf_of_none (s := pressTaken m s) none'
  have refusal := markInRefusal_of_rest (s := pressTaken m s) none' rests
  rw [takePress_of_accepted bound accepted, actOnPress_of_refused opened refusal]
  exact modLine_modLine m _ _ s

end

/-- Settles O50. -/
theorem markLinesMarkInAndOut : Obligations.MarkLinesMarkInAndOut := by
  intro m s l becomes
  have press := exec_markLinePress m s
  refine ⟨fun tag binding roll yieldable free => ?_, fun unbound => ?_, fun p bound => ?_⟩
  · intro field
    have fields := setMarkLineFields m binding roll yieldable
    have taken := exec_setMarkLine tag m.1 binding roll yieldable s
    refine ⟨fun fits => ?_, fun fails => answers_outOfRange free taken rfl fields fails⟩
    refine answers_checked (a := done) free taken rfl (fields.trans fits) ?_
    rw [Fin.ofNat_val_eq_self]
    rfl
  · exact press.trans (congrArg _ (takePress_of_unbound unbound))
  · intro since opens asked pressed
    refine ⟨fun a last soon => press.trans (congrArg _ (takePress_of_bounce bound last soon)), fun accepted =>
      ⟨fun none' rests => press.trans (congrArg _ (press_refused bound accepted none' rests)),
        fun none' runs c free first => ?_, fun c k found own opened first runs queue cursor => ?_⟩⟩
    · obtain ⟨line, recs⟩ := press_marksIn bound accepted none' runs free first
      exact ⟨_, _, press, line.trans (modified_line m _ s), recs, rfl, rfl, rfl, rfl, rfl⟩
    · obtain ⟨line, l', record⟩ := press_marksOut bound accepted found own opened first runs ⟨queue, cursor⟩
      exact ⟨_, _, press, line.trans (modified_line m _ s), record, rfl, rfl⟩

end Sys2Proof.Machine
end

section
/-! PROOFS. Two refutations about shipping (R162, R167, R189): the statements allow a window in which an entry that waits to
be resent already has the next send number. The first CLIP packet of the clip that starts takes that number; the resend
then takes every entry of its old number out of the window, the new CLIP entry with it; and the clip, all of whose range
has been sent and none of which is in the window, becomes SHIPPED within the event that started it. -/

namespace Sys2Proof.Machine

set_option Elab.async false

/-- A clip of one byte, at offset 100 of run 6 of program 0. -/
def byteClip (st : ClipState) : Clip :=
  { st := st, program := 0, run := 6, creation := 5, source := .host, inPicture := 3000, inTimecode := timecodeZero,
    inOffset := 100, outPicture := none, outTimecode := none, outOffset := some 101, requestedOut := none,
    shipAtClose := false, text := [], tags := [], rating := 0, yieldable := false, trimmed := false, revision := 0,
    label := .confirmed, shipCursor := none, pinned := [] }

/-- A path in UP with credit for any packet that its cap admits. -/
def payingPath (burst : Nat) : Path :=
  { Path.reset with st := .up, carrier := true, estimate := 18000, burst := burst, credit := 100000000 }

/-- A ready part, IDLE, with clip 9 given. Path 0's cap admits the clip's packet but not the resend of the live entry 7;
path 1's admits both; and 7 is also the next send number. -/
def doubledNumber (st : ClipState) (queue : List Nat) : State :=
  { State.reset with
    paths := Vec.put (Vec.put State.reset.paths 0 (payingPath 1)) 1 (payingPath 1000)
    clips := { ClipLog.reset with recs := Vec.put ClipLog.reset.recs 9 (some (byteClip st)), shipQueue := queue }
    sched := { Scheduler.reset with
      bucket := 1000000, nextSend := 7, window := [⟨7, .live 0 5 17 0 3000, 2, 0, 0, true⟩] }
    link := { Link.reset with ready := true } }

theorem emptyLog_recs : ∀ d : Fin 64, ClipLog.reset.recs.get d = none := by
  decide +kernel

theorem doubledNumber_recs {st : ClipState} {queue : List Nat} {d : Fin 64} {m : Clip}
    (found : (doubledNumber st queue).clips.recs.get d = some m) : m = byteClip st := by
  have recs : (doubledNumber st queue).clips.recs.get d = if (9 : Fin 64) = d then some (byteClip st) else none := by
    refine (Vec_get_put ..).trans ?_
    rw [emptyLog_recs]
  rw [recs] at found
  split at found
  · exact (Option.some.inj found).symm
  · cases found

theorem doubledNumber_not_shipping {st : ClipState} {queue : List Nat} (other : st ≠ .shipping) (d : Fin 64) (m : Clip)
    (found : (doubledNumber st queue).clips.recs.get d = some m) : m.st ≠ .shipping := by
  rw [doubledNumber_recs found]
  exact other

theorem doubledNumber_clip (st : ClipState) (queue : List Nat) :
    (doubledNumber st queue).clips.recs.get 9 = some (byteClip st) := (Vec_get_put ..).trans (if_pos rfl)

theorem doubledNumber_idle (st : ClipState) (queue : List Nat) (p : Fin 4) : ((doubledNumber st queue).prog p).st ≠ .draining := by
  have idle : ∀ p : Fin 4, (State.reset.prog p).st = .idle := by decide +kernel
  intro drains
  exact absurd ((idle p).symm.trans drains) nofun

theorem doubledNumber_ships :
    ((submit 0 (.ship 9) (doubledNumber .closed [])).clips.recs.get 9).map Clip.st = some .shipped := by
  decide +kernel

/-- Refutes O51: SHIP of a CLOSED clip leaves it SHIPPED, not SHIPPING. -/
theorem not_labelShipAndCancelActByState : ¬ Obligations.LabelShipAndCancelActByState := by
  intro h
  have byState := h 0 9 (doubledNumber .closed []) ⟨rfl, rfl, by decide +kernel⟩
  obtain ⟨-, -, -, acts⟩ := byState
  obtain ⟨-, -, -, -, -, -, quiet⟩ := acts (byteClip .closed) (doubledNumber_clip .closed [])
  obtain ⟨-, ships⟩ := quiet (doubledNumber_idle .closed [])
  obtain ⟨-, atOnce'⟩ := ships (.inl rfl)
  obtain ⟨t, n, next, step, -, found, shipping, -⟩ :=
    atOnce' (doubledNumber_not_shipping nofun) rfl rfl 101 rfl (by decide)
  have same := next_injective ((exec_ship 0 9 (doubledNumber .closed [])).symm.trans step)
  have shipped := doubledNumber_ships
  rw [same, show t.clips.recs.get 9 = some n from found] at shipped
  exact absurd ((Option.some.inj shipped).symm.trans shipping) nofun

theorem doubledNumber_starts :
    ((if shipCanStart (doubledNumber .queued [9]) then settle (startShip (doubledNumber .queued [9]))
      else doubledNumber .queued [9]).clips.recs.get 9).map Clip.st = some .shipped := by
  decide +kernel

/-- Refutes O52: the ship queue's head starts, and is SHIPPED within the event. -/
theorem not_clipsShipAndAreReleased : ¬ Obligations.ClipsShipAndAreReleased := by
  intro h
  obtain ⟨-, starts, -⟩ := h (doubledNumber .queued [9]) (doubledNumber_idle .queued [9])
  obtain ⟨t, n, next, step, found, shipping, -⟩ := starts 9 [] (byteClip .queued) 101 rfl
    (doubledNumber_not_shipping nofun) (doubledNumber_clip .queued [9]) rfl (by decide)
  have same := next_injective ((exec_clipStartShipping (doubledNumber .queued [9])).symm.trans step)
  have shipped := doubledNumber_starts
  rw [same, found] at shipped
  exact absurd ((Option.some.inj shipped).symm.trans shipping) nofun

end Sys2Proof.Machine
end

section
/-! PROOFS. What a picture tick releases (R12, R14, R84, R93, R96): its end of the period leaves each program's state, run
and record, so the release finds the programs that were ARMED, and what follows leaves what was released. -/

namespace Sys2Proof.Machine

set_option Elab.async false

/-! ### The tick in steps -/

/-- A picture tick up to the release: the periods have ended (R29, R30, R99, R182). -/
def periodsEnded (b : Bool) (time : Nat) (s : State) : State :=
  let s1 := eachProgram portTick (tickTimebase time s)
  eachProgram (fun p t => endPeriod p s.tb.picture t) (if b then retentionTick s1 else s1)

/-- The releases of a picture tick. -/
def released (s : State) : State :=
  (eachProgram (fun i t => t.modSlot i releaseSlot) (eachProgram releaseProgram s)).modMixer fun m =>
    { m with buses := mapAll (fun _ => busAtTick) m.buses }

/-- What a picture tick does after the releases, before the event ends. -/
def staleChecked (b : Bool) (s : State) : State := eachProgram tickStale (if b then s else retentionTick s)

theorem pictureTickWith_eq (b : Bool) (time : Nat) (s : State) :
    pictureTickWith b time s = endEvent s (staleChecked b (released (periodsEnded b time s))) := rfl

/-! ### The end of a period leaves the state, the run and the record of each program -/

/-- Programs of one state, run and record. -/
structure SameRun (g h : Program) : Prop where
  st : h.st = g.st
  run : h.run = g.run
  record : h.record = g.record

theorem SameRun.of_eq {g h : Program} (same : h = g) : SameRun g h := by
  rw [same]
  exact ⟨rfl, rfl, rfl⟩

theorem SameRun.trans {f g h : Program} (first : SameRun f g) (next : SameRun g h) : SameRun f h :=
  ⟨next.st.trans first.st, next.run.trans first.run, next.record.trans first.record⟩

/-- Every program keeps its state, its run and its record. -/
def RunsStand (s t : State) : Prop := ∀ q, SameRun (s.prog q) (t.prog q)

theorem RunsStand.trans {s t u : State} (first : RunsStand s t) (next : RunsStand t u) : RunsStand s u :=
  fun q => (first q).trans (next q)

theorem RunsStand.of_inner {ps : List Part} {s t : State} (kept : Inner ps s t) (not : Part.progs ∉ ps) : RunsStand s t :=
  fun q => .of_eq (prog_of_same kept not q)

theorem RunsStand.ite {c : Prop} [Decidable c] {s t u : State} (yes : RunsStand s t) (no : RunsStand s u) :
    RunsStand s (if c then t else u) := by
  split
  · exact yes
  · exact no

theorem RunsStand.of_coder {p : Fin 4} {s t : State} (kept : CoderKeeps p s t) : RunsStand s t := by
  intro q
  by_cases same : p = q
  · subst same
    rw [kept.prog]
    exact ⟨rfl, rfl, rfl⟩
  · exact .of_eq (kept.prog_ne q same)

section
variable (p : Fin 4) (n : Nat) (s : State)

theorem closeLimit_coderKeeps : CoderKeeps p s (closeLimit p n s) := by
  unfold closeLimit
  split
  · exact .ite (.refl s) (closeShort_coderKeeps p s)
  · exact .refl s

theorem standIn_coderKeeps (label : Timecode) : CoderKeeps p s (standIn p n label s) := by
  have taken (u : State) (f g : Intake → Intake) : CoderKeeps p u ((u.modIntake p f).modIntake p g) :=
    (CoderKeeps.of_inner (modIntake_inner u p f) (by decide)).trans (.of_inner (modIntake_inner _ p g) (by decide))
  unfold standIn
  split
  · exact .refl s
  · exact .ite (.refl s) (.ite (((taken s _ _).trans (callFor_coderKeeps ..)).trans (flushCoder_coderKeeps ..))
      (((taken s _ _).trans (callFor_coderKeeps ..)).trans (flushCoder_coderKeeps ..)))

theorem writeSound_coderKeeps (c : Nat) : CoderKeeps p s (writeSound p n c s) := by
  unfold writeSound
  split
  · exact .refl s
  · exact .ite (.refl s) ((CoderKeeps.of_inner (modFramer_inner s p _) (by decide)).trans (offerUnit_coderKeeps ..))

theorem endSound_runsStand : RunsStand s (endSound p n s) := by
  have cadence (f : Program → Nat) : RunsStand s (s.modProg p fun g => { g with accumulator := f g }) := by
    intro q
    rw [modProg_prog]
    split
    · subst_vars
      exact ⟨rfl, rfl, rfl⟩
    · exact .of_eq rfl
  exact (cadence _).trans (.of_coder (writeSound_coderKeeps p n _ _))

theorem endPeriod_runsStand : RunsStand s (endPeriod p n s) := by
  have closed : RunsStand s (closeLimit p n s) := .of_coder (closeLimit_coderKeeps p n s)
  have sounded : RunsStand s (endSound p n (standIn p n s.tb.endedLabel (closeLimit p n s))) :=
    (closed.trans (.of_coder (standIn_coderKeeps ..))).trans (endSound_runsStand p n _)
  have written := RunsStand.ite (c := periodOfRun p n s = true) sounded closed
  have framed := RunsStand.ite (c := ((s.prog p).st == .draining && (s.prog p).drainPicture == some n) = true)
    (written.trans (.of_inner (modFramer_inner _ p framerStop) (by decide))) written
  exact (framed.trans (.of_inner (periodEnd_inner p _) (by decide))).trans 
    (.of_inner (ps := [.intakes]) (modIntake_inner _ p fun i => { i with accepted := false }) (by decide))

end

theorem periodsEnded_runsStand (b : Bool) (time : Nat) (s : State) : RunsStand s (periodsEnded b time s) := by
  have ports : RunsStand s (eachProgram portTick (tickTimebase time s)) :=
    (RunsStand.of_inner (tickTimebase_inner time s) (by decide)).trans
      (.of_inner (Inner.eachProgram (ps := [.ports, .link]) _ portTick_inner _) (by decide))
  have retained := RunsStand.ite (c := b = true) (ports.trans (.of_inner (retentionTick_inner _) (by decide))) ports
  exact eachProgram_holds (P := RunsStand s) (fun p t stand => stand.trans (endPeriod_runsStand p _ t)) retained

theorem periodsEnded_inner (b : Bool) (time : Nat) (s : State) :
    Inner [.tb, .framers, .intakes, .coders, .loops, .progs, .lives, .clips, .sched, .mem, .chains, .store, .link, .ports]
      s (periodsEnded b time s) := by
  have ports := (((tickTimebase_inner time s).widen (ps := [.tb, .framers, .intakes, .coders, .loops, .progs, .lives, .clips,
    .sched, .mem, .chains, .store, .link, .ports])).andThen (Inner.eachProgram (ps := [.ports, .link]) _ portTick_inner _))
  have retained := Inner.ite (c := b = true) (ports.andThen (retentionTick_inner _)) ports
  exact retained.andThen (Inner.eachProgram (ps := periodParts) _ (fun p t => endPeriod_inner p _ t) _)

theorem periodsEnded_picture (b : Bool) (time : Nat) (s : State) :
    (periodsEnded b time s).tb.picture = incWrap32 s.tb.picture := by
  have ticked : (tickTimebase time s).tb.picture = incWrap32 s.tb.picture := rfl
  have ports := (Inner.eachProgram (ps := [.ports, .link]) _ portTick_inner (tickTimebase time s)).same .tb (by decide)
  have retained : (if b then retentionTick (eachProgram portTick (tickTimebase time s))
      else eachProgram portTick (tickTimebase time s)).tb = (tickTimebase time s).tb := by
    split
    · exact ((retentionTick_inner _).same .tb (by decide)).trans ports
    · exact ports
  rw [← ticked, ← retained]
  exact congrArg Timebase.picture
    ((Inner.eachProgram (ps := periodParts) _ (fun p t => endPeriod_inner p _ t) _).same .tb (by decide))

/-! ### The release of a program (R14) -/

/-- What a release changes of a program, and the picture number that it reads. -/
structure RunView where
  picture : Nat
  prog : Program
  coder : Coder
  loop : RateLoop
  live : Live
  framer : Framer

def runView (s : State) (p : Fin 4) : RunView :=
  ⟨s.tb.picture, s.prog p, s.coder p, s.loop p, s.live p, s.framer p⟩

/-- The program that a release leaves. -/
def viewReleased (v : RunView) : RunView :=
  if v.prog.st = .armed then
    v.prog.record.elim v fun r =>
      ⟨v.picture, programRelease v.picture v.prog, coderRelease r, RateLoop.reset,
        liveRelease (programRelease v.picture v.prog).run, framerRelease r⟩
  else v

theorem runView_of_parts {s t : State} {p : Fin 4} (tb : t.tb = s.tb) (prog : t.prog p = s.prog p)
    (coder : t.coder p = s.coder p) (loop : t.loop p = s.loop p) (live : t.live p = s.live p)
    (framer : t.framer p = s.framer p) : runView t p = runView s p := by
  unfold runView
  rw [tb, prog, coder, loop, live, framer]

theorem runView_of_inner {ps : List Part} {s t : State} (kept : Inner ps s t) (p : Fin 4)
    (apart : Part.tb ∉ ps ∧ Part.progs ∉ ps ∧ Part.coders ∉ ps ∧ Part.loops ∉ ps ∧ Part.lives ∉ ps ∧ Part.framers ∉ ps) :
    runView t p = runView s p :=
  runView_of_parts (kept.same .tb apart.1) (prog_of_same kept apart.2.1 p)
    (congrArg (fun v => v.get p) (kept.same .coders apart.2.2.1))
    (congrArg (fun v => v.get p) (kept.same .loops apart.2.2.2.1))
    (congrArg (fun v => v.get p) (kept.same .lives apart.2.2.2.2.1))
    (congrArg (fun v => v.get p) (kept.same .framers apart.2.2.2.2.2))

/-- The state of a program at its release before its first segment is taken. -/
def runOpened (p : Fin 4) (r : ProgramRecord) (s : State) : State :=
  let s1 := s.modProg p (programRelease s.tb.picture)
  let s2 := (((s1.modIntake p fun _ => intakeRelease).modCoder p fun _ => coderRelease r).modLoop p fun _ =>
    RateLoop.reset).modFramer p fun _ => framerRelease r
  let s3 := (s2.modLive p fun _ => liveRelease (s1.prog p).run).modChain p fun c => { c with cut := none, cuts := 0 }
  (s3.modClips fun l => { l with lastWritten := Vec.put l.lastWritten p none }).modMixer fun m =>
    { m with buses := mapAll (fun k b => if onBus r k then reloadDither k b else b) m.buses }

section
variable {p : Fin 4} {r : ProgramRecord} {s : State}

theorem releaseProgram_of_armed (armed : (s.prog p).st = .armed) (record : (s.prog p).record = some r) :
    releaseProgram p s = runAllocator .programState (takeAtRelease p s.tb.picture (runOpened p r s)) := by
  unfold releaseProgram
  rw [armed, record]
  rfl

theorem releaseProgram_of_rest (rests : (s.prog p).st = .armed → (s.prog p).record = none) : releaseProgram p s = s := by
  unfold releaseProgram
  split
  next armed record => rw [rests armed] at record; cases record
  · rfl

theorem runOpened_view : runView (runOpened p r s) p = ⟨s.tb.picture, programRelease s.tb.picture (s.prog p), coderRelease r,
    RateLoop.reset, liveRelease (programRelease s.tb.picture (s.prog p)).run, framerRelease r⟩ := by
  simp [runView, runOpened]

theorem runOpened_view_ne {q : Fin 4} (other : q ≠ p) : runView (runOpened p r s) q = runView s q := by
  simp [runView, runOpened, Ne.symm other]

theorem releaseTaken_inner (cause : AllocCause) (p : Fin 4) (n : Nat) (s : State) :
    Inner [.clips, .sched, .chains, .store, .link, .alloc] s (runAllocator cause (takeAtRelease p n s)) :=
  ((takeAtRelease_inner p n s).widen).andThen (runAllocator_inner cause _)

theorem releaseProgram_view (p : Fin 4) (s : State) : runView (releaseProgram p s) p = viewReleased (runView s p) := by
  unfold viewReleased
  by_cases armed : (s.prog p).st = .armed
  · rw [if_pos (show (runView s p).prog.st = .armed from armed)]
    cases record : (s.prog p).record with
    | none =>
      rw [releaseProgram_of_rest fun _ => record, show (runView s p).prog.record = none from record]
      rfl
    | some r =>
      rw [releaseProgram_of_armed armed record, runView_of_inner (releaseTaken_inner ..) p (by decide), runOpened_view,
        show (runView s p).prog.record = some r from record]
      rfl
  · rw [if_neg (show (runView s p).prog.st ≠ .armed from armed), releaseProgram_of_rest fun h => absurd h armed]

theorem releaseProgram_view_ne (p q : Fin 4) (s : State) (other : q ≠ p) :
    runView (releaseProgram p s) q = runView s q := by
  by_cases armed : (s.prog p).st = .armed
  · cases record : (s.prog p).record with
    | none => rw [releaseProgram_of_rest fun _ => record]
    | some r =>
      rw [releaseProgram_of_armed armed record, runView_of_inner (releaseTaken_inner ..) q (by decide), runOpened_view_ne other]
  · rw [releaseProgram_of_rest fun h => absurd h armed]

theorem released_view (s : State) (p : Fin 4) : runView (released s) p = viewReleased (runView s p) := by
  have slots (u : State) : runView (eachProgram (fun i t => t.modSlot i releaseSlot) u) p = runView u p :=
    runView_of_inner (Inner.eachProgram (ps := [.slots]) _ (fun i t => modSlot_inner t i releaseSlot) u) p (by decide)
  have mixed (u : State) (f : Mixer → Mixer) : runView (u.modMixer f) p = runView u p :=
    runView_of_inner (modMixer_inner u f) p (by decide)
  unfold released
  rw [mixed, slots]
  exact eachProgram_at (g := runView) (h := fun _ => viewReleased) releaseProgram_view
    (fun i j s other => releaseProgram_view_ne i j s other) s p

end

theorem released_slot (s : State) (i : Fin 4) : (released s).slot i = releaseSlot (s.slot i) := by
  have programs : (eachProgram releaseProgram s).slot i = s.slot i :=
    congrArg (fun v => v.get i) ((Inner.eachProgram (ps := releaseParts) _ releaseProgram_inner s).same .slots (by decide))
  have slots := eachProgram_at (f := fun i t => t.modSlot i releaseSlot) (g := State.slot) (h := fun _ => releaseSlot)
    (fun i t => (modSlot_slot t i i releaseSlot).trans (if_pos rfl))
    (fun i j t other => (modSlot_slot t i j releaseSlot).trans (if_neg (Ne.symm other))) (eachProgram releaseProgram s) i
  have mixed (u : State) (f : Mixer → Mixer) : (u.modMixer f).slot i = u.slot i := rfl
  unfold released
  rw [mixed, slots, programs]

/-! ### The buses at a tick (R93, R96) -/

/-- Program `p` is released and lists bus `k`. -/
def listsBus (k : Fin 8) (g : Program) : Bool := g.st == .armed && g.record.any fun r => onBus r k

/-- The dither generators of a bus that is listed. -/
def ditherFor (k : Fin 8) (listed : Bool) (b : Bus) : Bus := if listed then reloadDither k b else b

theorem ditherFor_twice (k : Fin 8) (x y : Bool) (b : Bus) : ditherFor k x (ditherFor k y b) = ditherFor k (x || y) b := by
  cases x <;> cases y <;> rfl

theorem releaseProgram_bus (p : Fin 4) (s : State) (k : Fin 8) : (releaseProgram p s).mixer.buses.get k =
    ditherFor k (listsBus k (s.prog p)) (s.mixer.buses.get k) := by
  unfold listsBus
  by_cases armed : (s.prog p).st = .armed
  · rw [armed]
    cases record : (s.prog p).record with
    | none => rw [releaseProgram_of_rest fun _ => record]; rfl
    | some r =>
      rw [releaseProgram_of_armed armed record, (releaseTaken_inner ..).same .mixer (by decide)]
      have buses : (runOpened p r s).mixer.buses = mapAll (fun k b => if onBus r k then reloadDither k b else b) s.mixer.buses := rfl
      rw [buses]
      exact Vec_get_tab _ k
  · have rests : ((s.prog p).st == .armed) = false := beq_eq_false_iff_ne.mpr armed
    rw [releaseProgram_of_rest fun h => absurd h armed, rests]
    rfl

theorem releaseProgram_lists {p q : Fin 4} (other : q ≠ p) (s : State) (k : Fin 8) :
    listsBus k ((releaseProgram p s).prog q) = listsBus k (s.prog q) :=
  congrArg (fun v => listsBus k v.prog) (releaseProgram_view_ne p q s other)

theorem eachRelease_bus (s : State) (k : Fin 8) : (eachProgram releaseProgram s).mixer.buses.get k =
    ditherFor k ((List.finRange 4).any fun p => listsBus k (s.prog p)) (s.mixer.buses.get k) := by
  have programs : ((List.finRange 4).any fun p => listsBus k (s.prog p)) =
      (listsBus k (s.prog 3) || (listsBus k (s.prog 2) || (listsBus k (s.prog 1) || listsBus k (s.prog 0)))) := by
    have each : (List.finRange 4).any (fun p => listsBus k (s.prog p)) = [(0 : Fin 4), 1, 2, 3].any fun p => listsBus k (s.prog p) := by
      rw [List.finRange_eq_pmap_range]
      rfl
    rw [each]
    simp only [List.any_cons, List.any_nil, Bool.or_false]
    ac_rfl
  unfold eachProgram
  simp only [releaseProgram_bus, ditherFor_twice, programs]
  rw [releaseProgram_lists (by decide), releaseProgram_lists (by decide), releaseProgram_lists (by decide),
    releaseProgram_lists (by decide), releaseProgram_lists (by decide), releaseProgram_lists (by decide)]

theorem released_bus (s : State) (k : Fin 8) : (released s).mixer.buses.get k =
    busAtTick (ditherFor k ((List.finRange 4).any fun p => listsBus k (s.prog p)) (s.mixer.buses.get k)) := by
  have slots (u : State) : (eachProgram (fun i t => t.modSlot i releaseSlot) u).mixer = u.mixer :=
    (Inner.eachProgram (ps := [.slots]) _ (fun i t => modSlot_inner t i releaseSlot) u).same .mixer (by decide)
  unfold released
  rw [modMixer_mixer, slots]
  refine (Vec_get_tab _ k).trans ?_
  rw [eachRelease_bus]

/-! ### What follows the release -/

theorem staleChecked_inner (b : Bool) (s : State) : Inner [.lives, .chains, .store] s (staleChecked b s) := by
  have retained := Inner.ite (c := b = true) (.refl _ s) ((retentionTick_inner s).widen (ps := [.lives, .chains, .store]))
  exact retained.andThen (Inner.eachProgram (ps := [.lives, .chains]) _ tickStale_inner _)

theorem tickStale_live (p q : Fin 4) (s : State) (nothing : pendingBytes q s = 0) : (tickStale p s).live q = s.live q := by
  unfold tickStale
  split
  next some' =>
    have other : p ≠ q := fun same => Nat.ne_of_gt some' (same ▸ nothing)
    exact staleCheck_live_ne other s
  · rfl

theorem staleChecked_live (b : Bool) (q : Fin 4) (s : State) (nothing : pendingBytes q s = 0) :
    (staleChecked b s).live q = s.live q := by
  have retained := Inner.ite (c := b = true) (.refl _ s) (retentionTick_inner s)
  have live : (if b then s else retentionTick s).live q = s.live q :=
    congrArg (fun v => v.get q) (retained.same .lives (by decide))
  have pending {t u : State} (live : u.live q = t.live q) (prog : u.prog q = t.prog q) : pendingBytes q u = pendingBytes q t := by
    unfold pendingBytes
    rw [live, prog]
  have before : pendingBytes q (if b then s else retentionTick s) = 0 :=
    (pending live (prog_of_same retained (by decide) q)).trans nothing
  rw [← live]
  refine (eachProgram_holds (P := fun t => t.live q = (if b then s else retentionTick s).live q ∧ pendingBytes q t = 0)
    (fun p t holds => ?_) ⟨rfl, before⟩).1
  have stands := tickStale_live p q t holds.2
  exact ⟨stands.trans holds.1, (pending stands (prog_of_same (tickStale_inner p t) (by decide) q)).trans holds.2⟩

theorem endEvent_live {start s : State} {q : Fin 4} (runs : (s.prog q).st ≠ .draining) (nothing : pendingBytes q s = 0) :
    (endEvent start s).live q = s.live q :=
  (congrArg (fun v => v.get q) ((freedTogether_inner start _).same .lives (by decide))).trans (settle_live runs nothing)

theorem endEvent_framer (start s : State) (q : Fin 4) : (endEvent start s).framer q = s.framer q :=
  congrArg (fun v => v.get q) ((endEvent_inner start s).same .framers (by decide))

/-- A program that runs with nothing pending is as its release left it when the tick has ended. -/
theorem endEvent_of_released {b : Bool} {start w : State} {p : Fin 4} (runs : (w.prog p).st = .running)
    (nothing : pendingBytes p w = 0) :
    (endEvent start (staleChecked b w)).prog p = w.prog p ∧ (endEvent start (staleChecked b w)).coder p = w.coder p ∧
      (endEvent start (staleChecked b w)).loop p = w.loop p ∧ (endEvent start (staleChecked b w)).live p = w.live p ∧
      (endEvent start (staleChecked b w)).framer p = w.framer p := by
  have inner := staleChecked_inner b w
  have prog : (staleChecked b w).prog p = w.prog p := prog_of_same inner (by decide) p
  have live : (staleChecked b w).live p = w.live p := staleChecked_live b p w nothing
  have runs' : ((staleChecked b w).prog p).st ≠ .draining := by
    rw [prog, runs]
    exact nofun
  have nothing' : pendingBytes p (staleChecked b w) = 0 := by
    rw [← nothing]
    unfold pendingBytes
    rw [live, prog]
  refine ⟨?_, ?_, ?_, ?_, ?_⟩
  · rw [endEvent_prog, settle_prog runs', prog]
  · rw [endEvent_coder]
    exact congrArg (fun v => v.get p) (inner.same .coders (by decide))
  · rw [endEvent_loop]
    exact congrArg (fun v => v.get p) (inner.same .loops (by decide))
  · rw [endEvent_live runs' nothing', live]
  · rw [endEvent_framer]
    exact congrArg (fun v => v.get p) (inner.same .framers (by decide))

theorem viewReleased_of_armed {v : RunView} {r : ProgramRecord} (armed : v.prog.st = .armed) (record : v.prog.record = some r) :
    viewReleased v = ⟨v.picture, programRelease v.picture v.prog, coderRelease r, RateLoop.reset,
      liveRelease (programRelease v.picture v.prog).run, framerRelease r⟩ := by
  unfold viewReleased
  rw [if_pos armed, record]
  rfl

theorem released_of_armed {u : State} {p : Fin 4} {r : ProgramRecord} (armed : (u.prog p).st = .armed)
    (record : (u.prog p).record = some r) :
    let g := programRelease u.tb.picture (u.prog p)
    (released u).prog p = g ∧ (released u).coder p = coderRelease r ∧ (released u).loop p = RateLoop.reset ∧
      (released u).live p = liveRelease g.run ∧ (released u).framer p = framerRelease r := by
  have view := (released_view u p).trans (viewReleased_of_armed (v := runView u p) armed record)
  exact ⟨congrArg RunView.prog view, congrArg RunView.coder view, congrArg RunView.loop view, congrArg RunView.live view,
    congrArg RunView.framer view⟩

theorem programRelease_of_sameRun {g h : Program} (same : SameRun g h) (n : Nat) : programRelease n h = programRelease n g := by
  unfold programRelease
  rw [same.run, same.record]

/-- A program that a picture tick finds ARMED is as its release left it when the tick has ended. -/
theorem pictureTick_view {b : Bool} {time : Nat} {s : State} {p : Fin 4} {r : ProgramRecord} (armed : (s.prog p).st = .armed)
    (record : (s.prog p).record = some r) :
    let t := pictureTickWith b time s
    let g := programRelease (incWrap32 s.tb.picture) (s.prog p)
    t.prog p = g ∧ t.coder p = coderRelease r ∧ t.loop p = RateLoop.reset ∧ t.live p = liveRelease g.run ∧
      t.framer p = framerRelease r := by
  have before := periodsEnded_runsStand b time s p
  have picture := periodsEnded_picture b time s
  rw [pictureTickWith_eq]
  generalize periodsEnded b time s = u at before picture
  have own := released_of_armed (before.st.trans armed) (before.record.trans record)
  rw [picture, programRelease_of_sameRun before] at own
  obtain ⟨prog, coder, loop, live, framer⟩ := own
  generalize released u = w at prog coder loop live framer
  have nothing : pendingBytes p w = 0 := by
    unfold pendingBytes
    rw [live, prog]
    rfl
  obtain ⟨prog', coder', loop', live', framer'⟩ := endEvent_of_released (b := b) (start := s)
    (show (w.prog p).st = .running by rw [prog]; rfl) nothing
  exact ⟨prog'.trans prog, coder'.trans coder, loop'.trans loop, live'.trans live, framer'.trans framer⟩

theorem pictureTick_slot (b : Bool) (time : Nat) (s : State) (i : Fin 4) :
    (pictureTickWith b time s).slot i = releaseSlot (s.slot i) := by
  have after := ((staleChecked_inner b (released (periodsEnded b time s))).widen (ps := tickParts.erase .slots)).andThen
    (endEvent_inner s _)
  have before : (periodsEnded b time s).slot i = s.slot i :=
    congrArg (fun v => v.get i) ((periodsEnded_inner b time s).same .slots (by decide))
  rw [pictureTickWith_eq, ← before, ← released_slot]
  exact congrArg (fun v => v.get i) (after.same .slots (by decide))

theorem pictureTick_bus (b : Bool) (time : Nat) (s : State) (k : Fin 8) :
    (pictureTickWith b time s).mixer.buses.get k =
      busAtTick (ditherFor k ((List.finRange 4).any fun p => listsBus k (s.prog p)) (s.mixer.buses.get k)) := by
  have after := ((staleChecked_inner b (released (periodsEnded b time s))).widen (ps := tickParts.erase .mixer)).andThen
    (endEvent_inner s _)
  have lists : (fun p => listsBus k ((periodsEnded b time s).prog p)) = fun p => listsBus k (s.prog p) := by
    funext p
    have stands := periodsEnded_runsStand b time s p
    unfold listsBus
    rw [stands.st, stands.record]
  rw [pictureTickWith_eq, after.same .mixer (by decide), released_bus, lists,
    (periodsEnded_inner b time s).same .mixer (by decide)]

theorem lists_iff {k : Fin 8} {s : State} : ((List.finRange 4).any fun p => listsBus k (s.prog p)) = true ↔
    ∃ p r, (s.prog p).st = .armed ∧ (s.prog p).record = some r ∧ k.1 ∈ r.buses := by
  simp [listsBus, onBus, Option.any_eq_true]

theorem busAtTick_listed {k : Fin 8} {listed : Bool} (is : listed = true) (b : Bus) : busAtTick (ditherFor k listed b) =
    { b with
      delay := b.pendingDelay.getD b.delay, pendingDelay := none, saturated := false
      genA := BitVec.ofNat 17 (2 * b.seed + 1), genB := BitVec.ofNat 23 ((k.1 + 1) * 65536 + b.seed) } := by
  rw [is]
  rfl

theorem busAtTick_unlisted {k : Fin 8} {listed : Bool} (isNot : listed = false) (b : Bus) :
    busAtTick (ditherFor k listed b) =
      { b with delay := b.pendingDelay.getD b.delay, pendingDelay := none, saturated := false } := by
  rw [isNot]
  rfl

theorem releaseSlot_eq (q : SlotPort) : releaseSlot q =
    if (q.st = .pending ∨ q.st = .unaligned) ∧ 8 ≤ q.buffer.length then
      { q with st := .aligned, buffer := q.buffer.drop (q.buffer.length - 8) }
    else q := by
  have ready : ((q.st == .pending || q.st == .unaligned) && decide (alignedDepth ≤ q.buffer.length)) = true ↔
      (q.st = .pending ∨ q.st = .unaligned) ∧ 8 ≤ q.buffer.length := by
    rw [Bool.and_eq_true, Bool.or_eq_true, beq_iff_eq, beq_iff_eq, decide_eq_true_iff]
    rfl
  unfold releaseSlot
  by_cases is : (q.st = .pending ∨ q.st = .unaligned) ∧ 8 ≤ q.buffer.length
  · rw [if_pos (ready.mpr is), if_pos is]
    rfl
  · rw [if_neg (mt ready.mp is), if_neg is]

/-- Settles O18. -/
theorem tickReleasesArmedPrograms : Obligations.TickReleasesArmedPrograms := by
  intro s d due
  have taken : exec .dueTick s = .next (takeDueTick s) := rfl
  rw [takeDueTick_eq due] at taken
  refine ⟨_, taken, fun p r armed record => ?_, fun i => ?_, fun k => ?_⟩
  · exact pictureTick_view (s := s.modTb fun t => { t with due := nextDue (max s.tb.now d) s.tb }) armed record
  · have slot := pictureTick_slot (Config.retentionFirst (incWrap32 s.tb.picture)) (max s.tb.now d)
      (s.modTb fun t => { t with due := nextDue (max s.tb.now d) s.tb }) i
    rw [show (s.modTb fun t => { t with due := nextDue (max s.tb.now d) s.tb }).slot i = s.slot i from rfl,
      releaseSlot_eq] at slot
    exact ⟨fun ready => slot.trans (if_pos ready), fun notReady => slot.trans (if_neg notReady)⟩
  · intro bus inForce listed
    have after : (pictureTick (max s.tb.now d) (s.modTb fun t => { t with due := nextDue (max s.tb.now d) s.tb })).mixer.buses.get k =
        busAtTick (ditherFor k ((List.finRange 4).any fun p => listsBus k (s.prog p)) (s.mixer.buses.get k)) :=
      pictureTick_bus ..
    have lists := lists_iff (k := k) (s := s)
    exact ⟨fun is => after.trans (busAtTick_listed (lists.mpr is) (s.mixer.buses.get k)),
      fun isNot => after.trans (busAtTick_unlisted (Bool.eq_false_iff.mpr (mt lists.mp isNot)) (s.mixer.buses.get k))⟩

end Sys2Proof.Machine
end

section
/-! PROOFS. The pacing tick (R7, R133, R144, R163): the refill of every path at once, the expiries, and a part in which
nothing waits to be sent. -/

namespace Sys2Proof.Machine

set_option Elab.async false

/-! ### The refill (R133, R144, R163) -/

theorem Vec_eq_of_get {α : Type} {n : Nat} {v w : Vector α n} (same : ∀ i, v.get i = w.get i) : v = w :=
  Vector.ext fun i inside => same ⟨i, inside⟩

/-- A change made to every path in turn, by each path's own value. -/
theorem eachPath_modPath (f : Path → Path) (s : State) :
    eachPath (fun l t => t.modPath l f) s = { s with paths := Vec.tab fun l => f (s.path l) } := by
  have paths : (eachPath (fun l t => t.modPath l f) s).paths = Vec.tab fun l => f (s.path l) := by
    refine Vec_eq_of_get fun l => ?_
    rw [Vec_get_tab]
    show (eachPath (fun l t => t.modPath l f) s).path l = _
    unfold eachPath
    simp only [modPath_path]
    fin_cases l <;> rfl
  have frame : eachPath (fun l t => t.modPath l f) s = { s with paths := (eachPath (fun l t => t.modPath l f) s).paths } :=
    (Inner.eachPath (ps := [.paths]) _ (fun l t => modPath_inner t l f) s).frame
  rw [frame, paths]

/-- The path that a pacing tick finds, after its credit and its silence timer have stepped. -/
def paced (p : Path) : Path := countSilence (refill p)

theorem pacingRefilled_of_settled {s : State} (settled : s.tb.allocDue = false) : pacingRefilled s =
    { s with
      tb := timebasePacing s.tb
      paths := Vec.tab fun l => paced (s.path l)
      uplink := bringTimeout s.uplink
      sched := bringDeadline (refillBucket s.alloc.clipRate s.sched) } := by
  have stands : takeAllocationTick s = s := if_neg (by rw [settled]; exact nofun)
  unfold pacingRefilled
  rw [stands]
  dsimp only
  rw [eachPath_modPath]
  rfl

section
variable {p : Path}

theorem paced_of_resting (rests : p.st = .off ∨ p.st = .down) : paced p = p := by
  unfold paced refill countSilence inService
  rcases rests with h | h <;> simp [h]

theorem paced_of_probing (probing : p.st = .probing) :
    paced p = { p with credit := min (p.credit + p.probeRate) (p.probeRate * p.burst), silence := p.silence + 1 } := by
  unfold paced refill countSilence inService creditCap pathRate
  simp [probing]

theorem paced_of_carrying (carrying : p.st = .up ∨ p.st = .degraded) : paced p =
    { p with
      credit := min (p.credit + p.estimate) (p.estimate * p.burst)
      bitsGranted := (p.bitsGranted + p.estimate) % 2 ^ 48
      silence := p.silence + 1 } := by
  unfold paced refill countSilence inService creditCap pathRate addWrap48
  rcases carrying with h | h <;> simp [h]

end

/-! ### The expiries -/

theorem expiries_holds {P : State → Prop} (expire : ∀ s, P s → P (expireEntries (fun _ => true) s))
    (silence : ∀ l s, P s → P (silenceDue l s)) (ageFirst : Bool) {s : State} (holds : P s) : P (expiries ageFirst s) := by
  cases ageFirst with
  | true =>
    rw [expiries_ageFirst]
    exact eachPath_holds silence (expire s holds)
  | false =>
    rw [expiries_silenceFirst]
    exact expire _ (eachPath_holds silence holds)

theorem silenceDue_of_quiet {l : Fin 6} {s : State} (quiet : (s.path l).silence < s.uplink.timeoutInForce) :
    silenceDue l s = s := by
  unfold silenceDue
  exact if_neg (by simp [quiet])

theorem silenceDue_of_resting {l : Fin 6} {s : State} (rests : inService (s.path l) = false) : silenceDue l s = s := by
  unfold silenceDue
  exact if_neg (by simp [rests])

theorem silenceDue_path_ne {l m : Fin 6} (other : l ≠ m) (s : State) : (silenceDue l s).path m = s.path m := by
  unfold silenceDue silenceExpiry
  have entered (st : PathState) (u : State) : (enterPath l st .silence u).path m = u.path m := by
    rw [enterPath_path, if_neg other]
  have counted : (s.modPath l fun p => { p with silences := incSat16 p.silences }).path m = s.path m := by
    rw [modPath_path, if_neg other]
  dsimp only
  split
  · split
    · rw [entered, entered, counted]
    · rw [entered, counted]
  · rfl

/-- A path whose silence timer does not expire stands through the expiries. -/
theorem expiries_path {l : Fin 6} {s : State} (ageFirst : Bool)
    (quiet : inService (s.path l) = true → (s.path l).silence < s.uplink.timeoutInForce) :
    (expiries ageFirst s).path l = s.path l := by
  refine (expiries_holds (P := fun t => t.path l = s.path l ∧ t.uplink = s.uplink) (fun t holds => ?_) (fun m t holds => ?_)
    ageFirst ⟨rfl, rfl⟩).1
  · rw [expireEntries_frame]
    exact holds
  · by_cases same : m = l
    · subst same
      have stands : silenceDue m t = t := by
        cases works : inService (s.path m) with
        | false => exact silenceDue_of_resting (by rw [holds.1]; exact works)
        | true => exact silenceDue_of_quiet (by rw [holds.1, holds.2]; exact quiet works)
      rwa [stands]
    · rw [silenceDue_path_ne same]
      exact ⟨holds.1, ((silenceDue_inner m t).same .uplink (by decide)).trans holds.2⟩

/-! ### Nothing waits to be sent -/

/-- The scheduler has no entry, no label and no clip to send. -/
def SchedEmpty (c : Scheduler) : Prop := c.window = [] ∧ c.labelQueue = [] ∧ c.clipCursor = none

theorem loseEntries_empty {s : State} (empty : SchedEmpty s.sched) (lost : Entry → Bool) : SchedEmpty (loseEntries lost s).sched := by
  obtain ⟨window, labels, cursor⟩ := empty
  have asked (c : Prop) [Decidable c] : SchedEmpty (if c then letAsk s else s).sched := by
    split <;> exact ⟨window, labels, cursor⟩
  refine ⟨by rw [loseEntries_window, window]; rfl, ?_⟩
  unfold loseEntries
  dsimp only
  rw [modSched_sched, abandon_frame]
  exact (asked _).2

theorem enterPath_empty {s : State} (empty : SchedEmpty s.sched) (l : Fin 6) (st : PathState) (cause : PathCause) :
    SchedEmpty (enterPath l st cause s).sched := by
  rw [enterPath_eq, runAllocator_frame]
  show SchedEmpty (pathEntered l st cause s).sched
  unfold pathEntered
  dsimp only
  have left (c : Prop) [Decidable c] : SchedEmpty (if c then loseEntries (fun e => e.path == l.1) (s.modPath l outOfService)
      else s).sched := by
    split
    · exact loseEntries_empty (s := s.modPath l outOfService) empty _
    · exact empty
  have raised (d : List Byte) {u : State} (held : SchedEmpty u.sched) : SchedEmpty (raise .pathState d u).sched := by
    rwa [(raise_inner .pathState d u).same .sched (by decide)]
  have asked (c : Prop) [Decidable c] {u : State} (held : SchedEmpty u.sched) : SchedEmpty (if c then letAskPath l u else u).sched := by
    split
    · exact held
    · exact held
  exact asked _ (raised _ (left _))

theorem silenceDue_empty {s : State} (empty : SchedEmpty s.sched) (l : Fin 6) : SchedEmpty (silenceDue l s).sched := by
  unfold silenceDue silenceExpiry
  have down := enterPath_empty (s := s.modPath l fun p => { p with silences := incSat16 p.silences }) empty l .down .silence
  have probing := enterPath_empty down l .probing .silence
  dsimp only
  split
  · split
    · exact probing
    · exact down
  · exact empty

/-- Nothing waits to be sent, and nothing will: no clip waits to ship, no program has a live cursor and none drains. -/
structure NothingWaits (s : State) : Prop where
  sched : SchedEmpty s.sched
  ships : s.clips.shipQueue = []
  cursor : ∀ q, (s.live q).cursor = none
  program : ∀ q, (s.prog q).st ≠ .draining

theorem NothingWaits.of_inner {ps : List Part} {s t : State} (waits : NothingWaits s) (kept : Inner ps s t)
    (apart : Part.clips ∉ ps ∧ Part.lives ∉ ps ∧ Part.progs ∉ ps) (sched : SchedEmpty t.sched) : NothingWaits t := by
  refine ⟨sched, by rw [kept.same .clips apart.1]; exact waits.ships, fun q => ?_, fun q => ?_⟩
  · have live : t.live q = s.live q := congrArg (fun v => v.get q) (kept.same .lives apart.2.1)
    rw [live]
    exact waits.cursor q
  · rw [prog_of_same kept apart.2.2]
    exact waits.program q

theorem NothingWaits.letAsk {s : State} (waits : NothingWaits s) : NothingWaits (letAsk s) :=
  ⟨waits.sched, waits.ships, waits.cursor, waits.program⟩

theorem NothingWaits.expiries {s : State} (waits : NothingWaits s) (ageFirst : Bool) : NothingWaits (expiries ageFirst s) := by
  refine expiries_holds (P := NothingWaits) (fun t holds => ?_) (fun l t holds => ?_) ageFirst waits
  · rw [expireEntries_frame]
    obtain ⟨⟨window, labels, cursor⟩, ships, lives, programs⟩ := holds
    exact ⟨⟨by rw [window]; rfl, labels, cursor⟩, ships, lives, programs⟩
  · exact holds.of_inner (silenceDue_inner l t) (by decide) (silenceDue_empty holds.sched l)

/-- A path that probes nothing stands where nothing waits. -/
theorem settle_of_nothing {s : State} {l : Fin 6} (waits : NothingWaits s) (probes : (s.path l).st ≠ .probing) :
    (settle s).path l = s.path l := by
  refine (settle_holds (P := fun t => NothingWaits t ∧ t.path l = s.path l) ?_ ⟨waits, rfl⟩).2
  have kept {ps : List Part} {t u : State} (h : Inner ps t u) (holds : NothingWaits t ∧ t.path l = s.path l)
      (apart : (Part.clips ∉ ps ∧ Part.lives ∉ ps ∧ Part.progs ∉ ps) ∧ Part.paths ∉ ps ∧ Part.sched ∉ ps) :
      NothingWaits u ∧ u.path l = s.path l :=
    ⟨holds.1.of_inner h apart.1 (by rw [h.same .sched apart.2.2]; exact holds.1.sched),
      (path_of_same h apart.2.1 l).trans holds.2⟩
  constructor
  · exact fun t v holds => ⟨⟨holds.1.sched, holds.1.ships, holds.1.cursor, holds.1.program⟩, holds.2⟩
  · intro k t holds probing _ _
    have other : k ≠ l := by
      rintro rfl
      exact probes (holds.2 ▸ probing)
    refine ⟨holds.1.of_inner (sendProbe_inner k t) (by decide) ?_, (sendProbe_path_ne other t).trans holds.2⟩
    rw [sendProbe_sched]
    exact holds.1.sched
  · intro k c d rest t holds _ _ queue _
    rw [holds.1.sched.2.1] at queue
    cases queue
  · intro k e t holds _ mem
    unfold resendQueue at mem
    rw [holds.1.sched.1] at mem
    cases mem
  · exact fun k p t holds _ some' => absurd (liveLength_of_nothing (pendingBytes_of_no_cursor (holds.1.cursor p))) some'
  · intro k x len t holds _ _ cursor _ _
    rw [holds.1.sched.2.2] at cursor
    cases cursor
  · intro p t holds
    rwa [staleCheck_of_nothing (pendingBytes_of_no_cursor (holds.1.cursor p))]
  · exact fun p t holds done => absurd (draining_of_done done) (holds.1.program p)
  · exact fun p t holds done => absurd (draining_of_drained done) (holds.1.program p)
  · intro t holds done
    unfold shipDone at done
    rw [holds.1.sched.2.2] at done
    cases done
  · intro t holds starts
    unfold shipCanStart at starts
    rw [holds.1.ships] at starts
    simp at starts
  · exact fun t holds => kept (freeZero_inner t) holds (by decide)

/-- No clip ships and none will: the clip bucket is `n`. -/
structure BucketStands (n : Nat) (s : State) : Prop where
  bucket : s.sched.bucket = n
  cursor : s.sched.clipCursor = none
  ships : s.clips.shipQueue = []
  program : ∀ q, (s.prog q).st ≠ .draining

theorem BucketStands.of_inner {n : Nat} {ps : List Part} {s t : State} (stands : BucketStands n s) (kept : Inner ps s t)
    (progs : Part.progs ∉ ps) (ships : t.clips.shipQueue = s.clips.shipQueue)
    (sched : t.sched.bucket = s.sched.bucket ∧ t.sched.clipCursor = s.sched.clipCursor) : BucketStands n t :=
  ⟨sched.1.trans stands.bucket, sched.2.trans stands.cursor, ships.trans stands.ships, fun q => by
    rw [prog_of_same kept progs]
    exact stands.program q⟩

theorem BucketStands.letAsk {n : Nat} {s : State} (stands : BucketStands n s) : BucketStands n (letAsk s) :=
  ⟨stands.bucket, stands.cursor, stands.ships, stands.program⟩

theorem labelSent_shipQueue (c r : Nat) (s : State) : (labelSent c r s).clips.shipQueue = s.clips.shipQueue := rfl

theorem takeLabel_shipQueue (l : Fin 6) (c : Nat) (k : Clip) (s : State) :
    (takeLabel l c k s).clips.shipQueue = s.clips.shipQueue := by
  unfold takeLabel
  dsimp only
  rw [labelSent_shipQueue, (enterWindow_inner _ _).same .clips (by decide)]
  rfl

theorem takeResend_shipQueue (l : Fin 6) (e : Entry) (s : State) :
    (takeResend l e s).clips.shipQueue = s.clips.shipQueue := by
  have reported (e : Entry) (u : State) : (reportLabel e u).clips.shipQueue = u.clips.shipQueue := by
    unfold reportLabel
    split <;> rfl
  unfold takeResend
  dsimp only
  rw [modSched_clips, reported, (removeEntries_inner _ _).same .clips (by decide),
    (enterWindow_inner _ _).same .clips (by decide)]
  rfl

theorem settle_bucket {n : Nat} {s : State} (stands : BucketStands n s) : (settle s).sched.bucket = n := by
  refine (settle_holds (P := BucketStands n) ?_ stands).bucket
  constructor
  · exact fun t v holds => ⟨holds.bucket, holds.cursor, holds.ships, holds.program⟩
  · intro k t holds _ _ _
    refine holds.of_inner (sendProbe_inner k t) (by decide) (by rw [(sendProbe_inner k t).same .clips (by decide)]) ?_
    rw [sendProbe_sched]
    exact ⟨rfl, rfl⟩
  · intro k c d _ t holds _ _ _ _
    refine holds.of_inner (takeLabel_parts k c d t) (by decide) (takeLabel_shipQueue ..) ?_
    rw [takeLabel_sched]
    exact ⟨rfl, rfl⟩
  · intro k e t holds _ _
    refine holds.of_inner (takeResend_parts k e t) (by decide) (takeResend_shipQueue ..) ?_
    rw [takeResend_sched]
    exact ⟨rfl, rfl⟩
  · intro k p t holds _ _
    refine holds.of_inner (takeLive_inner k p _ t) (by decide) (by rw [takeLive_clips]) ?_
    cases cursor : (t.live p).cursor with
    | none => rw [takeLive_of_no_cursor cursor]; exact ⟨rfl, rfl⟩
    | some place =>
      rw [takeLive_sched cursor]
      dsimp only
      rw [makeRoom_sched]
      exact ⟨rfl, rfl⟩
  · intro k x len t holds _ _ cursor _ _
    rw [holds.cursor] at cursor
    cases cursor
  · exact fun p t holds => holds.of_inner (staleCheck_inner p t) (by decide)
      (by rw [(staleCheck_inner p t).same .clips (by decide)]) (by rw [(staleCheck_inner p t).same .sched (by decide)]; exact ⟨rfl, rfl⟩)
  · exact fun p t holds done => absurd (draining_of_done done) (holds.program p)
  · exact fun p t holds done => absurd (draining_of_drained done) (holds.program p)
  · intro t holds done
    unfold shipDone at done
    rw [holds.cursor] at done
    cases done
  · intro t holds starts
    unfold shipCanStart at starts
    rw [holds.ships] at starts
    simp at starts
  · exact fun t holds => holds.of_inner (freeZero_inner t) (by decide)
      (by rw [(freeZero_inner t).same .clips (by decide)]) (by rw [(freeZero_inner t).same .sched (by decide)]; exact ⟨rfl, rfl⟩)

/-! ### The pacing tick -/

section
variable {s : State} (settled : s.tb.allocDue = false)
include settled

theorem pacingTick_tb : (pacingTick s).tb = timebasePacing s.tb := by
  rw [pacingTick_eq, (settle_inner _).same .tb (by decide)]
  refine ((expiries_inner _ _).same .tb (by decide)).trans ?_
  rw [pacingRefilled_of_settled settled]

theorem pacingRefilled_path (l : Fin 6) : (pacingRefilled s).path l = paced (s.path l) := by
  rw [pacingRefilled_of_settled settled]
  exact Vec_get_tab _ l

/-- A path that the tick's expiries leave, and that sends nothing. -/
theorem pacingTick_path {l : Fin 6}
    (quiet : inService (paced (s.path l)) = true → (paced (s.path l)).silence < s.uplink.silenceTimeout)
    (ends : ∀ t, t.path l = paced (s.path l) → (NothingWaits (pacingRefilled s) → NothingWaits t) → (settle t).path l = t.path l) :
    (pacingTick s).path l = paced (s.path l) := by
  have uplink : (pacingRefilled s).uplink.timeoutInForce = s.uplink.silenceTimeout := by
    rw [pacingRefilled_of_settled settled]
    rfl
  have path := pacingRefilled_path settled l
  have stands := expiries_path (l := l) (s := pacingRefilled s) (Config.ageBeforeSilence (incWrap32 s.tb.pacing))
    (by rw [path, uplink]; exact quiet)
  rw [path] at stands
  rw [pacingTick_eq]
  have waits := fun waits : NothingWaits (pacingRefilled s) => waits.expiries (Config.ageBeforeSilence (incWrap32 s.tb.pacing))
  generalize expiries (Config.ageBeforeSilence (incWrap32 s.tb.pacing)) (pacingRefilled s) = u at stands waits
  exact (ends (letAsk u) stands fun before => (waits before).letAsk).trans stands

theorem pacingTick_bucket (quiet : ∀ l, (s.path l).silence + 1 < s.uplink.silenceTimeout)
    (programs : ∀ q, (s.prog q).st ≠ .draining) (cursor : s.sched.clipCursor = none) (ships : s.clips.shipQueue = []) :
    (pacingTick s).sched.bucket = min (s.sched.bucket + s.alloc.clipRate) (100 * s.alloc.clipRate) := by
  have refilled : BucketStands (min (s.sched.bucket + s.alloc.clipRate) (100 * s.alloc.clipRate)) (pacingRefilled s) := by
    rw [pacingRefilled_of_settled settled]
    exact ⟨rfl, cursor, ships, programs⟩
  have short (l : Fin 6) : ((pacingRefilled s).path l).silence < (pacingRefilled s).uplink.timeoutInForce := by
    have timeout : (pacingRefilled s).uplink.timeoutInForce = s.uplink.silenceTimeout := by
      rw [pacingRefilled_of_settled settled]
      rfl
    have step : (paced (s.path l)).silence ≤ (s.path l).silence + 1 := by
      cases st : (s.path l).st with
      | off => rw [paced_of_resting (.inl st)]; exact Nat.le_succ _
      | down => rw [paced_of_resting (.inr st)]; exact Nat.le_succ _
      | probing => rw [paced_of_probing st]
      | up => rw [paced_of_carrying (.inl st)]
      | degraded => rw [paced_of_carrying (.inr st)]
    rw [pacingRefilled_path settled, timeout]
    exact Nat.lt_of_le_of_lt step (quiet l)
  rw [pacingTick_eq]
  refine settle_bucket ?_
  have expired : BucketStands (min (s.sched.bucket + s.alloc.clipRate) (100 * s.alloc.clipRate))
      (expiries (Config.ageBeforeSilence (incWrap32 s.tb.pacing)) (pacingRefilled s)) := by
    generalize pacingRefilled s = u at refilled short
    refine (expiries_holds (P := fun t => BucketStands _ t ∧ t.paths = u.paths ∧ t.uplink = u.uplink) (fun t holds => ?_) (fun l t holds => ?_) _ ⟨refilled, rfl, rfl⟩).1
    · rw [expireEntries_frame]
      exact ⟨⟨holds.1.bucket, holds.1.cursor, holds.1.ships, holds.1.program⟩, holds.2⟩
    · have stands : silenceDue l t = t := silenceDue_of_quiet (by
        have same : t.path l = u.path l := congrArg (fun v => v.get l) holds.2.1
        rw [same, holds.2.2]
        exact short l)
      rwa [stands]
  exact expired.letAsk

end

/-- Settles O14. -/
theorem pacingTickCountsAndRefills : Obligations.PacingTickCountsAndRefills := by
  intro s settled
  have taken : exec .pacingTick s = .next (pacingTick s) := rfl
  refine ⟨pacingTick s, taken, pacingTick_tb settled, fun l => ?_, pacingTick_bucket settled⟩
  intro p nothing probe
  have quietly {t : State} (at' : t.path l = paced p) (quiet : SendsNothing (paced p)) : (settle t).path l = t.path l :=
    settle_path (by rw [at']; exact quiet)
  refine ⟨fun rests => ?_, fun short => ⟨fun carrying quiet => ?_, fun probing quiet => ?_⟩⟩
  · have same : paced p = p := paced_of_resting rests
    have out : inService p = false := by rcases rests with h | h <;> rw [inService, h] <;> rfl
    rw [pacingTick_path settled (l := l) (fun works => by rw [same, out] at works; cases works)
      fun t at' _ => quietly at' (by rw [same]; exact .of_resting rests)]
    exact same
  · have value : paced p = _ := paced_of_carrying carrying
    have probes : (paced p).st ≠ .probing := by
      rw [value]
      rcases carrying with h | h <;> rw [h] <;> exact nofun
    refine (pacingTick_path settled (l := l) (fun _ => by rw [value]; exact short) fun t at' waits => ?_).trans value
    rcases quiet with busy | ⟨window, labels, cursor, ships, programs⟩
    · exact quietly at' (.of_busy (by rw [value]; exact busy))
    · refine settle_of_nothing (waits ?_) (by rw [at']; exact probes)
      rw [pacingRefilled_of_settled settled]
      exact ⟨⟨window, labels, cursor⟩, ships, fun q => (programs q).1, fun q => (programs q).2⟩
  · have value : paced p = _ := paced_of_probing probing
    refine (pacingTick_path settled (l := l) (fun _ => by rw [value]; exact short) fun t at' _ => quietly at' ?_).trans value
    rw [value]
    rcases quiet with busy | few
    · exact .of_busy busy
    · exact ⟨fun carrying => by
        rcases (carries_iff _).mp carrying with h | h <;> exact absurd (probing.symm.trans h) nofun, fun _ _ => few⟩

end Sys2Proof.Machine
end

section
/-! PROOFS. Reports (R138 to R143, R164 to R166, R191, R216): the layout reads back, and what acks, losses, entries and clip
requests leave where every port is busy. -/

namespace Sys2Proof.Machine

set_option Elab.async false

/-! ### The layout of a report (R216) -/

/-- A number that stands after `pre`, in bytes that go on after it. -/
theorem fieldAt_append {k n off : Nat} {pre : List Byte} (post : List Byte) (at' : pre.length = off) (fits : n < 256 ^ k) :
    fieldAt (pre ++ (be k n ++ post)) off k = n := by
  unfold fieldAt
  rw [List.drop_left' at', List.take_left' (be_length k n), fromBe_be, Nat.mod_eq_of_lt fits]

theorem length_flatMap_of_width {α : Type} {f : α → List Byte} {w : Nat} (width : ∀ x, (f x).length = w) (l : List α) :
    (l.flatMap f).length = w * l.length := by
  induction l with
  | nil => rfl
  | cons x xs ih => rw [List.flatMap_cons, List.length_append, width, ih, List.length_cons, Nat.mul_succ, Nat.add_comm]

/-- The entry of an index, in a list of entries of one width. -/
theorem flatMap_entry {α : Type} (f : α → List Byte) (l : List α) {i : Nat} (inside : i < l.length) :
    l.flatMap f = (l.take i).flatMap f ++ (f l[i] ++ (l.drop (i + 1)).flatMap f) := by
  have parts : l = l.take i ++ l[i] :: l.drop (i + 1) := by rw [List.getElem_cons_drop, List.take_append_drop]
  conv_lhs => rw [parts]
  rw [List.flatMap_append, List.flatMap_cons]

/-- A field of an entry of a list that stands after `pre`. -/
theorem fieldAt_entry {α : Type} {f : α → List Byte} {w : Nat} (width : ∀ x, (f x).length = w) {l : List α} {i : Nat}
    (inside : i < l.length) {k n at' : Nat} {before after pre post : List Byte} (entry : f l[i] = before ++ (be k n ++ after))
    (place : at' = pre.length + w * i + before.length) (fits : n < 256 ^ k) :
    fieldAt (pre ++ (l.flatMap f ++ post)) at' k = n := by
  have split : pre ++ (l.flatMap f ++ post) =
      (pre ++ (l.take i).flatMap f ++ before) ++ (be k n ++ (after ++ ((l.drop (i + 1)).flatMap f ++ post))) := by
    rw [flatMap_entry f l inside, entry]
    simp only [List.append_assoc]
  rw [split]
  refine fieldAt_append _ ?_ fits
  rw [List.length_append, List.length_append, length_flatMap_of_width width, List.length_take, Nat.min_eq_left inside.le, place]

theorem map_range_eq {α : Type} {l : List α} {g : Nat → α} (each : ∀ i (inside : i < l.length), g i = l[i]) :
    (List.range l.length).map g = l :=
  List.ext_getElem (by simp) fun i _ inside => by simp [each i inside]

/-- The bytes of a loss range, of a path entry and of a clip request. -/
def lossBytes (r : LossRange) : List Byte := u32 r.first ++ u32 r.last
def entryBytes (e : PathEntry) : List Byte := u8 e.path ++ u16 e.received ++ u16 e.missing
def requestBytes (q : ClipRequest) : List Byte := u8 q.clip ++ u32 q.creation

theorem lossBytes_length (r : LossRange) : (lossBytes r).length = 8 := by simp [lossBytes, u32, be_length]
theorem entryBytes_length (e : PathEntry) : (entryBytes e).length = 5 := by simp [entryBytes, u8, u16, be_length]
theorem requestBytes_length (q : ClipRequest) : (requestBytes q).length = 5 := by simp [requestBytes, u8, u32, be_length]

/-- A report whose values fit their fields. -/
structure Report.Fits (r : Report) : Prop where
  number : r.number < 2 ^ 16
  ack : r.ack < 2 ^ 32
  losses : r.losses.length ≤ 16 ∧ ∀ x ∈ r.losses, x.first < 2 ^ 32 ∧ x.last < 2 ^ 32
  entries : r.entries.length ≤ 16 ∧ ∀ e ∈ r.entries, e.path < 256 ∧ e.received < 2 ^ 16 ∧ e.missing < 2 ^ 16
  requests : r.requests.length ≤ 4 ∧ ∀ q ∈ r.requests, q.clip < 256 ∧ q.creation < 2 ^ 32

/-- The fields of a report before its lists. -/
def Report.head (r : Report) : List Byte :=
  [1#8, 4#8] ++ u16 r.number ++ u32 r.ack ++ u8 r.losses.length ++ u8 r.entries.length ++ u8 r.requests.length

theorem Report.head_length (r : Report) : r.head.length = 11 := by
  simp [Report.head, u8, u16, u32, be_length]

/-- What the check of a report covers. -/
def Report.content (r : Report) : List Byte :=
  r.head ++ (r.losses.flatMap lossBytes ++ (r.entries.flatMap entryBytes ++ r.requests.flatMap requestBytes))

theorem Report.content_length (r : Report) :
    r.content.length = 11 + 8 * r.losses.length + 5 * r.entries.length + 5 * r.requests.length := by
  simp only [Report.content, List.length_append, r.head_length, length_flatMap_of_width lossBytes_length,
    length_flatMap_of_width entryBytes_length, length_flatMap_of_width requestBytes_length, Nat.add_assoc]

section
variable {r : Report} (fits : r.Fits) (post : List Byte)
include fits

theorem Report.head_fields : fieldAt (r.content ++ post) 0 1 = 1 ∧ fieldAt (r.content ++ post) 1 1 = 4 ∧
    fieldAt (r.content ++ post) 2 2 = r.number ∧ fieldAt (r.content ++ post) 4 4 = r.ack ∧
    fieldAt (r.content ++ post) 8 1 = r.losses.length ∧ fieldAt (r.content ++ post) 9 1 = r.entries.length ∧
    fieldAt (r.content ++ post) 10 1 = r.requests.length := by
  have lengths := And.intro fits.losses.1 (And.intro fits.entries.1 fits.requests.1)
  have head : r.content ++ post = [1#8, 4#8] ++ (be 2 r.number ++ (be 4 r.ack ++ (be 1 r.losses.length ++
      (be 1 r.entries.length ++ (be 1 r.requests.length ++ (r.losses.flatMap lossBytes ++ (r.entries.flatMap entryBytes ++
        (r.requests.flatMap requestBytes ++ post)))))))) := by
    simp only [Report.content, Report.head, u8, u16, u32, List.append_assoc]
  rw [head]
  refine ⟨rfl, rfl, fieldAt_append _ rfl fits.number, ?_, ?_, ?_, ?_⟩
  · rw [← List.append_assoc]
    exact fieldAt_append _ (by simp [be_length]) fits.ack
  · rw [← List.append_assoc, ← List.append_assoc]
    exact fieldAt_append _ (by simp [be_length]) (by omega)
  · rw [← List.append_assoc, ← List.append_assoc, ← List.append_assoc]
    exact fieldAt_append _ (by simp [be_length]) (by omega)
  · rw [← List.append_assoc, ← List.append_assoc, ← List.append_assoc, ← List.append_assoc]
    exact fieldAt_append _ (by simp [be_length]) (by omega)

theorem Report.losses_read : ((List.range r.losses.length).map fun i =>
    (⟨fieldAt (r.content ++ post) (11 + 8 * i) 4, fieldAt (r.content ++ post) (15 + 8 * i) 4⟩ : LossRange)) = r.losses := by
  refine map_range_eq fun i inside => ?_
  obtain ⟨first, last⟩ := fits.losses.2 _ (List.getElem_mem inside)
  have split : r.content ++ post = r.head ++ (r.losses.flatMap lossBytes ++
      (r.entries.flatMap entryBytes ++ r.requests.flatMap requestBytes ++ post)) := by
    simp only [Report.content, List.append_assoc]
  rw [split, fieldAt_entry lossBytes_length inside (before := []) rfl (by simp [r.head_length]) first,
    fieldAt_entry lossBytes_length inside (before := u32 r.losses[i].first) (after := []) (n := r.losses[i].last)
      (by simp [lossBytes, u32]) (by simp [r.head_length, u32, be_length]; omega) last]

theorem Report.entries_read : ((List.range r.entries.length).map fun i =>
    (⟨fieldAt (r.content ++ post) (11 + 8 * r.losses.length + 5 * i) 1,
      fieldAt (r.content ++ post) (11 + 8 * r.losses.length + 5 * i + 1) 2,
      fieldAt (r.content ++ post) (11 + 8 * r.losses.length + 5 * i + 3) 2⟩ : PathEntry)) = r.entries := by
  refine map_range_eq fun i inside => ?_
  obtain ⟨path, received, missing⟩ := fits.entries.2 _ (List.getElem_mem inside)
  have split : r.content ++ post = (r.head ++ r.losses.flatMap lossBytes) ++ (r.entries.flatMap entryBytes ++
      (r.requests.flatMap requestBytes ++ post)) := by
    simp only [Report.content, List.append_assoc]
  have start : (r.head ++ r.losses.flatMap lossBytes).length = 11 + 8 * r.losses.length := by
    rw [List.length_append, r.head_length, length_flatMap_of_width lossBytes_length]
  rw [split,
    fieldAt_entry entryBytes_length inside (before := []) (after := u16 r.entries[i].received ++ u16 r.entries[i].missing)
      (n := r.entries[i].path) (by simp [entryBytes, u8]) (by simp [start]) path,
    fieldAt_entry entryBytes_length inside (before := u8 r.entries[i].path) (after := u16 r.entries[i].missing)
      (n := r.entries[i].received) (by simp [entryBytes, u16]) (by simp [start, u8, be_length]) received,
    fieldAt_entry entryBytes_length inside (before := u8 r.entries[i].path ++ u16 r.entries[i].received) (after := [])
      (n := r.entries[i].missing) (by simp [entryBytes, u16]) (by simp [start, u8, u16, be_length]) missing]

theorem Report.requests_read : ((List.range r.requests.length).map fun i =>
    (⟨fieldAt (r.content ++ post) (11 + 8 * r.losses.length + 5 * r.entries.length + 5 * i) 1,
      fieldAt (r.content ++ post) (11 + 8 * r.losses.length + 5 * r.entries.length + 5 * i + 1) 4⟩ : ClipRequest)) =
    r.requests := by
  refine map_range_eq fun i inside => ?_
  obtain ⟨clip, creation⟩ := fits.requests.2 _ (List.getElem_mem inside)
  have split : r.content ++ post = (r.head ++ r.losses.flatMap lossBytes ++ r.entries.flatMap entryBytes) ++
      (r.requests.flatMap requestBytes ++ post) := by
    simp only [Report.content, List.append_assoc]
  have start : (r.head ++ r.losses.flatMap lossBytes ++ r.entries.flatMap entryBytes).length =
      11 + 8 * r.losses.length + 5 * r.entries.length := by
    rw [List.length_append, List.length_append, r.head_length, length_flatMap_of_width lossBytes_length,
      length_flatMap_of_width entryBytes_length]
  rw [split,
    fieldAt_entry requestBytes_length inside (before := []) (after := u32 r.requests[i].creation)
      (n := r.requests[i].clip) (by simp [requestBytes, u8]) (by rw [start, List.length_nil, Nat.add_zero]) clip,
    fieldAt_entry requestBytes_length inside (before := u8 r.requests[i].clip) (after := [])
      (n := r.requests[i].creation) (by simp [requestBytes, u32]) (by rw [start, u8, be_length]) creation]

/-- A report whose values fit reads back from its content and check, whatever bytes follow. -/
theorem parseReport_content (padding : List Byte) :
    parseReport (r.content ++ (u16 (crc16 r.content) ++ padding)) = some r := by
  let post := u16 (crc16 r.content) ++ padding
  obtain ⟨version, kind, number, ack, losses, entries, requests⟩ := r.head_fields fits post
  have length := r.content_length
  have check : fieldAt (r.content ++ post) (11 + 8 * r.losses.length + 5 * r.entries.length + 5 * r.requests.length) 2 =
      crc16 r.content := fieldAt_append padding length (crc16_lt _)
  have covered : (r.content ++ post).take (11 + 8 * r.losses.length + 5 * r.entries.length + 5 * r.requests.length) =
      r.content := by rw [← length, List.take_left]
  have size : (r.content ++ post).length = r.content.length + (2 + padding.length) := by
    simp [post, u16, be_length]
  have limits := And.intro fits.losses.1 (And.intro fits.entries.1 fits.requests.1)
  show parseReport (r.content ++ post) = some r
  unfold parseReport
  dsimp only
  rw [losses, entries, requests, check, covered, version, kind, number, ack, r.losses_read fits, r.entries_read fits,
    r.requests_read fits, if_pos ⟨by omega, rfl, rfl, limits.1, limits.2.1, limits.2.2, by omega, rfl⟩]

end

/-- A report whose values fit reads back from its frame. -/
theorem frameReport_frame {r : Report} (fits : r.Fits) {address : List Byte} (twelve : address.length = 12)
    (padding : List Byte) :
    frameReport (address ++ u16 0x88B5 ++ r.content ++ u16 (crc16 r.content) ++ padding) = some r := by
  have split : address ++ u16 0x88B5 ++ r.content ++ u16 (crc16 r.content) ++ padding =
      address ++ (be 2 0x88B5 ++ (r.content ++ (u16 (crc16 r.content) ++ padding))) := by
    simp only [u16, List.append_assoc]
  have type_ := fieldAt_append (k := 2) (r.content ++ (u16 (crc16 r.content) ++ padding)) twelve (by decide : 0x88B5 < 256 ^ 2)
  have rest : (address ++ (be 2 0x88B5 ++ (r.content ++ (u16 (crc16 r.content) ++ padding)))).drop 14 =
      r.content ++ (u16 (crc16 r.content) ++ padding) := by
    rw [← List.append_assoc]
    exact List.drop_left' (by simp [twelve, be_length])
  rw [split]
  unfold frameReport
  rw [type_, rest, if_pos ⟨rfl, by simp [twelve, be_length]; omega⟩, parseReport_content fits]

end Sys2Proof.Machine
end

section
/-! PROOFS. What an accepted report leaves: the acks and losses in the window, the record of each path, the counts of the
uplink, and the clip that a request names (R138, R139, R143, R164 to R166, R191). -/

namespace Sys2Proof.Machine

set_option Elab.async false

/-! ### The end of an event in which no path sends -/

/-- What the operations at the end of an event keep, where none of them sends a packet. -/
structure QuietKeeps (P : State → Prop) : Prop where
  asking : ∀ s v, P s → P (s.modSched fun c => { c with asking := v })
  stale : ∀ p s, P s → P (staleCheck p s)
  ended : ∀ p s, P s → writingDone p s = true → P (endWriting p s)
  drain : ∀ p s, P s → drained p s = true → P (completeDrain p s)
  shipped : ∀ s, P s → shipDone s = true → P (completeShip s)
  started : ∀ s, P s → shipCanStart s = true → P (startShip s)
  frees : ∀ s, P s → P (freeZero s)

/-- The end of an event in which no path can send. -/
theorem settle_holds_of_quiet {P : State → Prop} (K : QuietKeeps P) {s : State} (quiet : ∀ l, SendsNothing (s.path l))
    (holds : P s) : P (settle s) := by
  have not {k : Fin 6} {t : State} (still : ∀ l, t.path l = s.path l) (asks : Asks k t) : False := by
    rw [Asks, still] at asks
    exact absurd ((quiet k).packet asks.1 asks.2.1) asks.2.2.ne'
  have kept {ps : List Part} {t u : State} (h : Inner ps t u) (paths : Part.paths ∉ ps)
      (still : ∀ l, t.path l = s.path l) (l : Fin 6) : u.path l = s.path l := (path_of_same h paths l).trans (still l)
  refine (settle_holds (P := fun t => (∀ l, t.path l = s.path l) ∧ P t) ?_ ⟨fun _ => rfl, holds⟩).2
  constructor
  · exact fun t v h => ⟨h.1, K.asking t v h.2⟩
  · intro k t h probing idle credit
    rw [h.1] at probing idle credit
    exact absurd ((quiet k).probe probing idle) (Nat.not_lt.mpr credit)
  · exact fun k c d rest t h asks _ _ _ => (not h.1 asks).elim
  · exact fun k e t h asks _ => (not h.1 asks).elim
  · exact fun k p t h asks _ => (not h.1 asks).elim
  · exact fun k c len t h asks _ _ _ _ => (not h.1 asks).elim
  · exact fun p t h => ⟨kept (staleCheck_inner p t) (by decide) h.1, K.stale p t h.2⟩
  · exact fun p t h done => ⟨kept (endWriting_inner p t) (by decide) h.1, K.ended p t h.2 done⟩
  · exact fun p t h done => ⟨kept (completeDrain_inner p t) (by decide) h.1, K.drain p t h.2 done⟩
  · exact fun t h done => ⟨kept (completeShip_inner t) (by decide) h.1, K.shipped t h.2 done⟩
  · exact fun t h can => ⟨kept (startShip_inner t) (by decide) h.1, K.started t h.2 can⟩
  · exact fun t h => ⟨kept (freeZero_inner t) (by decide) h.1, K.frees t h.2⟩

/-- What holds of the scheduler, whatever the label queue, what may ask, and the clip cursor are. -/
theorem QuietKeeps.of_sched {P : Scheduler → Prop} (only : ∀ c d, OnlyLabels c d → P c → P d)
    (cursor : ∀ c k, P c → P { c with clipCursor := k }) : QuietKeeps fun s => P s.sched := by
  have kept {ps : List Part} {s t : State} (h : Inner ps s t) (not : Part.sched ∉ ps) (holds : P s.sched) : P t.sched := by
    rwa [h.same .sched not]
  constructor
  · exact fun s v holds => only s.sched _ rfl holds
  · exact fun p s holds => kept (staleCheck_inner p s) (by decide) holds
  · exact fun p s holds _ => kept (endWriting_inner p s) (by decide) holds
  · exact fun p s holds _ => only _ _ (completeDrain_sched p s) holds
  · intro s holds _
    rw [completeShip_sched]
    exact cursor _ _ holds
  · intro s holds _
    refine only { s.sched with clipCursor := (startShip s).sched.clipCursor } _ ?_ (cursor _ _ holds)
    rw [startShip_sched]
    rfl
  · exact fun s holds => kept (freeZero_inner s) (by decide) holds


/-- Clips that complete and start, one after the other. -/
theorem settleShip_holds {P : State → Prop} (shipped : ∀ s, P s → shipDone s = true → P (completeShip s))
    (started : ∀ s, P s → shipCanStart s = true → P (startShip s)) {s : State} (holds : P s) : P (settleShip s) := by
  unfold settleShip
  generalize 130 = n
  induction n generalizing s with
  | zero => exact holds
  | succ n ih =>
    unfold settleShipN
    split
    · exact ih (shipped s holds ‹_›)
    · split
      · exact ih (started s holds ‹_›)
      · exact holds

/-! ### The scheduler's values that nothing but a report and a packet changes -/

/-- The window, the losses counted and the abandoned list stand. -/
structure WindowStands (c d : Scheduler) : Prop where
  window : d.window = c.window
  byLoss : d.byLoss = c.byLoss
  abandoned : d.abandoned = c.abandoned

/-- The acks and late acks counted stand. -/
structure AcksStand (c d : Scheduler) : Prop where
  acked : d.acked = c.acked
  lateAcks : d.lateAcks = c.lateAcks

theorem WindowStands.of_onlyLabels {b c d : Scheduler} (stands : WindowStands b c) (only : OnlyLabels c d) :
    WindowStands b d := by
  unfold OnlyLabels at only
  rw [only]
  exact ⟨stands.window, stands.byLoss, stands.abandoned⟩

theorem AcksStand.of_onlyLabels {b c d : Scheduler} (stands : AcksStand b c) (only : OnlyLabels c d) : AcksStand b d := by
  unfold OnlyLabels at only
  rw [only]
  exact ⟨stands.acked, stands.lateAcks⟩

theorem windowStands_quiet (b : Scheduler) : QuietKeeps fun s => WindowStands b s.sched :=
  .of_sched (P := WindowStands b) (fun _ _ only stands => stands.of_onlyLabels only)
    fun _ _ stands => ⟨stands.window, stands.byLoss, stands.abandoned⟩

theorem acksStand_quiet (b : Scheduler) : QuietKeeps fun s => AcksStand b s.sched :=
  .of_sched (P := AcksStand b) (fun _ _ only stands => stands.of_onlyLabels only)
    fun _ _ stands => ⟨stands.acked, stands.lateAcks⟩

theorem QuietKeeps.settleShip {P : State → Prop} (K : QuietKeeps P) {s : State} (holds : P s) : P (settleShip s) :=
  settleShip_holds K.shipped K.started holds

/-- The scheduler differs in what a loss of entries changes, and in the clip bucket. -/
def OnlyLosses (c d : Scheduler) : Prop :=
  d = { c with window := d.window, byLoss := d.byLoss, abandoned := d.abandoned, asking := d.asking, bucket := d.bucket }

theorem OnlyLosses.refl (c : Scheduler) : OnlyLosses c c := rfl

theorem OnlyLosses.trans {b c d : Scheduler} (h : OnlyLosses b c) (k : OnlyLosses c d) : OnlyLosses b d := by
  unfold OnlyLosses at *
  rw [k, h]

theorem AcksStand.of_onlyLosses {b c d : Scheduler} (stands : AcksStand b c) (only : OnlyLosses c d) : AcksStand b d := by
  unfold OnlyLosses at only
  rw [only]
  exact ⟨stands.acked, stands.lateAcks⟩

theorem OnlyLosses.of_losses (c : Scheduler) (w : List Entry) (n : Nat) (l : List Nat) :
    OnlyLosses c { c with window := w, byLoss := n, abandoned := l } := rfl

theorem OnlyLosses.clipCursor {c d : Scheduler} (only : OnlyLosses c d) : d.clipCursor = c.clipCursor := by
  unfold OnlyLosses at only
  rw [only]

theorem loseEntries_losses (lost : Entry → Bool) (s : State) : OnlyLosses s.sched (loseEntries lost s).sched := by
  have asks (c : Prop) [Decidable c] : OnlyLosses s.sched (if c then letAsk s else s).sched := by split <;> rfl
  unfold loseEntries
  dsimp only
  rw [modSched_sched, abandon_frame]
  exact (asks _).trans (.of_losses _ _ _ _)

theorem runAllocator_losses (cause : AllocCause) (s : State) : OnlyLosses s.sched (runAllocator cause s).sched := by
  rw [runAllocator_frame]
  rfl

theorem enterPath_losses (l : Fin 6) (st : PathState) (cause : PathCause) (s : State) :
    OnlyLosses s.sched (enterPath l st cause s).sched := by
  have left (b : Bool) : OnlyLosses s.sched
      (if b then loseEntries (fun e => e.path == l.1) (s.modPath l outOfService) else s).sched := by
    cases b
    · exact .refl _
    · exact loseEntries_losses _ (s.modPath l outOfService)
  have asks (b : Bool) (u : State) : OnlyLosses u.sched (if b then letAskPath l u else u).sched := by
    cases b <;> rfl
  rw [enterPath_eq]
  refine OnlyLosses.trans ?_ (runAllocator_losses _ _)
  unfold pathEntered
  dsimp only
  refine OnlyLosses.trans ?_ (asks _ _)
  rw [(raise_inner .pathState _ _).same .sched (by decide), modPath_sched]
  exact left _

/-! ### The path entries (R139, R142) -/

/-- Taking an entry is changes of the path's record and entries of the path into a state. -/
theorem takeEntry_holds {P : State → Prop} {l : Fin 6} (mods : ∀ f t, P t → P (t.modPath l f))
    (enters : ∀ st cause t, P t → P (enterPath l st cause t)) (e : PathEntry) {s : State} (holds : P s) :
    P (takeEntry l e s) := by
  have fed : P (if inService (s.path l) then s.modPath l fun p => { p with silence := 0 } else s) := by
    split
    · exact mods _ _ holds
    · exact holds
  have moves (c : EntryClass) {t : State} (held : P t) : P (moveState l c t) := by
    unfold moveState
    dsimp only
    split
    · split
      · exact enters _ _ _ (mods _ _ held)
      · split
        · exact enters _ _ _ (mods _ _ held)
        · exact held
    · split
      · exact enters _ _ _ (mods _ _ held)
      · split
        · exact enters _ _ _ (mods _ _ held)
        · exact mods _ _ held
  unfold takeEntry
  dsimp only
  split
  · exact holds
  · exact holds
  · split
    · exact mods _ _ (enters _ _ _ (mods _ _ fed))
    · exact fed
  · exact moves _ (mods _ _ fed)
  · exact moves _ (mods _ _ fed)

theorem takeEntry_path_ne {l k : Fin 6} (other : l ≠ k) (e : PathEntry) (s : State) :
    (takeEntry l e s).path k = s.path k := by
  refine takeEntry_holds (P := fun t => t.path k = s.path k) (fun f t holds => ?_) (fun st cause t holds => ?_) e rfl
  · rw [modPath_path, if_neg other, holds]
  · rw [enterPath_path, if_neg other, holds]

theorem takeEntry_losses (l : Fin 6) (e : PathEntry) (s : State) : OnlyLosses s.sched (takeEntry l e s).sched :=
  takeEntry_holds (P := fun t => OnlyLosses s.sched t.sched) (fun _ _ holds => holds)
    (fun st cause t holds => holds.trans (enterPath_losses l st cause t)) e (.refl _)

/-- The record of a path after its entry, by the threshold of bad reports. -/
def takenPath (threshold : Nat) (e : PathEntry) (p : Path) : Path :=
  let c := classify threshold p e
  match p.st with
  | .off => p
  | .down => p
  | .probing =>
    if 0 < e.received ∧ p.probeSince = true then
      capCredit (entered .up { p with silence := 0, estimate := min p.initial p.ceiling, good := 0, bad := 0 })
    else { p with silence := 0 }
  | .up =>
    if c = .empty ∨ c = .bad then entered .degraded { pathAfter c p with good := 0, bad := if c = .empty then 1 else 0 }
    else pathAfter c p
  | .degraded =>
    if (degradedAfter c p).good = 3 then entered .up { degradedAfter c p with good := 0, bad := 0 }
    else if (degradedAfter c p).bad = 3 then entered .down (outOfService (degradedAfter c p))
    else degradedAfter c p

theorem takeEntry_path (l : Fin 6) (e : PathEntry) (s : State) :
    (takeEntry l e s).path l = takenPath s.uplink.badThreshold e (s.path l) := by
  unfold takenPath
  dsimp only
  split
  next st => rw [takeEntry_of_rest l e s (.inl st)]
  next st => rw [takeEntry_of_rest l e s (.inr st)]
  next st =>
    rw [takeEntry_of_probing l e s st]
    split
    · rw [answerProbe_path, modified_path]
    · rw [modified_path]
  next st =>
    split
    · rename_i bad
      exact takeEntry_up_of_bad st rfl bad
    · rename_i good
      rw [takeEntry_up_of_good st rfl (not_or.mp good), modified_path]
  next st =>
    have carrying : inService (degradedAfter (classify s.uplink.badThreshold (s.path l) e) (s.path l)) = true := by
      refine (inService_iff _).mpr (.inr (.inr (Eq.trans ?_ st)))
      cases classify s.uplink.badThreshold (s.path l) e <;> rfl
    rw [takeEntry_degraded st rfl]
    split
    · exact enterPath_modPath_carrying l s (.inl rfl) _ _
    · split
      · rw [enterPath_path_own, modified_path, carrying]
        rfl
      · rw [modified_path]

end Sys2Proof.Machine
end

section
/-! PROOFS. The parts of an accepted report, put together: its acks, its losses, its path entries and its clip request
(R138, R139, R143, R164 to R166, R191). -/

namespace Sys2Proof.Machine

set_option Elab.async false

/-! ### The path entries together -/

/-- An operation on every path in turn, seen from one path: the ones before it and after it keep what holds, its own
leads from `Q` to `R`. -/
theorem eachPath_own {f : Fin 6 → State → State} {Q R : State → Prop} (k : Fin 6) (before : ∀ i t, i ≠ k → Q t → Q (f i t))
    (own : ∀ t, Q t → R (f k t)) (after : ∀ i t, i ≠ k → R t → R (f i t)) {s : State} (holds : Q s) : R (eachPath f s) := by
  have list (is : List (Fin 6)) (others : ∀ i ∈ is, i ≠ k) :
      (∀ t, Q t → Q (is.foldl (fun t i => f i t) t)) ∧ ∀ t, R t → R (is.foldl (fun t i => f i t) t) := by
    induction is with
    | nil => exact ⟨fun _ h => h, fun _ h => h⟩
    | cons i is ih =>
      obtain ⟨first, second⟩ := ih fun j mem => others j (List.mem_cons_of_mem _ mem)
      have other := others i List.mem_cons_self
      exact ⟨fun t h => first _ (before i t other h), fun t h => second _ (after i t other h)⟩
  have split : List.finRange 6 = (List.finRange 6).take k.1 ++ k :: (List.finRange 6).drop (k.1 + 1) := by
    fin_cases k <;> rfl
  have apart : (∀ i ∈ (List.finRange 6).take k.1, i ≠ k) ∧ ∀ i ∈ (List.finRange 6).drop (k.1 + 1), i ≠ k := by
    fin_cases k <;> decide
  have folds : eachPath f s = (List.finRange 6).foldl (fun t i => f i t) s := rfl
  rw [folds, split, List.foldl_append, List.foldl_cons]
  exact (list _ apart.2).2 _ (own _ ((list _ apart.1).1 _ holds))

/-- The entries of a report, to the paths in turn. -/
def entriesTaken (es : List PathEntry) (s : State) : State :=
  eachPath (fun l t => (es.find? fun e => e.path == l.1).elim t fun e => takeEntry l e t) s

theorem applyEntries_eq (es : List PathEntry) (s : State) : applyEntries es s = entriesTaken es
    (s.modUplink fun u => { u with ignored := min (u.ignored + ignoredEntries [] es) 65535 }) := by
  unfold applyEntries entriesTaken
  refine congrArg (fun f => eachPath f _) (funext fun l => funext fun t => ?_)
  cases es.find? fun e => e.path == l.1 <;> rfl

theorem entriesTaken_inner (es : List PathEntry) (s : State) : Inner pathParts s (entriesTaken es s) := by
  refine .eachPath _ (fun l t => ?_) s
  cases es.find? fun e => e.path == l.1 with
  | none => exact .refl _ _
  | some e => exact takeEntry_inner l e t

theorem entriesTaken_losses (es : List PathEntry) (s : State) : OnlyLosses s.sched (entriesTaken es s).sched := by
  refine eachPath_holds (P := fun t => OnlyLosses s.sched t.sched) (fun l t holds => ?_) (.refl _)
  cases es.find? fun e => e.path == l.1 with
  | none => exact holds
  | some e => exact holds.trans (takeEntry_losses l e t)

/-- Each path takes the first entry that names it. -/
theorem entriesTaken_path (es : List PathEntry) (s : State) (k : Fin 6) : (entriesTaken es s).path k =
    (es.find? fun e => e.path == k.1).elim (s.path k) fun e => takenPath s.uplink.badThreshold e (s.path k) := by
  have other (l : Fin 6) (t : State) (ne : l ≠ k) :
      ((es.find? fun e => e.path == l.1).elim t fun e => takeEntry l e t).path k = t.path k := by
    cases es.find? fun e => e.path == l.1 with
    | none => rfl
    | some e => exact takeEntry_path_ne ne e t
  have uplink (l : Fin 6) (t : State) :
      ((es.find? fun e => e.path == l.1).elim t fun e => takeEntry l e t).uplink = t.uplink := by
    cases es.find? fun e => e.path == l.1 with
    | none => rfl
    | some e => exact (takeEntry_inner l e t).same .uplink (by decide)
  refine eachPath_own (Q := fun t => t.path k = s.path k ∧ t.uplink = s.uplink) k (fun l t ne h => ?_) (fun t h => ?_)
    (fun l t ne h => (other l t ne).trans h) ⟨rfl, rfl⟩
  · exact ⟨(other l t ne).trans h.1, (uplink l t).trans h.2⟩
  · cases es.find? fun e => e.path == k.1 with
    | none => exact h.1
    | some e =>
      show (takeEntry k e t).path k = _
      rw [takeEntry_path, h.1, h.2]
      rfl

theorem outOfService_quiet (p : Path) : SendsNothing (entered .down (outOfService p)) := .of_resting (.inr rfl)

/-- A path whose port is busy does not send after its entry: it stays busy, or is DOWN. -/
theorem takenPath_quiet {threshold : Nat} {e : PathEntry} {p : Path} (busy : p.port ≠ none) :
    SendsNothing (takenPath threshold e p) := by
  have after (c : EntryClass) : (pathAfter c p).port = p.port := by cases c <;> rfl
  have degraded (c : EntryClass) : (degradedAfter c p).port = p.port := by cases c <;> rfl
  unfold takenPath
  dsimp only
  split
  · exact .of_busy busy
  · exact .of_busy busy
  · split
    · exact .of_busy busy
    · exact .of_busy busy
  · split
    · exact .of_busy (by rw [← after (classify threshold p e)] at busy; exact busy)
    · exact .of_busy (by rw [after]; exact busy)
  · split
    · exact .of_busy (by rw [← degraded (classify threshold p e)] at busy; exact busy)
    · split
      · exact outOfService_quiet _
      · exact .of_busy (by rw [degraded]; exact busy)

theorem restartInterval_quiet {p : Path} (quiet : SendsNothing p) : SendsNothing (restartInterval p) :=
  ⟨quiet.packet, quiet.probe⟩

/-- The entries ignored, by their places in the list. -/
theorem ignoredEntries_eq (es : List PathEntry) : ignoredEntries [] es =
    (es.zipIdx.filter fun x => decide (6 ≤ x.1.path) || (es.take x.2).any fun e => e.path == x.1.path).length := by
  have general (before es : List PathEntry) : ignoredEntries (before.map PathEntry.path).reverse es =
      ((es.zipIdx before.length).filter fun x =>
        decide (6 ≤ x.1.path) || ((before ++ es).take x.2).any fun e => e.path == x.1.path).length := by
    induction es generalizing before with
    | nil => rfl
    | cons e es ih =>
      have rest := ih (before ++ [e])
      simp only [List.map_append, List.reverse_append, List.length_append, List.append_assoc, List.map_cons, List.map_nil,
        List.reverse_cons, List.reverse_nil, List.nil_append, List.singleton_append, List.length_cons, List.length_nil] at rest
      have seen : (before.map PathEntry.path).reverse.contains e.path = before.any fun x => x.path == e.path := by
        rw [Bool.eq_iff_iff, List.contains_iff_mem, List.any_eq_true]
        simp
      unfold ignoredEntries
      rw [List.zipIdx_cons, List.filter_cons, List.take_left, ← seen]
      by_cases counts : 6 ≤ e.path ∨ (before.map PathEntry.path).reverse.contains e.path = true
      · rw [if_pos counts, if_pos (by simpa using counts), List.length_cons, ← rest, Nat.add_comm]
      · rw [if_neg counts, if_neg (by simpa using counts), ← rest, Nat.zero_add]
  exact general [] es


/-! ### Acks and losses (R164 to R166) -/

/-- The state after the counts of an accepted report and its cumulative ack. -/
def ackTaken (r : Report) (s : State) : State :=
  applyAck r.ack (s.modUplink fun u => { u with lastReport := some r.number, accepted := incWrap32 u.accepted })

theorem ackLabels_inner (es : List Entry) (s : State) : Inner [.clips] s (es.foldl (fun t e => ackLabel e t) s) :=
  .foldl (ps := [.clips]) _ (fun t e => ackLabel_inner e t) _ _

theorem ackTaken_inner (r : Report) (s : State) : Inner [.uplink, .clips, .sched, .chains] s (ackTaken r s) :=
  ((modUplink_inner s _).widen).andThen (applyAck_inner r.ack _)

theorem applyAck_sched (a : Nat) (s : State) : (applyAck a s).sched = { s.sched with
    window := s.sched.window.filter fun e => !atOrBelow32 e.send a
    acked := (s.sched.acked + s.sched.window.countP fun e => atOrBelow32 e.send a) % 2 ^ 32
    lateAcks := (s.sched.lateAcks + s.sched.abandoned.countP fun n => atOrBelow32 n a) % 2 ^ 32
    abandoned := s.sched.abandoned.filter fun n => !atOrBelow32 n a } := by
  unfold applyAck
  dsimp only
  rw [(ackLabels_inner _ _).same .sched (by decide), modSched_sched, removeEntries_sched, List.countP_eq_length_filter,
    List.countP_eq_length_filter]

theorem ackTaken_uplink (r : Report) (s : State) : (ackTaken r s).uplink =
    { s.uplink with lastReport := some r.number, accepted := incWrap32 s.uplink.accepted } :=
  (applyAck_inner r.ack _).same .uplink (by decide)

theorem ackTaken_sched (r : Report) (s : State) : (ackTaken r s).sched = (applyAck r.ack s).sched := by
  unfold ackTaken
  rw [applyAck_sched, applyAck_sched]
  rfl

/-- The losses that the ranges name, among the entries that the ack leaves: what becomes of the window. -/
theorem loseEntries_sched (lost : Entry → Bool) (s : State) :
    let gone := fun e => lost e && isGivenUp s e
    (loseEntries lost s).sched.byLoss = (s.sched.byLoss + s.sched.window.countP gone) % 2 ^ 32 ∧
      (loseEntries lost s).sched.abandoned =
        abandonedWith s.sched.abandoned ((s.sched.window.filter gone).map Entry.send) := by
  intro gone
  have asks (c : Prop) [Decidable c] : (if c then letAsk s else s).sched.window = s.sched.window ∧
      (if c then letAsk s else s).sched.byLoss = s.sched.byLoss ∧
      (if c then letAsk s else s).sched.abandoned = s.sched.abandoned := by split <;> exact ⟨rfl, rfl, rfl⟩
  unfold loseEntries
  dsimp only
  rw [modSched_sched, abandon_frame]
  dsimp only
  rw [(asks _).1, (asks _).2.1, (asks _).2.2, List.countP_eq_length_filter]
  exact ⟨rfl, rfl⟩

/-! ### Clips that a report may name (R191) -/

/-- The creation number and the state of a record, absent when FREE. -/
def standing (l : ClipLog) (c : Fin 64) : Option (Nat × ClipState) := (l.recs.get c).map fun k => (k.creation, k.st)

theorem standing_recChanged (c : Nat) (d : Fin 64) (f : Clip → Clip) (l : ClipLog) : standing (recChanged c f l) d =
    if Fin.ofNat 64 c = d then (l.recs.get d).map fun k => ((f k).creation, (f k).st) else standing l d := by
  show Option.map _ ((Vec.put _ _ _).get d) = _
  rw [Vec_get_put]
  split
  · rename_i same
    subst same
    rw [Option.map_map]
    rfl
  · rfl

/-- A change of a record that keeps its creation number and state. -/
theorem standing_of_alike {f : Clip → Clip} (alike : ∀ k, (f k).creation = k.creation ∧ (f k).st = k.st) (c : Nat)
    (d : Fin 64) (l : ClipLog) : standing (recChanged c f l) d = standing l d := by
  rw [standing_recChanged]
  split
  · exact congrArg (fun g => Option.map g (l.recs.get d)) (funext fun k => by rw [(alike k).1, (alike k).2])
  · rfl

/-- Ship queue, home counts, and every record's creation number and state stand. -/
structure StandingsKept (l m : ClipLog) : Prop where
  recs : ∀ d, standing m d = standing l d
  shipQueue : m.shipQueue = l.shipQueue
  accepted : m.homeAccepted = l.homeAccepted
  refused : m.homeRefused = l.homeRefused

theorem labelAcked_standings (l : ClipLog) (c r : Nat) {s : State} (kept : StandingsKept l s.clips) :
    StandingsKept l (labelAcked c r s).clips := by
  unfold labelAcked
  split
  · split
    · have same (d : Fin 64) : standing (recChanged c (fun k => { k with label := .confirmed }) s.clips) d =
          standing s.clips d := standing_of_alike (f := fun k => { k with label := .confirmed }) (fun _ => ⟨rfl, rfl⟩) c d _
      exact ⟨fun d => (same d).trans (kept.recs d), kept.shipQueue, kept.accepted, kept.refused⟩
    · exact kept
  · exact kept

theorem ackTaken_standings (r : Report) (s : State) : StandingsKept s.clips (ackTaken r s).clips := by
  have folds (es : List Entry) {t : State} (kept : StandingsKept s.clips t.clips) :
      StandingsKept s.clips (es.foldl (fun t e => ackLabel e t) t).clips := by
    induction es generalizing t with
    | nil => exact kept
    | cons e es ih =>
      refine ih ?_
      show StandingsKept s.clips (ackLabel e t).clips
      unfold ackLabel
      split
      · exact labelAcked_standings _ _ _ kept
      · exact kept
      · exact kept
  refine folds _ ?_
  rw [modSched_clips, (removeEntries_inner _ _).same .clips (by decide)]
  exact ⟨fun _ => rfl, rfl, rfl, rfl⟩

end Sys2Proof.Machine
end

section
/-! PROOFS. O44: a report frame is discarded, counted, or taken; what an accepted report leaves (R138, R139, R143, R164 to
R166, R191). -/

namespace Sys2Proof.Machine

set_option Elab.async false

/-! ### The clip log through completions, starts and closings -/

theorem completeShip_clips (s : State) : (completeShip s).clips = s.clips ∨ ∃ i next,
    (completeShip s).clips = { recChanged i (fun r => { r with st := .shipped, shipCursor := next }) s.clips with
      shippedCount := incWrap32 s.clips.shippedCount } := by
  unfold completeShip
  split
  · exact .inl rfl
  next k _ =>
    dsimp only
    split
    · exact .inl rfl
    · refine .inr ⟨k.clip, some k.out, ?_⟩
      rw [(raise_inner .clipShipped _ _).same .clips (by decide)]
      rfl

theorem startShip_clips (s : State) : (∃ rest, (startShip s).clips = { s.clips with shipQueue := rest }) ∨
    ∃ i rest, (startShip s).clips = recChanged i (fun k => { k with st := .shipping, shipCursor := some k.inOffset })
      { s.clips with shipQueue := rest } := by
  unfold startShip
  split
  · exact .inl ⟨s.clips.shipQueue, rfl⟩
  next i rest _ =>
    dsimp only
    split
    · exact .inl ⟨rest, rfl⟩
    · exact .inr ⟨i, rest, rfl⟩

/-- The counts of clip requests stand. -/
structure HomeStands (l m : ClipLog) : Prop where
  accepted : m.homeAccepted = l.homeAccepted
  refused : m.homeRefused = l.homeRefused

theorem HomeStands.closeClip {l : ClipLog} {s : State} (stands : HomeStands l s.clips) (c q : Nat) (t : Option Timecode)
    (o : Nat) : HomeStands l (closeClip c q t o s).clips := by
  cases found : clipAt c s with
  | none => rwa [closeClip_of_none found]
  | some k =>
    rw [closeClip_clips found]
    split <;> exact ⟨stands.accepted, stands.refused⟩

theorem HomeStands.closeAtIdle {l : ClipLog} {s : State} (stands : HomeStands l s.clips) (p : Fin 4) :
    HomeStands l (closeAtIdle p s).clips := by
  unfold Machine.closeAtIdle
  generalize clipIds _ s = ids
  induction ids generalizing s with
  | nil => exact stands
  | cons i is ih =>
    refine ih ?_
    dsimp only
    split
    · exact stands
    · exact stands.closeClip _ _ _ _

theorem homeStands_quiet (l : ClipLog) : QuietKeeps fun s => HomeStands l s.clips := by
  have kept {ps : List Part} {s t : State} (h : Inner ps s t) (not : Part.clips ∉ ps) (holds : HomeStands l s.clips) :
      HomeStands l t.clips := by rwa [h.same .clips not]
  constructor
  · exact fun s v holds => holds
  · exact fun p s holds => kept (staleCheck_inner p s) (by decide) holds
  · exact fun p s holds _ => kept (endWriting_inner p s) (by decide) holds
  · intro p s holds done
    rw [completeDrain_of_drained done]
    unfold enterIdle
    refine HomeStands.closeAtIdle ?_ p
    exact kept (raise_inner .programIdle _ _) (by decide) (t := _) holds
  · intro s holds _
    rcases completeShip_clips s with e | ⟨i, next, e⟩ <;> rw [e]
    · exact holds
    · exact ⟨holds.accepted, holds.refused⟩
  · intro s holds _
    rcases startShip_clips s with ⟨rest, e⟩ | ⟨i, rest, e⟩ <;> rw [e] <;> exact ⟨holds.accepted, holds.refused⟩
  · exact fun s holds => kept (freeZero_inner s) (by decide) holds

/-- No CLOSED clip has the id and the creation number. -/
def NoneNamed (id creation : Nat) (l : ClipLog) : Prop := ∀ c : Fin 64, id = c.1 → standing l c ≠ some (creation, .closed)

theorem NoneNamed.of_change {id creation : Nat} {l : ClipLog} (none' : NoneNamed id creation l) (i : Nat) {f : Clip → Clip}
    (opens : ∀ k, (f k).st ≠ .closed) : NoneNamed id creation (recChanged i f l) := by
  intro c is
  rw [standing_recChanged]
  split
  · intro named
    obtain ⟨k, -, e⟩ := Option.map_eq_some_iff.mp named
    exact opens k (congrArg Prod.snd e)
  · exact none' c is

theorem NoneNamed.settleShip {id creation : Nat} {s : State} (none' : NoneNamed id creation s.clips) :
    NoneNamed id creation (settleShip s).clips := by
  refine settleShip_holds (P := fun t => NoneNamed id creation t.clips) (fun t holds _ => ?_) (fun t holds _ => ?_) none'
  · rcases completeShip_clips t with e | ⟨i, next, e⟩ <;> rw [e]
    · exact holds
    · exact holds.of_change i (f := fun r => { r with st := .shipped, shipCursor := next }) fun k => nofun
  · rcases startShip_clips t with ⟨rest, e⟩ | ⟨i, rest, e⟩ <;> rw [e]
    · exact holds
    · exact NoneNamed.of_change (l := { t.clips with shipQueue := rest }) holds i fun k => nofun

/-! ### While a clip ships -/

/-- A clip ships with bytes left, and no program drains. -/
structure ShipBusy (s : State) : Prop where
  cursor : ∃ x, s.sched.clipCursor = some x ∧ x.next ≠ x.out
  clip : ∃ d m, s.clips.recs.get d = some m ∧ m.st = .shipping
  programs : ∀ p, (s.prog p).st ≠ .draining

theorem ShipBusy.not_done {s : State} (busy : ShipBusy s) : shipDone s = false := by
  obtain ⟨x, cursor, goes⟩ := busy.cursor
  unfold shipDone
  rw [cursor]
  simp [goes]

theorem ShipBusy.not_start {s : State} (busy : ShipBusy s) : shipCanStart s = false := by
  obtain ⟨d, m, found, ships⟩ := busy.clip
  have mem : d.1 ∈ clipIds (fun k => k.st == .shipping) s := mem_clipIds.mpr ⟨d, rfl, m, found, by rw [ships]; rfl⟩
  unfold shipCanStart shippingClip
  cases ids : clipIds (fun k => k.st == .shipping) s with
  | nil => rw [ids] at mem; cases mem
  | cons i is => rfl

theorem ShipBusy.settleShip {s : State} (busy : ShipBusy s) : settleShip s = s := by
  unfold Machine.settleShip settleShipN
  rw [busy.not_done, busy.not_start]
  rfl

/-- The end of an event in which no path sends and a clip ships leaves the clip log, and the clip cursor. -/
theorem ShipBusy.settle_stands {s : State} (busy : ShipBusy s) (quiet : ∀ l, SendsNothing (s.path l)) :
    (settle s).clips = s.clips ∧ (settle s).sched.clipCursor = s.sched.clipCursor := by
  have kept {ps : List Part} {t u : State} (h : Inner ps t u)
      (apart : Part.clips ∉ ps ∧ Part.sched ∉ ps ∧ Part.progs ∉ ps)
      (holds : ShipBusy t ∧ t.clips = s.clips ∧ t.sched.clipCursor = s.sched.clipCursor) :
      ShipBusy u ∧ u.clips = s.clips ∧ u.sched.clipCursor = s.sched.clipCursor := by
    have same := h.same .clips apart.1
    have sched := h.same .sched apart.2.1
    refine ⟨⟨by rw [sched]; exact holds.1.cursor, by rw [same]; exact holds.1.clip, fun p => ?_⟩,
      same.trans holds.2.1, by rw [sched]; exact holds.2.2⟩
    rw [prog_of_same h apart.2.2]
    exact holds.1.programs p
  refine (settle_holds_of_quiet (P := fun t => ShipBusy t ∧ t.clips = s.clips ∧ t.sched.clipCursor = s.sched.clipCursor)
    ?_ quiet ⟨busy, rfl, rfl⟩).2
  constructor
  · exact fun t v holds => ⟨⟨holds.1.cursor, holds.1.clip, holds.1.programs⟩, holds.2⟩
  · exact fun p t holds => kept (staleCheck_inner p t) (by decide) holds
  · exact fun p t holds done => absurd (draining_of_done done) (holds.1.programs p)
  · exact fun p t holds done => absurd (draining_of_drained done) (holds.1.programs p)
  · exact fun t holds done => absurd (done.symm.trans holds.1.not_done) nofun
  · exact fun t holds can => absurd (can.symm.trans holds.1.not_start) nofun
  · exact fun t holds => kept (freeZero_inner t) (by decide) holds

/-! ### Clip requests (R191) -/

theorem homeRequest_of_closed {c : Fin 64} {k : Clip} {creation : Nat} {s : State} (found : s.clips.recs.get c = some k)
    (created : k.creation = creation) (closed : k.st = .closed) : homeRequest c.1 creation s =
      (queueShip c.1 s).modClips fun l => { l with homeAccepted := incWrap32 l.homeAccepted } := by
  unfold homeRequest
  rw [if_pos c.2, clipAt_val, found, Option.filter_some, if_pos (beq_iff_eq.mpr created)]
  simp [closed]

/-- A CLOSED clip that a request names waits behind the clip that ships. -/
theorem ShipBusy.queues {s : State} (busy : ShipBusy s) {c : Fin 64} {k : Clip} (found : s.clips.recs.get c = some k)
    (closed : k.st = .closed) (quiet : ∀ l, SendsNothing ((homeRequest c.1 k.creation s).path l)) :
    (settle (homeRequest c.1 k.creation s)).clips.homeAccepted = (s.clips.homeAccepted + 1) % 2 ^ 32 ∧
    (settle (homeRequest c.1 k.creation s)).clips.shipQueue = s.clips.shipQueue ++ [c.1] ∧
    ∃ h, (settle (homeRequest c.1 k.creation s)).clips.recs.get c = some h ∧ h.st = .queued ∧ h.shipCursor = none := by
  obtain ⟨d, m, there, shipping⟩ := busy.clip
  have recs (i : Fin 64) : (recChanged c.1 (fun k => { k with st := .queued, shipCursor := none }) s.clips).recs.get i =
      if c = i then some { k with st := .queued, shipCursor := none } else s.clips.recs.get i := by
    show (Vec.put _ _ _).get i = _
    rw [Fin.ofNat_val_eq_self, Vec_get_put, found]
    rfl
  have other : c ≠ d := by
    rintro rfl
    rw [found] at there
    cases there
    exact absurd (closed.symm.trans shipping) nofun
  rw [homeRequest_of_closed found rfl closed] at *
  have stays : ShipBusy ((queueShip c.1 s).modClips fun l => { l with homeAccepted := incWrap32 l.homeAccepted }) :=
    ⟨busy.cursor, ⟨d, m, (recs d).trans ((if_neg other).trans there), shipping⟩, busy.programs⟩
  rw [(stays.settle_stands quiet).1]
  exact ⟨rfl, rfl, _, (recs c).trans (if_pos rfl), rfl, rfl⟩

theorem homeRequest_of_none {id creation : Nat} {s : State} (none' : NoneNamed id creation s.clips) : ∃ details,
    homeRequest id creation s =
      raise .homeRequestRefused details (s.modClips fun l => { l with homeRefused := incSat16 l.homeRefused }) := by
  unfold homeRequest
  dsimp only
  split
  next k found =>
    split at found
    · rename_i inside
      obtain ⟨here, created⟩ := Option.filter_eq_some_iff.mp found
      have other : k.st ≠ .closed := by
        intro closed
        refine none' ⟨id, inside⟩ rfl ?_
        have at' : s.clips.recs.get ⟨id, inside⟩ = some k := (clipAt_val ⟨id, inside⟩ s).symm.trans here
        unfold standing
        rw [at', Option.map_some, closed, beq_iff_eq.mp created]
      rw [if_neg (by simpa using other)]
      exact ⟨_, rfl⟩
    · cases found
  · exact ⟨_, rfl⟩

/-! ### The stages of an accepted report (R139) -/

/-- The state after the acks and the losses of an accepted report. -/
def lossesTaken (r : Report) (s : State) : State := applyLosses r.losses (ackTaken r s)

/-- The state after its path entries, with the interval counts restarted. -/
def entriesDone (r : Report) (s : State) : State :=
  eachPath (fun l t => t.modPath l restartInterval) (applyEntries r.entries (settleShip (lossesTaken r s)))

/-- The state after its clip requests. -/
def requestsDone (r : Report) (s : State) : State :=
  r.requests.foldl (fun t q => homeRequest q.clip q.creation t) (entriesDone r s)

theorem acceptReport_eq (r : Report) (s : State) : acceptReport r s = settle (requestsDone r s) := rfl

section
variable (r : Report) (s : State)

theorem lossesTaken_inner : Inner [.uplink, .clips, .sched, .chains] s (lossesTaken r s) :=
  (ackTaken_inner r s).andThen (applyLosses_inner _ _)

theorem requestsDone_inner : Inner [.clips, .link] (entriesDone r s) (requestsDone r s) :=
  .foldl (ps := [.clips, .link]) _ (fun t (q : ClipRequest) => homeRequest_inner q.clip q.creation t) _ _

theorem entriesDone_eq : entriesDone r s =
    { applyEntries r.entries (settleShip (lossesTaken r s)) with
      paths := Vec.tab fun l => restartInterval ((applyEntries r.entries (settleShip (lossesTaken r s))).path l) } :=
  eachPath_modPath _ _

theorem shipped_uplink : (settleShip (lossesTaken r s)).uplink =
    { s.uplink with lastReport := some r.number, accepted := incWrap32 s.uplink.accepted } := by
  rw [(settleShip_inner _).same .uplink (by decide), lossesTaken, (applyLosses_inner _ _).same .uplink (by decide),
    ackTaken_uplink]

theorem entriesDone_uplink : (entriesDone r s).uplink = { s.uplink with
    lastReport := some r.number, accepted := incWrap32 s.uplink.accepted
    ignored := min (s.uplink.ignored + ignoredEntries [] r.entries) 65535 } := by
  have last : (entriesDone r s).uplink = (applyEntries r.entries (settleShip (lossesTaken r s))).uplink := by
    rw [entriesDone_eq]
  rw [last, applyEntries_eq, (entriesTaken_inner _ _).same .uplink (by decide)]
  exact congrArg (fun u : Uplink => { u with ignored := min (u.ignored + ignoredEntries [] r.entries) 65535 })
    (shipped_uplink r s)

theorem entriesDone_path (k : Fin 6) : (entriesDone r s).path k = restartInterval
    ((r.entries.find? fun e => e.path == k.1).elim (s.path k) fun e => takenPath s.uplink.badThreshold e (s.path k)) := by
  have before (f : Uplink → Uplink) : ((settleShip (lossesTaken r s)).modUplink f).path k = s.path k :=
    (path_of_same (settleShip_inner _) (by decide) k).trans (path_of_same (lossesTaken_inner r s) (by decide) k)
  have threshold : ((settleShip (lossesTaken r s)).modUplink fun u =>
      { u with ignored := min (u.ignored + ignoredEntries [] r.entries) 65535 }).uplink.badThreshold =
      s.uplink.badThreshold := by
    show (settleShip (lossesTaken r s)).uplink.badThreshold = _
    rw [shipped_uplink]
  have path : (entriesDone r s).path k =
      restartInterval ((applyEntries r.entries (settleShip (lossesTaken r s))).path k) := by
    rw [entriesDone_eq]
    exact Vec_get_tab _ _
  rw [path, applyEntries_eq, entriesTaken_path, before]
  exact congrArg (fun n => restartInterval (Option.elim _ _ fun e => takenPath n e (s.path k))) threshold

theorem requestsDone_path (k : Fin 6) : (requestsDone r s).path k = (entriesDone r s).path k :=
  path_of_same (requestsDone_inner r s) (by decide) k

/-- Where every port is busy, no path can send after the report. -/
theorem requestsDone_quiet (busy : ∀ k, (s.path k).port ≠ none) (k : Fin 6) : SendsNothing ((requestsDone r s).path k) := by
  rw [requestsDone_path, entriesDone_path]
  refine restartInterval_quiet ?_
  cases r.entries.find? fun e => e.path == k.1 with
  | none => exact .of_busy (busy k)
  | some e => exact takenPath_quiet (busy k)

theorem requestsDone_sched : (requestsDone r s).sched = (applyEntries r.entries (settleShip (lossesTaken r s))).sched := by
  rw [(requestsDone_inner r s).same .sched (by decide), entriesDone_eq]

theorem requestsDone_acks : AcksStand (applyAck r.ack s).sched (requestsDone r s).sched := by
  rw [requestsDone_sched, applyEntries_eq, ← ackTaken_sched]
  refine AcksStand.of_onlyLosses (c := (settleShip (lossesTaken r s)).sched) ?_ (entriesTaken_losses _ _)
  refine (acksStand_quiet _).settleShip (P := fun t => AcksStand _ t.sched) ?_
  exact AcksStand.of_onlyLosses ⟨rfl, rfl⟩ (loseEntries_losses _ _)

theorem requestsDone_window (none' : r.entries = []) : WindowStands (lossesTaken r s).sched (requestsDone r s).sched := by
  rw [requestsDone_sched, none']
  exact (windowStands_quiet _).settleShip (P := fun t => WindowStands _ t.sched) ⟨rfl, rfl, rfl⟩

theorem entriesDone_clips : (entriesDone r s).clips = (settleShip (lossesTaken r s)).clips := by
  rw [entriesDone_eq, applyEntries_eq]
  exact (entriesTaken_inner _ _).same .clips (by decide)

theorem lossesTaken_clips : (lossesTaken r s).clips = (ackTaken r s).clips := (applyLosses_inner _ _).same .clips (by decide)

/-! ### Raises of HOME_REQUEST_REFUSED -/

omit r in
theorem enterPath_raises_ne (l : Fin 6) (st : PathState) (cause : PathCause) {j : Fin 18}
    (state : EventKind.pathState.index ≠ j) (starved : EventKind.starved.index ≠ j)
    (lost : j ≠ EventKind.noticeLost.index) : (enterPath l st cause s).link.raises.get j = s.link.raises.get j := by
  have asks (b : Bool) (u : State) : (if b then letAskPath l u else u).link = u.link := by cases b <;> rfl
  have left (b : Bool) : (if b then loseEntries (fun e => e.path == l.1) (s.modPath l outOfService) else s).link =
      s.link := by
    cases b
    · rfl
    · exact (loseEntries_inner _ _).same .link (by decide)
  rw [enterPath_eq, runAllocator_raises_ne .pathState _ starved lost]
  unfold pathEntered
  dsimp only
  rw [asks, raise_raises_ne .pathState _ _ state lost, modPath_link, left]

theorem entriesDone_raises : (entriesDone r s).link.raises.get 16 = s.link.raises.get 16 := by
  have entries (t : State) : (entriesTaken r.entries t).link.raises.get 16 = t.link.raises.get 16 := by
    refine eachPath_holds (P := fun u => u.link.raises.get 16 = t.link.raises.get 16) (fun l u holds => ?_) rfl
    cases r.entries.find? fun e => e.path == l.1 with
    | none => exact holds
    | some e =>
      exact takeEntry_holds (P := fun u => u.link.raises.get 16 = t.link.raises.get 16) (fun _ _ h => h)
        (fun st cause v h => (enterPath_raises_ne v l st cause (by decide) (by decide) (by decide)).trans h) e holds
  have ships : (settleShip (lossesTaken r s)).link.raises.get 16 = (lossesTaken r s).link.raises.get 16 := by
    refine settleShip_holds (P := fun t => t.link.raises.get 16 = (lossesTaken r s).link.raises.get 16)
      (fun t holds _ => (completeShip_raises t (by decide)).trans holds) (fun t holds _ => ?_) rfl
    rw [(startShip_inner t).same .link (by decide)]
    exact holds
  have link : (entriesDone r s).link = (applyEntries r.entries (settleShip (lossesTaken r s))).link := by
    rw [entriesDone_eq]
  rw [link, applyEntries_eq, entries, modUplink_link, ships, (lossesTaken_inner r s).same .link (by decide)]

/-! ### The clip that a request names -/

theorem entriesDone_home : HomeStands s.clips (entriesDone r s).clips := by
  have standings := ackTaken_standings r s
  rw [entriesDone_clips]
  refine (homeStands_quiet s.clips).settleShip (P := fun t => HomeStands s.clips t.clips) ?_
  rw [lossesTaken_clips]
  exact ⟨standings.accepted, standings.refused⟩

end

section
variable {r : Report} {s : State} {q : ClipRequest}

theorem requestsDone_of_single (only : r.requests = [q]) :
    requestsDone r s = homeRequest q.clip q.creation (entriesDone r s) := by
  unfold requestsDone
  rw [only]
  rfl

/-- A request that no CLOSED clip matches is refused. -/
theorem report_refuses (busy : ∀ k, (s.path k).port ≠ none) (only : r.requests = [q])
    (none' : NoneNamed q.clip q.creation s.clips) :
    (acceptReport r s).clips.homeAccepted = s.clips.homeAccepted ∧
    (acceptReport r s).clips.homeRefused = min (s.clips.homeRefused + 1) 65535 ∧
    (acceptReport r s).link.raises.get 16 = (s.link.raises.get 16 + 1) % 2 ^ 32 ∧
    (acceptReport r s).link.latches.get 16 = true := by
  have left : NoneNamed q.clip q.creation (entriesDone r s).clips := by
    rw [entriesDone_clips]
    refine NoneNamed.settleShip fun c is => ?_
    rw [lossesTaken_clips, (ackTaken_standings r s).recs]
    exact none' c is
  obtain ⟨details, refused⟩ := homeRequest_of_none left
  have quiet := requestsDone_quiet r s busy
  have home := entriesDone_home r s
  have raised := entriesDone_raises r s
  rw [acceptReport_eq]
  rw [requestsDone_of_single only, refused] at *
  generalize entriesDone r s = e at *
  have clips : (raise .homeRequestRefused details (e.modClips fun l => { l with homeRefused := incSat16 l.homeRefused })).clips =
      { e.clips with homeRefused := incSat16 e.clips.homeRefused } :=
    (raise_inner .homeRequestRefused _ _).same .clips (by decide)
  have stands := settle_holds_of_quiet (homeStands_quiet _) quiet ⟨rfl, rfl⟩
  refine ⟨?_, ?_, ?_, settle_latches (raise_latches .homeRequestRefused _ _)⟩
  · rw [stands.accepted, clips]
    exact home.accepted
  · rw [stands.refused, clips]
    show min (e.clips.homeRefused + 1) 65535 = _
    rw [home.refused]
  · rw [settle_raises _ (by decide)]
    refine (raise_raises .homeRequestRefused _ _ (by decide)).trans ?_
    rw [modClips_link, ← raised]
    rfl

/-- A request that names a CLOSED clip queues it, while another ships and no program drains. -/
theorem report_queues (busy : ∀ k, (s.path k).port ≠ none) (only : r.requests = [q]) (ships : ShipBusy s) {c : Fin 64}
    {k : Clip} (named : q.clip = c.1) (found : s.clips.recs.get c = some k) (created : k.creation = q.creation)
    (closed : k.st = .closed) :
    (acceptReport r s).clips.homeAccepted = (s.clips.homeAccepted + 1) % 2 ^ 32 ∧
    (acceptReport r s).clips.shipQueue = s.clips.shipQueue ++ [c.1] ∧
    ∃ h, (acceptReport r s).clips.recs.get c = some h ∧ h.st = .queued ∧ h.shipCursor = none := by
  have standings := ackTaken_standings r s
  have quiet := requestsDone_quiet r s busy
  have inner := lossesTaken_inner r s
  obtain ⟨d, m, there, shipping⟩ := ships.clip
  have record (i : Fin 64) {x : Clip} (at' : s.clips.recs.get i = some x) :
      ∃ y, (ackTaken r s).clips.recs.get i = some y ∧ y.creation = x.creation ∧ y.st = x.st := by
    have same := standings.recs i
    unfold standing at same
    rw [at'] at same
    obtain ⟨y, is, e⟩ := Option.map_eq_some_iff.mp same
    exact ⟨y, is, congrArg Prod.fst e, congrArg Prod.snd e⟩
  have cursor : (lossesTaken r s).sched.clipCursor = s.sched.clipCursor := by
    rw [lossesTaken, applyLosses, (loseEntries_losses _ _).clipCursor, ackTaken_sched, applyAck_sched]
  have busy' : ShipBusy (lossesTaken r s) := by
    obtain ⟨n, is, -, still⟩ := record d there
    refine ⟨by rw [cursor]; exact ships.cursor, ⟨d, n, by rw [lossesTaken_clips]; exact is, still.trans shipping⟩, fun p => ?_⟩
    rw [prog_of_same inner (by decide)]
    exact ships.programs p
  have clips : (entriesDone r s).clips = (ackTaken r s).clips := by
    rw [entriesDone_clips, busy'.settleShip, lossesTaken_clips]
  have progs (p : Fin 4) : (entriesDone r s).prog p = s.prog p := by
    have last : (entriesDone r s).progs = (applyEntries r.entries (settleShip (lossesTaken r s))).progs := by
      rw [entriesDone_eq]
    unfold State.prog
    rw [last, (applyEntries_inner _ _).same .progs (by decide), busy'.settleShip, inner.same .progs (by decide)]
  have sched : (entriesDone r s).sched.clipCursor = s.sched.clipCursor := by
    rw [entriesDone_eq, applyEntries_eq, (entriesTaken_losses _ _).clipCursor, busy'.settleShip]
    exact cursor
  obtain ⟨y, is, made, shut⟩ := record c found
  have busy'' : ShipBusy (entriesDone r s) :=
    ⟨by rw [sched]; exact ships.cursor, by rw [clips, ← lossesTaken_clips]; exact busy'.clip,
      fun p => by rw [progs]; exact ships.programs p⟩
  rw [requestsDone_of_single only, named, ← created, ← made] at quiet
  have line : (entriesDone r s).clips.shipQueue = s.clips.shipQueue := by rw [clips, standings.shipQueue]
  have queues := busy''.queues (by rw [clips]; exact is) (shut.trans closed) quiet
  rw [(entriesDone_home r s).accepted, line] at queues
  rw [acceptReport_eq, requestsDone_of_single only, named, ← created, ← made]
  exact queues

end

end Sys2Proof.Machine
end

section
/-! PROOFS. O44: what becomes of a frame that a path port takes (R138, R139, R143, R164 to R166, R191, R216). -/

namespace Sys2Proof.Machine

set_option Elab.async false

theorem takeFrame_of_report {l : Fin 6} {s : State} {frame : List Byte} {r : Report} (on : (s.path l).st ≠ .off)
    (read : frameReport frame = some r) : takeFrame l frame s =
      if isNewReport s r then acceptReport r s else s.modUplink fun u => { u with stale := incSat16 u.stale } := by
  unfold takeFrame
  rw [if_neg (by simpa using on), read]

theorem isNewReport_of_newer {s : State} {r : Report} (newer : ∀ m, s.uplink.lastReport = some m → newer16 r.number m = true) :
    isNewReport s r = true := by
  unfold isNewReport
  cases last : s.uplink.lastReport with
  | none => rfl
  | some m => exact newer m last

/-- A lost live entry that is given up, from what the ack leaves. -/
theorem isGivenUp_lost (r : Report) (s : State) (e : Entry) : isGivenUp (ackTaken r s) e =
    (e.isLive && !e.queued && !(decide (e.resends < 3) && decide (diff32 s.tb.pacing e.firstSent <
      s.sched.deadline - s.sched.guardMs))) := by
  unfold isGivenUp age
  rw [(ackTaken_inner r s).same .tb (by decide), ackTaken_sched, applyAck_sched]

theorem acceptReport_uplink (r : Report) (s : State) : (acceptReport r s).uplink = { s.uplink with
    lastReport := some r.number, accepted := (s.uplink.accepted + 1) % 2 ^ 32
    ignored := min (s.uplink.ignored + (r.entries.zipIdx.filter fun x =>
      decide (6 ≤ x.1.path) || (r.entries.take x.2).any fun e => e.path == x.1.path).length) 65535 } := by
  have same : (acceptReport r s).uplink = (entriesDone r s).uplink := by
    rw [acceptReport_eq, (settle_inner _).same .uplink (by decide), (requestsDone_inner r s).same .uplink (by decide)]
  refine same.trans ?_
  rw [← ignoredEntries_eq]
  exact entriesDone_uplink r s

/-- Settles O44, by the stages of an accepted report. -/
theorem reportsAreTakenInOrder : Obligations.ReportsAreTakenInOrder := by
  intro l s
  refine ⟨fun off frame => ?_, fun on frame => ⟨fun none' => ?_, fun r n read last older => ?_⟩, ?_⟩
  · rw [exec_report]
    unfold takeFrame
    rw [if_pos (by rw [off]; rfl)]
  · rw [exec_report]
    unfold takeFrame
    rw [if_neg (by simpa using on), none']
    rfl
  · have old : isNewReport s r = false := by
      unfold isNewReport
      rw [last]
      exact older
    rw [exec_report, takeFrame_of_report on read, old]
    rfl
  · intro on bounded n a address padding losses entries requests number ack twelve few fewer fewest ranges fields creations
      newer busy content frame covered since lost late left ignored
    let r : Report := ⟨n, a, losses, entries, requests⟩
    have fits : r.Fits := ⟨number, ack, ⟨few, ranges⟩, ⟨fewer, fields⟩, ⟨fewest, creations⟩⟩
    have is : frame = address ++ u16 0x88B5 ++ r.content ++ u16 (crc16 r.content) ++ padding := by
      have same : content = r.content := by
        simp only [content, Report.content, Report.head, r, List.append_assoc]
        rfl
      rw [← same]
    have read : frameReport frame = some r := by rw [is]; exact frameReport_frame fits twelve padding
    have quiet := requestsDone_quiet r s busy
    have acks := settle_holds_of_quiet (acksStand_quiet _) quiet (requestsDone_acks r s)
    refine ⟨acceptReport r s, ?_, ?_, ?_, ?_, fun none' => ?_, fun k => ?_, fun q only => ⟨?_, fun none' => ?_⟩⟩
    · rw [exec_report, takeFrame_of_report on read, isNewReport_of_newer (r := r) newer, if_pos rfl]
    · exact acceptReport_uplink r s
    · rw [acceptReport_eq, acks.acked, applyAck_sched]
    · rw [acceptReport_eq, acks.lateAcks, applyAck_sched]
    · intro numbers
      have stands := settle_holds_of_quiet (windowStands_quiet _) quiet (requestsDone_window r s none')
      have names : (fun e : Entry => losses.any fun x => covers x e.send) = lost := rfl
      have gives : isGivenUp (ackTaken r s) = late := funext fun e => isGivenUp_lost r s e
      have before : (ackTaken r s).sched.window = left ∧ (ackTaken r s).sched.byLoss = s.sched.byLoss ∧
          (ackTaken r s).sched.abandoned = s.sched.abandoned.filter fun m => !covered m := by
        rw [ackTaken_sched, applyAck_sched]
        exact ⟨rfl, rfl, rfl⟩
      obtain ⟨window, byLoss, abandoned⟩ := before
      have after := loseEntries_sched lost (ackTaken r s)
      have kept := loseEntries_window lost (ackTaken r s)
      rw [acceptReport_eq, stands.window, stands.byLoss, stands.abandoned]
      unfold lossesTaken applyLosses
      show (loseEntries (fun e : Entry => losses.any fun x => covers x e.send) _).sched.window = _ ∧ _ ∧ _
      rw [names, kept, after.1, after.2, gives, window, byLoss, abandoned]
      exact ⟨rfl, rfl, rfl⟩
    · rw [acceptReport_eq, settle_path (quiet k), requestsDone_path, entriesDone_path]
      show restartInterval (Option.elim (entries.find? _) _ _) = _
      cases entries.find? fun e => e.path == k.1 with
      | none => rfl
      | some e =>
        dsimp only [Option.elim]
        rw [takeEntry_path]
        rfl
    · intro c k x d m closed cursor goes there ships runs
      obtain ⟨named, found, created, shut⟩ := closed
      exact report_queues busy only ⟨⟨x, cursor, goes⟩, ⟨d, m, there, ships⟩, runs⟩ named found created shut
    · refine report_refuses busy only fun c named standing' => ?_
      obtain ⟨k, found, e⟩ := Option.map_eq_some_iff.mp standing'
      exact none' c k ⟨named, found, congrArg Prod.fst e, congrArg Prod.snd e⟩

end Sys2Proof.Machine
end

section
/-! PROOFS. What a released clip gives up: the references of its entries and its pins, segment by segment (R113, R115,
R116, R193). -/

namespace Sys2Proof.Machine

set_option Elab.async false

/-! ### References dropped (R113) -/

/-- Whether an entry's bytes lie, in part, in a segment of a program. -/
def dropsFrom (p : Fin 4) (g : Segment) (e : Entry) : Bool :=
  match e.place with
  | .label .. => false
  | .clip _ q run _ off len => idx4 q == p && g.run == run && segMeets off (off + len) g
  | .live q run _ off len => idx4 q == p && g.run == run && segMeets off (off + len) g

/-- A segment with references dropped and pins removed. -/
def lessHeld (refs pins : Nat) (g : Segment) : Segment := { g with refs := g.refs - refs, pins := g.pins - pins }

theorem dropsFrom_lessHeld (p : Fin 4) (refs pins : Nat) (g : Segment) : dropsFrom p (lessHeld refs pins g) = dropsFrom p g :=
  rfl

theorem lessHeld_lessHeld (a b m n : Nat) (g : Segment) : lessHeld m n (lessHeld a b g) = lessHeld (a + m) (b + n) g := by
  simp only [lessHeld, Nat.sub_sub]

theorem lessHeld_zero (g : Segment) : lessHeld 0 0 g = g := rfl

theorem hold_lessHeld (a b : Nat) (g : Segment) : hold (lessHeld a b g) =
    g.writer.toNat + g.pendingSend.toNat + (g.refs - a) + g.retention.toNat + (g.pins - b) := rfl

/-- A segment that fewer entries and pins hold is free where one that more hold is. -/
theorem hold_lessHeld_mono {a b m n : Nat} (refs : a ≤ m) (pins : b ≤ n) {g : Segment} (free : hold (lessHeld a b g) = 0) :
    hold (lessHeld m n g) = 0 := by
  rw [hold_lessHeld] at *
  omega

theorem dropRefs_segs (q p : Fin 4) (run off len : Nat) (s : State) : ((dropRefs q run off len s).chain p).segs =
    (s.chain p).segs.map fun g => lessHeld (if q == p && g.run == run && segMeets off (off + len) g then 1 else 0) 0 g := by
  unfold dropRefs
  rw [modSegs_chain]
  by_cases same : q = p
  · rw [if_pos same]
    refine List.map_congr_left fun g _ => ?_
    rw [beq_iff_eq.mpr same, Bool.true_and]
    split <;> rfl
  · rw [if_neg same, beq_false_of_ne same]
    exact (List.map_id _).symm

theorem placeDrops_segs (e : Entry) (p : Fin 4) (s : State) : ((placeDrops e s).chain p).segs =
    (s.chain p).segs.map fun g => lessHeld (if dropsFrom p g e then 1 else 0) 0 g := by
  obtain ⟨send, place, path, first, resends, queued⟩ := e
  cases place with
  | label c r => exact (List.map_id _).symm
  | clip c q run segment off len => exact dropRefs_segs (idx4 q) p run off len s
  | live q run segment off len => exact dropRefs_segs (idx4 q) p run off len s

theorem foldl_placeDrops_segs (es : List Entry) (p : Fin 4) (s : State) :
    ((es.foldl (fun t e => placeDrops e t) s).chain p).segs =
      (s.chain p).segs.map fun g => lessHeld (es.countP (dropsFrom p g)) 0 g := by
  induction es generalizing s with
  | nil => exact (List.map_id _).symm
  | cons e es ih =>
    rw [List.foldl_cons, ih, placeDrops_segs, List.map_map]
    refine List.map_congr_left fun g _ => ?_
    rw [Function.comp_apply, dropsFrom_lessHeld, lessHeld_lessHeld, List.countP_cons, Nat.add_comm]

theorem removeEntries_segs (gone : Entry → Bool) (p : Fin 4) (s : State) : ((removeEntries gone s).chain p).segs =
    (s.chain p).segs.map fun g => lessHeld ((s.sched.window.filter gone).countP (dropsFrom p g)) 0 g :=
  foldl_placeDrops_segs _ p s

theorem unpin_segs (q p : Fin 4) (numbers : List Nat) (s : State) : ((unpin q numbers s).chain p).segs =
    (s.chain p).segs.map fun g => lessHeld 0 (if q == p && numbers.contains g.number then 1 else 0) g := by
  unfold unpin
  rw [modSegs_chain]
  by_cases same : q = p
  · rw [if_pos same]
    refine List.map_congr_left fun g _ => ?_
    rw [beq_iff_eq.mpr same, Bool.true_and]
    split <;> rfl
  · rw [if_neg same, beq_false_of_ne same]
    exact (List.map_id _).symm

/-! ### The release of a clip at rest (R193) -/

/-- The entries of a clip, its labels among them. -/
def entryOf (c : Nat) (e : Entry) : Bool := e.isClipOf c || e.isLabelOf c

/-- A CLOSED or SHIPPED clip whose yieldable flag is set (R194). -/
def Yields (k : Clip) : Prop := k.yieldable = true ∧ (k.st = .closed ∨ k.st = .shipped)

/-- The clip log without a clip. -/
def withoutClip (c : Fin 64) (l : ClipLog) : ClipLog :=
  { l with
    recs := Vec.put l.recs c none, shipQueue := l.shipQueue.filter fun i => i != c.1, released := incWrap32 l.released }

section
variable {c : Fin 64} {k : Clip} {s : State} (found : s.clips.recs.get c = some k) (yields : Yields k)
include found yields

theorem releaseClip_of_rest : releaseClip c.1 s =
    (unpin k.program k.pinned (dropClip c.1 true (withdrawLabel c.1
      (s.modClips fun l => { l with shipQueue := l.shipQueue.filter fun i => i != c.1 })))).modClips fun l =>
        { l with recs := Vec.put l.recs c none, released := incWrap32 l.released } := by
  have opened : (k.st == .opened) = false := by rcases yields.2 with h | h <;> rw [h] <;> rfl
  have shipping : (k.st == .shipping) = false := by rcases yields.2 with h | h <;> rw [h] <;> rfl
  unfold releaseClip
  rw [clipAt_val, found]
  dsimp only
  rw [opened, shipping, Fin.ofNat_val_eq_self]
  rfl

theorem releaseClip_clips : (releaseClip c.1 s).clips = withoutClip c s.clips := by
  rw [releaseClip_of_rest found yields, modClips_clips, (unpin_inner _ _ _).same .clips (by decide),
    (dropClip_inner _ _ _).same .clips (by decide)]
  rfl

theorem releaseClip_window : (releaseClip c.1 s).sched.window = s.sched.window.filter fun e => !entryOf c.1 e := by
  rw [releaseClip_of_rest found yields, modClips_sched, (unpin_inner _ _ _).same .sched (by decide)]
  unfold dropClip
  rw [removeEntries_sched]
  rfl

theorem releaseClip_segs (p : Fin 4) : ((releaseClip c.1 s).chain p).segs = (s.chain p).segs.map fun g =>
    lessHeld ((s.sched.window.filter (entryOf c.1)).countP (dropsFrom p g))
      (if k.program == p && k.pinned.contains g.number then 1 else 0) g := by
  have last (t : State) (f : ClipLog → ClipLog) : (t.modClips f).chain p = t.chain p := rfl
  rw [releaseClip_of_rest found yields, last, unpin_segs, dropClip, removeEntries_segs, List.map_map]
  refine List.map_congr_left fun g _ => ?_
  rw [Function.comp_apply, lessHeld_lessHeld, Nat.add_zero, Nat.zero_add]
  rfl

end

end Sys2Proof.Machine
end

section
/-! PROOFS. The yield of clips, oldest first: what each release leaves, seen from the state before the first (R116, R117,
R194). -/

namespace Sys2Proof.Machine

set_option Elab.async false

/-! ### Segments without the holds of released clips -/

/-- Whether an entry is a CLIP entry of one of some clips, with bytes in a segment of a program. -/
def sentFor (cs : List (Fin 64)) (p : Fin 4) (g : Segment) (e : Entry) : Bool :=
  cs.any (fun c => e.isClipOf c.1) && dropsFrom p g e

/-- Whether a clip pins a segment of a program. -/
def pinnedBy (b : State) (p : Fin 4) (g : Segment) (c : Fin 64) : Bool :=
  (b.clips.recs.get c).any fun k => k.program == p && k.pinned.contains g.number

/-- A segment without the holds that some clips and their entries have on it. -/
def withoutClips (b : State) (cs : List (Fin 64)) (p : Fin 4) (g : Segment) : Segment :=
  lessHeld (b.sched.window.countP (sentFor cs p g)) (cs.countP (pinnedBy b p g)) g

/-- How many segments are free once some clips are released. -/
def freeWithout (b : State) (cs : List (Fin 64)) : Nat :=
  b.store.freeList.length +
    if cs = [] then 0 else ∑ p : Fin 4, (b.chain p).segs.countP fun g => hold (withoutClips b cs p g) == 0

section
variable {b : State} {cs ds : List (Fin 64)} {p : Fin 4} {g : Segment}

theorem withoutClips_nil : withoutClips b [] p g = g := by
  have none' : b.sched.window.countP (sentFor [] p g) = 0 := List.countP_eq_zero.mpr fun e _ => nofun
  unfold withoutClips
  rw [none']
  rfl

theorem sentFor_mono (sub : ∀ c ∈ cs, c ∈ ds) (e : Entry) (sent : sentFor cs p g e = true) : sentFor ds p g e = true := by
  unfold sentFor at *
  obtain ⟨any, meets⟩ := Bool.and_eq_true_iff.mp sent
  obtain ⟨c, mem, is⟩ := List.any_eq_true.mp any
  exact Bool.and_eq_true_iff.mpr ⟨List.any_eq_true.mpr ⟨c, sub c mem, is⟩, meets⟩

theorem free_withoutClips_mono (sub : cs.Sublist ds) (free : hold (withoutClips b cs p g) = 0) :
    hold (withoutClips b ds p g) = 0 :=
  hold_lessHeld_mono (List.countP_mono_left fun e _ => sentFor_mono (fun _ mem => sub.subset mem) e) sub.countP_le free

theorem freeWithout_mono (sub : cs.Sublist ds) : freeWithout b cs ≤ freeWithout b ds := by
  unfold freeWithout
  by_cases none' : cs = []
  · rw [if_pos none']
    omega
  · have some' : ds ≠ [] := fun e => none' (List.sublist_nil.mp (e ▸ sub))
    rw [if_neg none', if_neg some']
    refine Nat.add_le_add_left (Finset.sum_le_sum fun p _ => List.countP_mono_left fun g _ free => ?_) _
    rw [beq_iff_eq] at *
    exact free_withoutClips_mono sub free

theorem withoutClips_perm (perm : cs.Perm ds) : withoutClips b cs p g = withoutClips b ds p g := by
  have sent : sentFor cs p g = sentFor ds p g := by
    funext e
    rw [Bool.eq_iff_iff]
    exact ⟨sentFor_mono (fun _ mem => perm.subset mem) e, sentFor_mono (fun _ mem => perm.symm.subset mem) e⟩
  unfold withoutClips
  rw [sent, perm.countP_eq]

theorem freeWithout_perm (perm : cs.Perm ds) : freeWithout b cs = freeWithout b ds := by
  have none' : cs = [] ↔ ds = [] := by
    rw [← List.length_eq_zero_iff, perm.length_eq, List.length_eq_zero_iff]
  unfold freeWithout
  simp only [withoutClips_perm perm, none']

/-- The holds of one more clip go with its entries and its pins. -/
theorem withoutClips_concat {c : Fin 64} {k : Clip} (found : b.clips.recs.get c = some k) :
    withoutClips b (cs ++ [c]) p g =
      lessHeld (((b.sched.window.filter fun e => !cs.any fun d => entryOf d.1 e).filter (entryOf c.1)).countP (dropsFrom p g))
        (if k.program == p && k.pinned.contains g.number then 1 else 0) (withoutClips b cs p g) := by
  have pins : [c].countP (pinnedBy b p g) = if k.program == p && k.pinned.contains g.number then 1 else 0 := by
    unfold pinnedBy
    rw [List.countP_singleton, found]
    rfl
  have sent : b.sched.window.countP (sentFor (cs ++ [c]) p g) = b.sched.window.countP (sentFor cs p g) +
      ((b.sched.window.filter fun e => !cs.any fun d => entryOf d.1 e).filter (entryOf c.1)).countP (dropsFrom p g) := by
    have split (x y d : Bool) : (if (x || y) && d then 1 else 0) =
        (if x && d then 1 else 0) + if d && (y && !x) then 1 else 0 := by
      cases x <;> cases y <;> cases d <;> rfl
    rw [List.filter_filter, List.countP_filter]
    generalize b.sched.window = w
    induction w with
    | nil => rfl
    | cons e es ih =>
      have one : (if sentFor (cs ++ [c]) p g e then 1 else 0) = (if sentFor cs p g e then 1 else 0) +
          if dropsFrom p g e && (entryOf c.1 e && !cs.any fun d => entryOf d.1 e) then 1 else 0 := by
        obtain ⟨send, place, path, first, resends, queued⟩ := e
        cases place with
        | label i r => simp [sentFor, dropsFrom]
        | live q run segment off len => simp [sentFor, entryOf, Entry.isClipOf, Entry.isLabelOf]
        | clip i q run segment off len =>
          simp only [sentFor, entryOf, Entry.isClipOf, Entry.isLabelOf, List.any_append, Bool.or_false, List.any_cons,
            List.any_nil]
          exact split _ _ _
      rw [List.countP_cons, List.countP_cons, List.countP_cons, ih, one]
      omega
  unfold withoutClips
  rw [lessHeld_lessHeld, sent, List.countP_append, pins]

end

/-! ### The oldest clip (R175, R194) -/

theorem newer32_of_small {m n : Nat} (hm : m < 2 ^ 31) (hn : n < 2 ^ 31) : newer32 m n = true ↔ n < m := by
  rw [newer32_iff]
  unfold diff32
  omega

/-- The creation number of a clip, 0 of one that is FREE. -/
def createdAs (b : State) (c : Fin 64) : Nat := ((b.clips.recs.get c).map Clip.creation).getD 0

/-- Of some clips the oldest is taken, where the creation numbers keep below half their range. -/
theorem oldestClip_of_small {s : State} (small : ∀ c k, s.clips.recs.get c = some k → k.creation < 2 ^ 31) {ids : List Nat}
    (held : ∀ i ∈ ids, ∃ c : Fin 64, c.1 = i ∧ (s.clips.recs.get c).isSome) (some' : ids ≠ []) :
    ∃ c : Fin 64, oldestClip s ids = some c.1 ∧ c.1 ∈ ids ∧ ∀ d : Fin 64, d.1 ∈ ids → createdAs s c ≤ createdAs s d := by
  induction ids with
  | nil => exact absurd rfl some'
  | cons i is ih =>
    obtain ⟨c, rfl, there⟩ := held i List.mem_cons_self
    obtain ⟨k, found⟩ := Option.isSome_iff_exists.mp there
    have made : createdAs s c = k.creation := by unfold createdAs; rw [found]; rfl
    by_cases last : is = []
    · subst last
      refine ⟨c, rfl, List.mem_cons_self, fun d mem => ?_⟩
      have same : d = c := Fin.ext (List.mem_singleton.mp mem)
      rw [same]
    · obtain ⟨e, oldest, mem, least⟩ := ih (fun j mem => held j (List.mem_cons_of_mem _ mem)) last
      obtain ⟨e', same, there'⟩ := held e.1 (List.mem_cons_of_mem _ mem)
      obtain rfl : e' = e := Fin.ext same
      obtain ⟨m, found'⟩ := Option.isSome_iff_exists.mp there'
      have made' : createdAs s e' = m.creation := by unfold createdAs; rw [found']; rfl
      have order := newer32_of_small (small c k found) (small e' m found')
      unfold oldestClip
      rw [oldest]
      dsimp only
      rw [clipAt_val, clipAt_val, found, found']
      dsimp only
      by_cases newer : newer32 k.creation m.creation = true
      · rw [if_pos newer]
        refine ⟨e', rfl, List.mem_cons_of_mem _ mem, fun d within => ?_⟩
        rcases List.mem_cons.mp within with here | later
        · rw [Fin.ext here, made, made']
          exact (order.mp newer).le
        · exact least d later
      · rw [if_neg newer]
        have older : createdAs s c ≤ createdAs s e' := by
          rw [made, made']
          exact Nat.not_lt.mp (mt order.mpr newer)
        refine ⟨c, rfl, List.mem_cons_self, fun d within => ?_⟩
        rcases List.mem_cons.mp within with here | later
        · rw [Fin.ext here]
        · exact older.trans (least d later)

theorem yieldables_eq (s : State) : yieldables s = clipIds (fun k => k.yieldable && (k.st == .closed || k.st == .shipped)) s :=
  rfl

theorem mem_yieldables {s : State} {i : Nat} :
    i ∈ yieldables s ↔ ∃ c : Fin 64, c.1 = i ∧ ∃ k, s.clips.recs.get c = some k ∧ Yields k := by
  rw [yieldables_eq, mem_clipIds]
  simp only [Yields, Bool.and_eq_true, Bool.or_eq_true, beq_iff_eq]

/-! ### One release of a yield -/

/-- One clip that yields: it is released, counted and told, and what it held is freed. -/
def yieldOne (c : Fin 64) (k : Clip) (s : State) : State :=
  freeZero (raise .clipYielded (u8 c.1 ++ u32 k.creation ++ u8 k.program.1)
    ((releaseClip c.1 s).modClips fun l => { l with yielded := incWrap32 l.yielded }))

/-- What the release of some clips leaves, seen from the state before it. -/
structure YieldsTo (b : State) (cs : List (Fin 64)) (t : State) : Prop where
  once : cs.Nodup
  yield : ∀ c ∈ cs, ∃ k, b.clips.recs.get c = some k ∧ Yields k
  recs : ∀ c, t.clips.recs.get c = if c ∈ cs then none else b.clips.recs.get c
  window : t.sched.window = b.sched.window.filter fun e => !cs.any fun d => entryOf d.1 e
  segs : ∀ p, (t.chain p).segs = if cs = [] then (b.chain p).segs else
    ((b.chain p).segs.map (withoutClips b cs p)).filter fun g => hold g != 0
  free : ∃ freed, t.store.freeList = b.store.freeList ++ freed
  count : t.store.freeList.length = freeWithout b cs
  store : t.store.reserve = b.store.reserve ∧ t.store.takes = b.store.takes ∧ t.store.yields = b.store.yields
  yielded : t.clips.yielded = (fun x => (x + 1) % 2 ^ 32)^[cs.length] b.clips.yielded
  released : t.clips.released = (fun x => (x + 1) % 2 ^ 32)^[cs.length] b.clips.released
  raises : t.link.raises.get 15 = (fun x => (x + 1) % 2 ^ 32)^[cs.length] (b.link.raises.get 15)
  parts : Inner [.clips, .sched, .chains, .store, .link] b t

theorem YieldsTo.refl (b : State) : YieldsTo b [] b where
  once := .nil
  yield := nofun
  recs _ := rfl
  window := (List.filter_eq_self.mpr fun _ _ => rfl).symm
  segs _ := rfl
  free := ⟨[], (List.append_nil _).symm⟩
  count := rfl
  store := ⟨rfl, rfl, rfl⟩
  yielded := rfl
  released := rfl
  raises := rfl
  parts := .refl _ _

theorem clearPressure_store (s : State) : (clearPressure s).store.reserve = s.store.reserve ∧
    (clearPressure s).store.takes = s.store.takes ∧ (clearPressure s).store.yields = s.store.yields := by
  unfold clearPressure
  split <;> exact ⟨rfl, rfl, rfl⟩

theorem freeZero_store (s : State) : (freeZero s).store.reserve = s.store.reserve ∧
    (freeZero s).store.takes = s.store.takes ∧ (freeZero s).store.yields = s.store.yields := by
  by_cases none' : zeroNumbers s = []
  · rw [freeZero_of_none none']
    exact ⟨rfl, rfl, rfl⟩
  · rw [freeZero_of_some none']
    exact clearPressure_store _

theorem zeroNumbers_length (s : State) :
    (zeroNumbers s).length = ∑ p : Fin 4, (s.chain p).segs.countP fun g => hold g == 0 := by
  rw [Fin.sum_univ_four]
  simp only [zeroNumbers, zeroHolds, List.length_append, List.length_map, List.countP_eq_length_filter]

end Sys2Proof.Machine
end

section
/-! PROOFS. O38: SET_RESERVE, and the yield that it may ask for (R116, R117, R122, R193, R194). -/

namespace Sys2Proof.Machine

set_option Elab.async false

/-! ### One release more -/

/-- Segments that are free stay free under a change that takes holds away: those that go at once and those that go in two
steps are the same. -/
theorem filter_held_map {f : Segment → Segment} (frees : ∀ g, hold g = 0 → hold (f g) = 0) (l : List Segment) :
    (((l.filter fun g => hold g != 0).map f).filter fun g => hold g != 0) = (l.map f).filter fun g => hold g != 0 := by
  induction l with
  | nil => rfl
  | cons g gs ih =>
    by_cases free : hold g = 0
    · rw [List.filter_cons_of_neg (by simp [free]), ih, List.map_cons, List.filter_cons_of_neg (by simp [frees g free])]
    · rw [List.filter_cons_of_pos (by simp [free]), List.map_cons, List.map_cons, List.filter_cons, List.filter_cons, ih]

theorem countP_free_map {f : Segment → Segment} (frees : ∀ g, hold g = 0 → hold (f g) = 0) (l : List Segment) :
    (l.countP fun g => hold g == 0) + (((l.filter fun g => hold g != 0).map f).countP fun g => hold g == 0) =
      (l.map f).countP fun g => hold g == 0 := by
  induction l with
  | nil => rfl
  | cons g gs ih =>
    rw [List.map_cons, List.countP_cons, List.countP_cons]
    by_cases free : hold g = 0
    · rw [List.filter_cons_of_neg (by simp [free]), if_pos (by simp [free]), if_pos (by simp [frees g free]), ← ih]
      omega
    · rw [List.filter_cons_of_pos (by simp [free]), List.map_cons, List.countP_cons, if_neg (by simp [free]), ← ih]
      omega

section
variable {c : Fin 64} {k : Clip} {s : State} (found : s.clips.recs.get c = some k) (yields : Yields k)
include found yields

/-- What a release takes from a segment of a program. -/
def releaseFrom (s : State) (c : Fin 64) (k : Clip) (p : Fin 4) (g : Segment) : Segment :=
  lessHeld ((s.sched.window.filter (entryOf c.1)).countP (dropsFrom p g))
    (if k.program == p && k.pinned.contains g.number then 1 else 0) g

omit found yields in
theorem hold_releaseFrom (p : Fin 4) (g : Segment) (free : hold g = 0) : hold (releaseFrom s c k p g) = 0 := by
  rw [← lessHeld_zero g] at free
  exact hold_lessHeld_mono (Nat.zero_le _) (Nat.zero_le _) free

/-- The state of a yield before its frees. -/
def yieldTold (c : Fin 64) (k : Clip) (s : State) : State :=
  raise .clipYielded (u8 c.1 ++ u32 k.creation ++ u8 k.program.1)
    ((releaseClip c.1 s).modClips fun l => { l with yielded := incWrap32 l.yielded })

omit found yields in
theorem yieldTold_inner : Inner [.link] ((releaseClip c.1 s).modClips fun l => { l with yielded := incWrap32 l.yielded })
    (yieldTold c k s) := raise_inner .clipYielded _ _

omit found yields in
theorem yieldOne_eq : yieldOne c k s = freeZero (yieldTold c k s) := rfl

theorem yieldTold_segs (p : Fin 4) :
    ((yieldTold c k s).chain p).segs = (s.chain p).segs.map (releaseFrom s c k p) := by
  have chains : (yieldTold c k s).chain p = (releaseClip c.1 s).chain p := by
    unfold State.chain
    rw [yieldTold_inner.same .chains (by decide), modClips_chains]
  rw [chains, releaseClip_segs found yields]
  rfl

theorem yieldOne_clips :
    (yieldOne c k s).clips = { withoutClip c s.clips with yielded := incWrap32 s.clips.yielded } := by
  rw [yieldOne_eq, (freeZero_inner _).same .clips (by decide), yieldTold_inner.same .clips (by decide), modClips_clips,
    releaseClip_clips found yields]
  rfl

theorem yieldOne_window : (yieldOne c k s).sched.window = s.sched.window.filter fun e => !entryOf c.1 e := by
  rw [yieldOne_eq, (freeZero_inner _).same .sched (by decide), yieldTold_inner.same .sched (by decide), modClips_sched,
    releaseClip_window found yields]

theorem yieldOne_segs (p : Fin 4) : ((yieldOne c k s).chain p).segs =
    ((s.chain p).segs.map (releaseFrom s c k p)).filter fun g => hold g != 0 := by
  rw [yieldOne_eq, freeZero_chain, yieldTold_segs found yields]

omit found yields in
theorem yieldTold_store : (yieldTold c k s).store = s.store := by
  rw [yieldTold_inner.same .store (by decide), modClips_store, (releaseClip_inner _ _).same .store (by decide)]

omit found yields in
theorem yieldOne_freeList :
    (yieldOne c k s).store.freeList = s.store.freeList ++ ascending (zeroNumbers (yieldTold c k s)) := by
  rw [yieldOne_eq, freeZero_freeList, yieldTold_store]

theorem yieldOne_count : (yieldOne c k s).store.freeList.length = s.store.freeList.length +
    ∑ p : Fin 4, ((s.chain p).segs.map (releaseFrom s c k p)).countP fun g => hold g == 0 := by
  rw [yieldOne_freeList, List.length_append, (ascending_perm _).length_eq, zeroNumbers_length]
  simp only [yieldTold_segs found yields]

omit found yields in
theorem yieldOne_store : (yieldOne c k s).store.reserve = s.store.reserve ∧
    (yieldOne c k s).store.takes = s.store.takes ∧ (yieldOne c k s).store.yields = s.store.yields := by
  rw [yieldOne_eq]
  have kept := freeZero_store (yieldTold c k s)
  rwa [yieldTold_store] at kept

omit found yields in
theorem yieldOne_raises : (yieldOne c k s).link.raises.get 15 = (s.link.raises.get 15 + 1) % 2 ^ 32 := by
  rw [yieldOne_eq, (freeZero_inner _).same .link (by decide)]
  refine (raise_raises .clipYielded _ _ (by decide)).trans ?_
  rw [modClips_link, (releaseClip_inner _ _).same .link (by decide)]
  rfl

omit found yields in
theorem yieldOne_inner : Inner [.clips, .sched, .chains, .store, .link] s (yieldOne c k s) :=
  (((releaseClip_inner c.1 s).widen (ps := [.clips, .sched, .chains, .store, .link])).andThen (modClips_inner _ _)).andThen
    ((yieldTold_inner.widen (ps := [.link, .chains, .store])).andThen (freeZero_inner _))

end

section
variable {b t : State} {cs : List (Fin 64)} {c : Fin 64} {k : Clip}

theorem YieldsTo.before (so : YieldsTo b cs t) (found : t.clips.recs.get c = some k) :
    c ∉ cs ∧ b.clips.recs.get c = some k := by
  rw [so.recs] at found
  split at found
  · cases found
  · exact ⟨‹_›, found⟩

/-- Each segment after one release more. -/
theorem YieldsTo.releases (so : YieldsTo b cs t) (found : t.clips.recs.get c = some k) (p : Fin 4) :
    (releaseFrom t c k p) ∘ (withoutClips b cs p) = withoutClips b (cs ++ [c]) p := by
  funext g
  rw [withoutClips_concat (so.before found).2, ← so.window]
  rfl

theorem YieldsTo.step (so : YieldsTo b cs t) (found : t.clips.recs.get c = some k) (yields : Yields k) :
    YieldsTo b (cs ++ [c]) (yieldOne c k t) := by
  obtain ⟨fresh, was⟩ := so.before found
  have clips := yieldOne_clips found yields
  have frees (p : Fin 4) := hold_releaseFrom (s := t) (c := c) (k := k) p
  have store := yieldOne_store (s := t) (c := c) (k := k)
  have some' : cs ++ [c] ≠ [] := by simp
  refine ⟨?_, ?_, fun d => ?_, ?_, fun p => ?_, ?_, ?_, ?_, ?_, ?_, ?_, so.parts.andThen yieldOne_inner⟩
  · exact List.nodup_append.mpr ⟨so.once, List.nodup_singleton _, fun x hx y hy e =>
      fresh (List.mem_singleton.mp hy ▸ e ▸ hx)⟩
  · intro d mem
    rcases List.mem_append.mp mem with old | new
    · exact so.yield d old
    · exact List.mem_singleton.mp new ▸ ⟨k, was, yields⟩
  · rw [clips]
    show (Vec.put _ _ _).get d = _
    rw [Vec_get_put, so.recs]
    by_cases same : c = d
    · subst same
      simp
    · simp [same, Ne.symm same]
  · rw [yieldOne_window found yields, so.window, List.filter_filter]
    refine List.filter_congr fun e _ => ?_
    rw [List.any_append, Bool.not_or, Bool.and_comm]
    simp
  · rw [yieldOne_segs found yields, if_neg some', ← so.releases found, so.segs]
    split
    · rename_i none'
      subst none'
      have id' : withoutClips b [] p = id := funext fun g => withoutClips_nil
      rw [id', Function.comp_id]
    · rw [filter_held_map (frees p), List.map_map]
  · obtain ⟨freed, list⟩ := so.free
    exact ⟨freed ++ ascending (zeroNumbers (yieldTold c k t)), by rw [yieldOne_freeList, list, List.append_assoc]⟩
  · rw [yieldOne_count found yields, so.count]
    unfold freeWithout
    rw [if_neg some', Nat.add_assoc]
    congr 1
    have after (p : Fin 4) : ((b.chain p).segs.countP fun g => hold (withoutClips b (cs ++ [c]) p g) == 0) =
        (((b.chain p).segs.map (withoutClips b cs p)).map (releaseFrom t c k p)).countP fun g => hold g == 0 := by
      rw [List.map_map, so.releases found, List.countP_map]
      rfl
    by_cases none' : cs = []
    · subst none'
      have id' (p : Fin 4) : withoutClips b [] p = id := funext fun g => withoutClips_nil
      simp only [after, id', List.map_id, so.segs, if_true, Nat.zero_add]
    · rw [if_neg none', ← Finset.sum_add_distrib]
      refine Finset.sum_congr rfl fun p _ => ?_
      rw [after, so.segs, if_neg none']
      exact (congrArg (· + _) (List.countP_map ..).symm).trans (countP_free_map (frees p) _)
  · exact ⟨store.1.trans so.store.1, store.2.1.trans so.store.2.1, store.2.2.trans so.store.2.2⟩
  · rw [clips, List.length_append, List.length_singleton, Function.iterate_succ_apply', ← so.yielded]
    rfl
  · rw [clips, List.length_append, List.length_singleton, Function.iterate_succ_apply', ← so.released]
    rfl
  · rw [yieldOne_raises, List.length_append, List.length_singleton, Function.iterate_succ_apply', ← so.raises]

end

/-! ### The clips that yield, oldest first -/

/-- The oldest of those that yield went first, each while the free count was below the reserve. -/
structure YieldsFirst (b : State) (cs : List (Fin 64)) : Prop where
  oldest : ∀ c ∈ cs, ∀ d, d ∉ cs → ∀ m, b.clips.recs.get d = some m → Yields m → createdAs b c ≤ createdAs b d
  below : ∀ c ∈ cs, freeWithout b (cs.filter fun d => decide (createdAs b d < createdAs b c)) < b.store.reserve

theorem yieldN_succ_of_oldest {c : Fin 64} {k : Clip} {s : State} (short : freeCount s < s.store.reserve)
    (oldest : oldestClip s (yieldables s) = some c.1) (found : s.clips.recs.get c = some k) (n : Nat) :
    yieldN (n + 1) s = yieldN n (yieldOne c k s) := by
  conv => lhs; unfold yieldN
  rw [if_neg (Nat.not_le.mpr short), oldest]
  dsimp only
  rw [clipAt_val, found]
  rfl

theorem yieldN_succ_of_enough {s : State} (enough : s.store.reserve ≤ freeCount s) (n : Nat) : yieldN (n + 1) s = s := by
  conv => lhs; unfold yieldN
  rw [if_pos enough]

section
variable {b t : State} {cs : List (Fin 64)}

theorem YieldsFirst.step {c : Fin 64} {k : Clip} (first : YieldsFirst b cs) (so : YieldsTo b cs t)
    (found : t.clips.recs.get c = some k) (yields : Yields k) (short : freeWithout b cs < b.store.reserve)
    (least : ∀ d, d ∉ cs → ∀ m, b.clips.recs.get d = some m → Yields m → createdAs b c ≤ createdAs b d) :
    YieldsFirst b (cs ++ [c]) := by
  obtain ⟨fresh, was⟩ := so.before found
  refine ⟨fun e mem d out m there can => ?_, fun e mem => ?_⟩
  · have out' : d ∉ cs := fun h => out (List.mem_append_left _ h)
    rcases List.mem_append.mp mem with old | new
    · exact first.oldest e old d out' m there can
    · rw [List.mem_singleton.mp new]
      exact least d out' m there can
  · rw [List.filter_append]
    rcases List.mem_append.mp mem with old | new
    · have later : ¬createdAs b c < createdAs b e := Nat.not_lt.mpr (first.oldest e old c fresh k was yields)
      rw [List.filter_cons_of_neg (by simpa using later), List.filter_nil, List.append_nil]
      exact first.below e old
    · rw [List.mem_singleton.mp new, List.filter_cons_of_neg (by simp), List.filter_nil, List.append_nil]
      exact (freeWithout_mono List.filter_sublist).trans_lt short

theorem YieldsTo.all_gone (so : YieldsTo b cs t) (many : 64 ≤ cs.length) (c : Fin 64) : t.clips.recs.get c = none := by
  have card : cs.toFinset.card = cs.length := List.toFinset_card_of_nodup so.once
  have all : cs.toFinset = Finset.univ := by
    refine Finset.eq_univ_of_card _ (le_antisymm ?_ ?_)
    · exact Finset.card_le_univ _
    · rw [card, Fintype.card_fin]
      exact many
  have mem : c ∈ cs := List.mem_toFinset.mp (all ▸ Finset.mem_univ c)
  rw [so.recs, if_pos mem]

/-- The clips that a yield releases. -/
theorem yieldN_yields (small : ∀ c k, b.clips.recs.get c = some k → k.creation < 2 ^ 31) (n : Nat)
    (so : YieldsTo b cs t) (first : YieldsFirst b cs) (fuel : 64 ≤ cs.length + n) :
    ∃ ds, YieldsTo b ds (yieldN n t) ∧ YieldsFirst b ds ∧
      (b.store.reserve ≤ (yieldN n t).store.freeList.length ∨
        ∀ c k, (yieldN n t).clips.recs.get c = some k → ¬Yields k) := by
  induction n generalizing cs t with
  | zero => exact ⟨cs, so, first, .inr fun c k found => absurd (found.symm.trans (so.all_gone fuel c)) nofun⟩
  | succ n ih =>
    by_cases enough : t.store.reserve ≤ freeCount t
    · rw [yieldN_succ_of_enough enough]
      exact ⟨cs, so, first, .inl (so.store.1 ▸ enough)⟩
    · have short := Nat.not_le.mp enough
      have small' : ∀ c k, t.clips.recs.get c = some k → k.creation < 2 ^ 31 := fun c k found =>
        small c k (so.before found).2
      by_cases none' : yieldables t = []
      · have stays : NoneYields t := by
          intro c k found can
          refine ⟨fun closed => ?_, fun shipped => ?_⟩
          · exact List.eq_nil_iff_forall_not_mem.mp none' c.1 (mem_yieldables.mpr ⟨c, rfl, k, found, can, .inl closed⟩)
          · exact List.eq_nil_iff_forall_not_mem.mp none' c.1 (mem_yieldables.mpr ⟨c, rfl, k, found, can, .inr shipped⟩)
        rw [yieldN_of_none stays]
        refine ⟨cs, so, first, .inr fun c k found can => ?_⟩
        obtain ⟨closed, shipped⟩ := stays c k found can.1
        exact can.2.elim closed shipped
      · obtain ⟨c, oldest, mem, least⟩ := oldestClip_of_small small' (fun i mem => by
          obtain ⟨c, is, k, found, -⟩ := mem_yieldables.mp mem
          exact ⟨c, is, Option.isSome_iff_exists.mpr ⟨k, found⟩⟩) none'
        obtain ⟨d, is, k, found, yields⟩ := mem_yieldables.mp mem
        obtain rfl : d = c := Fin.ext is
        have created {e : Fin 64} (out : e ∉ cs) : createdAs t e = createdAs b e := by
          unfold createdAs
          rw [so.recs, if_neg out]
        rw [yieldN_succ_of_oldest short oldest found]
        refine ih (so.step found yields) (first.step so found yields ?_ fun e out m there can => ?_) ?_
        · rw [← so.count, ← so.store.1]
          exact short
        · have there' : t.clips.recs.get e = some m := by rw [so.recs, if_neg out, there]
          have le := least e (mem_yieldables.mpr ⟨e, rfl, m, there', can⟩)
          rwa [created (so.before found).1, created out] at le
        · rw [List.length_append, List.length_singleton]
          omega

end

end Sys2Proof.Machine
end

section
/-! PROOFS. O38: SET_RESERVE takes the reserve, sets or clears the pressure, and lets clips yield (R117, R122, R194). -/

namespace Sys2Proof.Machine

set_option Elab.async false

/-- A state whose accepted count is put back to what it was. -/
def uncounted (s u : State) : State := { u with link := { u.link with accepted := s.link.accepted } }

theorem counted_uncounted {s u : State} (kept : u.link.accepted = (s.link.accepted + 1) % 2 ^ 32) :
    u = counted (uncounted s u) := by
  have link : u.link = { u.link with accepted := (s.link.accepted + 1) % 2 ^ 32 } := by rw [← kept]
  show u = { u with link := { u.link with accepted := (s.link.accepted + 1) % 2 ^ 32 } }
  rw [← link]

/-- The state with a new reserve. -/
def reserved (reserve : Nat) (s : State) : State := s.modStore fun t => { t with reserve := reserve }

theorem applyReserve_inner' (s : State) : Inner [.clips, .sched, .chains, .store, .link] s (applyReserve s) := by
  unfold applyReserve yieldRequest
  have pressed := (setPressure_inner none s).widen (ps := [.clips, .sched, .chains, .store, .link])
  refine .ite (.ite ?_ pressed) ((clearPressure_inner s).widen)
  exact ((pressed.andThen (modStore_inner _ _)).andThen (yieldN_inner _ _)).andThen (freedTogether_inner _ _)

section
variable (tag : Byte) (reserve : Nat) {s : State} (free : Free s)
include free

theorem setReserve_refused (exceeds : 1024 < reserve) : exec (.setReserve tag reserve) s = .next
    (answered tag 26 .outOfRange 1 0 [] s) := by
  have fields : firstFail 1 [decide (reserve ≤ 1024)] = 1 := by
    rw [firstFail_cons _ (le_eq_false reserve 1024), if_pos exceeds]
  exact answers_outOfRange free (exec_setReserve tag reserve s) rfl fields one_ne_zero

theorem setReserve_taken (fits : reserve ≤ 1024) : exec (.setReserve tag reserve) s = .next
    (answered tag 26 .done 0 0 [] (uncounted s (applyReserve (reserved reserve (counted s))))) := by
  have fields : firstFail 1 [decide (reserve ≤ 1024)] = 0 := firstFail_of_all (by simpa using fits)
  have kept : (applyReserve (reserved reserve (counted s))).link.accepted = (s.link.accepted + 1) % 2 ^ 32 :=
    (applyReserve_inner' _).queues.accepted
  exact answers_checked (a := done) free (exec_setReserve tag reserve s) rfl fields
    (congrArg (Prod.mk done) (counted_uncounted kept))

end

/-! ### What a new reserve brings about (R117, R122) -/

theorem applyReserve_of_enough {s : State} (enough : s.store.reserve ≤ freeCount s) : applyReserve s = clearPressure s := by
  unfold applyReserve
  rw [if_neg (Nat.not_lt.mpr enough)]

theorem clearPressure_eq {s : State} (enough : s.store.reserve ≤ freeCount s) : clearPressure s =
    s.modStore fun t => { t with pressure := if 0 < t.freeList.length then false else t.pressure } := by
  by_cases some' : 0 < s.store.freeList.length
  · unfold clearPressure State.modStore
    rw [if_pos ⟨enough, some'⟩]
    dsimp only
    rw [if_pos some']
  · unfold clearPressure State.modStore
    rw [if_neg fun h => some' h.2]
    dsimp only
    rw [if_neg some']

/-- The state in which a yield has been asked for. -/
def yieldAsked (s : State) : State := (setPressure none s).modStore fun t => { t with yields := (t.yields + 1) % 2 ^ 32 }

theorem setPressure_store (cut : Option Nat) (s : State) : (setPressure cut s).store = { s.store with pressure := true } := by
  rw [setPressure_eq]

theorem applyReserve_of_short {s : State} (short : freeCount s < s.store.reserve) :
    applyReserve s = freedTogether (setPressure none s) (yieldN 64 (yieldAsked s)) := by
  have short' : freeCount (setPressure none s) < (setPressure none s).store.reserve := by
    unfold freeCount
    rw [setPressure_store]
    exact short
  unfold applyReserve yieldRequest
  rw [if_pos short, if_pos short']
  rfl

theorem setPressure_raises (cut : Option Nat) (s : State) : (setPressure cut s).link.raises.get 10 =
    if s.store.pressure then s.link.raises.get 10 else (s.link.raises.get 10 + 1) % 2 ^ 32 := by
  unfold setPressure
  dsimp only
  split
  · rfl
  · exact raise_raises .storePressure _ _ (by decide)

/-- Where no clip yields, a short reserve sets the pressure and counts the request. -/
theorem applyReserve_of_none {s : State} (short : freeCount s < s.store.reserve) (none' : NoneYields s) :
    applyReserve s = yieldAsked s := by
  have none'' : NoneYields (yieldAsked s) := by
    have clips : (yieldAsked s).clips = s.clips := (setPressure_inner none s).same .clips (by decide)
    unfold NoneYields
    rw [clips]
    exact none'
  rw [applyReserve_of_short short, yieldN_of_none none'']
  exact freedTogether_of_same rfl rfl

/-- A short reserve, where clips may yield: the clips that went, and what they left. -/
theorem applyReserve_yields {s : State} (short : freeCount s < s.store.reserve)
    (small : ∀ c k, s.clips.recs.get c = some k → k.creation < 2 ^ 31) : ∃ ds v freed,
      YieldsTo (yieldAsked s) ds v ∧ YieldsFirst (yieldAsked s) ds ∧
      (s.store.reserve ≤ v.store.freeList.length ∨ ∀ c k, v.clips.recs.get c = some k → ¬Yields k) ∧
      v.store.freeList = s.store.freeList ++ freed ∧
      applyReserve s = v.modStore fun t => { t with freeList := s.store.freeList ++ ascending freed } := by
  have pressed := setPressure_store none s
  have clips : (yieldAsked s).clips = s.clips := (setPressure_inner none s).same .clips (by decide)
  obtain ⟨ds, so, first, ends⟩ := yieldN_yields (b := yieldAsked s) (by rw [clips]; exact small) 64 (.refl _)
    ⟨nofun, nofun⟩ (le_refl _)
  have list : (yieldAsked s).store.freeList = s.store.freeList := by
    show (setPressure none s).store.freeList = _
    rw [pressed]
  have reserve' : (yieldAsked s).store.reserve = s.store.reserve := by
    show (setPressure none s).store.reserve = _
    rw [pressed]
  obtain ⟨freed, free⟩ := so.free
  rw [list] at free
  rw [reserve'] at ends
  refine ⟨ds, _, freed, so, first, ends, free, ?_⟩
  have takes : (yieldN 64 (yieldAsked s)).store.takes = (setPressure none s).store.takes := so.store.2.1
  have older : freeCount (setPressure none s) = s.store.freeList.length := by
    unfold freeCount
    rw [pressed]
  rw [applyReserve_of_short short, freedTogether, takes, diff32_self, Nat.sub_zero, older,
    orderFrees_append _ freed _ free]

/-! ### The statement's accounts of holds -/

section
variable (b : State) (cs : List (Fin 64)) (p : Fin 4) (g : Segment)

theorem hold_withoutClips : hold (withoutClips b cs p g) = (if g.writer then 1 else 0) + (if g.pendingSend then 1 else 0) +
    (if g.retention then 1 else 0) + (g.refs - b.sched.window.countP (sentFor cs p g)) +
    (g.pins - cs.countP (pinnedBy b p g)) := by
  have toNat (x : Bool) : x.toNat = if x then 1 else 0 := by cases x <;> rfl
  unfold withoutClips
  rw [hold_lessHeld, toNat, toNat, toNat]
  omega

theorem sentFor_label {e : Entry} {i r : Nat} (at' : e.place = .label i r) : sentFor cs p g e = false := by
  unfold sentFor dropsFrom
  rw [at']
  exact Bool.and_false _

theorem sentFor_live {e : Entry} {q run x off len : Nat} (at' : e.place = .live q run x off len) :
    sentFor cs p g e = false := by
  have none' : (cs.any fun c => e.isClipOf c.1) = false := by simp [Entry.isClipOf, at']
  unfold sentFor
  rw [none']
  rfl

theorem sentFor_clip {e : Entry} {i q run x off len : Nat} (at' : e.place = .clip i q run x off len) :
    sentFor cs p g e = (cs.any (fun c => i == c.1) && Fin.ofNat 4 q == p && run == g.run &&
      decide (0 < g.fill ∧ g.first < off + len ∧ off < g.first + g.fill)) := by
  have meets : segMeets off (off + len) g = decide (0 < g.fill ∧ g.first < off + len ∧ off < g.first + g.fill) := by
    rw [segMeets, segEnd, Bool.decide_and, Bool.decide_and, Bool.and_assoc]
  unfold sentFor dropsFrom Entry.isClipOf
  rw [at', ← meets, Bool.beq_comm (a := run)]
  simp only [Bool.and_assoc]
  rfl

end

theorem yieldAsked_eq (s : State) : yieldAsked s = { s with
    store := { s.store with pressure := true, yields := (s.store.yields + 1) % 2 ^ 32 }
    link := (setPressure none s).link } := by
  unfold yieldAsked
  rw [setPressure_eq]
  rfl

theorem yieldN_reserve (n : Nat) (s : State) : (yieldN n s).store.reserve = s.store.reserve := by
  induction n generalizing s with
  | zero => rfl
  | succ n ih =>
    unfold yieldN
    split
    · rfl
    · split
      · rfl
      · split
        · rfl
        · rw [ih, (freeZero_store _).1, (raise_inner .clipYielded _ _).same .store (by decide), modClips_store,
            (releaseClip_inner _ _).same .store (by decide)]

theorem yieldAsked_reserve (s : State) : (yieldAsked s).store.reserve = s.store.reserve := by
  unfold yieldAsked
  rw [modStore_store, setPressure_store]

theorem orderFrees_reserve (older : Nat) (s : State) : (orderFrees older s).store.reserve = s.store.reserve := rfl

theorem freedTogether_reserve (start s : State) : (freedTogether start s).store.reserve = s.store.reserve :=
  orderFrees_reserve _ s

theorem applyReserve_reserve (s : State) : (applyReserve s).store.reserve = s.store.reserve := by
  by_cases short : freeCount s < s.store.reserve
  · rw [applyReserve_of_short short, freedTogether_reserve, yieldN_reserve, yieldAsked_reserve]
  · rw [applyReserve_of_enough (Nat.not_lt.mp short)]
    exact (clearPressure_store s).1

/-- The clips that went are those that were there and are not. -/
theorem YieldsTo.gone_perm {b t : State} {ds : List (Fin 64)} (so : YieldsTo b ds t) :
    ((List.finRange 64).filter fun c => (b.clips.recs.get c).isSome && (t.clips.recs.get c).isNone).Perm ds := by
  refine (List.perm_ext_iff_of_nodup ((List.nodup_finRange 64).filter _) so.once).mpr fun c => ?_
  rw [List.mem_filter, so.recs]
  refine ⟨fun h => ?_, fun mem => ⟨List.mem_finRange c, ?_⟩⟩
  · obtain ⟨some', none'⟩ := Bool.and_eq_true_iff.mp h.2
    by_contra out
    rw [if_neg out, Option.isNone_iff_eq_none] at none'
    rw [none'] at some'
    cases some'
  · obtain ⟨k, found, -⟩ := so.yield c mem
    rw [if_pos mem, found]
    rfl

/-- Settles O38. -/
theorem reserveSetsThePressure : Obligations.ReserveSetsThePressure := by
  intro tag reserve s free count yields
  have taken (fits : reserve ≤ 1024) := setReserve_taken tag reserve free fits
  refine ⟨fun fits => ⟨_, taken fits, ?_⟩, setReserve_refused tag reserve free, fun fits enough => ?_,
    fun fits short none' => ?_, fun fits short small => ⟨_, taken fits, ?_⟩⟩
  · exact applyReserve_reserve (reserved reserve (counted s))
  · have enough' : (reserved reserve (counted s)).store.reserve ≤ freeCount (reserved reserve (counted s)) := enough
    rw [taken fits, applyReserve_of_enough enough', clearPressure_eq enough']
    rfl
  · have same := applyReserve_of_none (s := reserved reserve (counted s)) short none'
    refine ⟨_, taken fits, ?_, ?_⟩
    · rw [same, yieldAsked_eq]
      rfl
    · rw [same]
      exact setPressure_raises none (reserved reserve (counted s))
  · obtain ⟨ds, v, freed, so, first, ends, list, same⟩ := applyReserve_yields (s := reserved reserve (counted s)) short small
    have asked := yieldAsked_eq (reserved reserve (counted s))
    rw [same]
    generalize yieldAsked (reserved reserve (counted s)) = b at *
    intro gone sentFor' pinnedBy' created heldWithout freeWithout'
    have clips : b.clips = s.clips := by rw [asked]; rfl
    have sched : b.sched = s.sched := by rw [asked]; rfl
    have chain (p : Fin 4) : b.chain p = s.chain p := by rw [asked]; rfl
    have frees : b.store.freeList = s.store.freeList := by rw [asked]; rfl
    have limit : b.store.reserve = reserve := by rw [asked]; rfl
    have sent (cs : List (Fin 64)) (p : Fin 4) (g : Segment) : sentFor' cs p g = sentFor cs p g := by
      funext e
      dsimp only [sentFor']
      split
      · exact (sentFor_clip cs p g ‹_›).symm
      · exact (sentFor_label cs p g ‹_›).symm
      · exact (sentFor_live cs p g ‹_›).symm
    have pins (p : Fin 4) (g : Segment) : pinnedBy' p g = pinnedBy b p g := by
      funext c
      unfold pinnedBy
      rw [clips]
    have held (cs : List (Fin 64)) (p : Fin 4) (g : Segment) : heldWithout cs p g = hold (withoutClips b cs p g) := by
      rw [hold_withoutClips, ← sent, ← pins, sched]
    have accounts (cs : List (Fin 64)) : freeWithout' cs = freeWithout b cs := by
      unfold freeWithout
      simp only [freeWithout', held, chain, frees, count]
    have made (c : Fin 64) : created c = createdAs b c := by
      unfold createdAs
      rw [clips]
    have perm : gone.Perm ds := by
      have perm := so.gone_perm
      rw [clips] at perm
      exact perm
    have gone' (c : Fin 64) (out : v.clips.recs.get c = none) (k : Clip) (found : s.clips.recs.get c = some k) : c ∈ ds := by
      by_contra away
      rw [so.recs, if_neg away, clips, found] at out
      cases out
    have stays (c : Fin 64) (away : c ∉ ds) : v.clips.recs.get c = s.clips.recs.get c := by
      rw [so.recs, if_neg away, clips]
    refine ⟨fun c k found => ?_, fun c none' => ?_, ?_, ⟨ascending freed, rfl, ascending_sorted _⟩, ?_, fun c mem => ?_, ?_,
      ?_, ?_, ?_, ?_, ?_, ?_, ?_⟩
    · by_cases mem : c ∈ ds
      · obtain ⟨m, was, can⟩ := so.yield c mem
        rw [clips, found] at was
        obtain rfl := Option.some.inj was
        exact .inr ⟨(so.recs c).trans (if_pos mem), can⟩
      · exact .inl ((stays c mem).trans found)
    · by_cases mem : c ∈ ds
      · exact (so.recs c).trans (if_pos mem)
      · exact (stays c mem).trans none'
    · refine ends.imp (fun enough => ?_) fun h => h
      have length : v.store.freeList.length = (s.store.freeList ++ ascending freed).length := by
        rw [list, List.length_append, List.length_append, (ascending_perm _).length_eq]
        rfl
      exact length ▸ enough
    · rw [accounts, freeWithout_perm perm, ← so.count, list]
      show (s.store.freeList ++ ascending freed).length = (s.store.freeList ++ freed).length
      rw [List.length_append, List.length_append, (ascending_perm _).length_eq]
    · rw [accounts, freeWithout_perm (perm.filter _), ← limit]
      simp only [made]
      exact first.below c (perm.subset mem)
    · intro c k d m found out there can
      replace there : v.clips.recs.get d = some m := there
      have away : d ∉ ds := fun mem => by
        have none' := (so.recs d).trans (if_pos mem)
        rw [none'] at there
        cases there
      have was : b.clips.recs.get d = some m := by rw [clips, ← stays d away]; exact there
      have le := first.oldest c (gone' c out k found) d away m was can
      unfold createdAs at le
      rw [clips, found, ← clips, was] at le
      exact le
    · rw [perm.length_eq, ← clips]
      exact so.yielded
    · rw [perm.length_eq, ← clips]
      exact so.released
    · have raised : b.link.raises.get 15 = s.link.raises.get 15 := by
        rw [asked]
        exact setPressure_raises_ne none (reserved reserve (counted s)) (by decide) (by decide)
      rw [perm.length_eq, ← raised]
      exact so.raises
    · refine so.store.2.2.trans ?_
      rw [asked]
      rfl
    · refine (so.parts.same .mem (by decide)).trans ?_
      rw [asked]
      rfl
    · refine (so.parts.same .progs (by decide)).trans ?_
      rw [asked]
      rfl
    · refine (so.parts.same .paths (by decide)).trans ?_
      rw [asked]
      rfl

end Sys2Proof.Machine
end

section
/-! PROOFS. The parts of RESTART: the programs, the clip log's records and labels, and the end of an event in which nothing
drains and no path can send (R21, R104, R174, R197, R210). -/

namespace Sys2Proof.Machine

set_option Elab.async false

/-! ### The end of an event in which nothing is sent and no program drains -/

/-- No program drains, and no live cursor stands. -/
structure Resting (s : State) : Prop where
  programs : ∀ p, (s.prog p).st ≠ .draining
  cursors : ∀ p, (s.live p).cursor = none

theorem Resting.of_inner {ps : List Part} {s t : State} (rests : Resting s) (kept : Inner ps s t)
    (apart : Part.progs ∉ ps ∧ Part.lives ∉ ps) : Resting t := by
  refine ⟨fun p => ?_, fun p => ?_⟩
  · rw [prog_of_same kept apart.1]
    exact rests.programs p
  · have live : t.live p = s.live p := congrArg (fun v => v.get p) (kept.same .lives apart.2)
    rw [live]
    exact rests.cursors p

theorem staleCheck_of_no_cursor {p : Fin 4} {s : State} (absent : (s.live p).cursor = none) : staleCheck p s = s := by
  unfold staleCheck
  rw [absent]

theorem settle_holds_of_resting {P : State → Prop} {s : State} (rests : Resting s) (quiet : ∀ l, SendsNothing (s.path l))
    (asking : ∀ t v, P t → P (t.modSched fun c => { c with asking := v }))
    (shipped : ∀ t, P t → shipDone t = true → P (completeShip t))
    (started : ∀ t, P t → shipCanStart t = true → P (startShip t)) (frees : ∀ t, P t → P (freeZero t)) (holds : P s) :
    P (settle s) := by
  refine (settle_holds_of_quiet (P := fun t => Resting t ∧ P t) ?_ quiet ⟨rests, holds⟩).2
  constructor
  · exact fun t v h => ⟨⟨h.1.programs, h.1.cursors⟩, asking t v h.2⟩
  · intro p t h
    rwa [staleCheck_of_no_cursor (h.1.cursors p)]
  · exact fun p t h done => absurd (draining_of_done done) (h.1.programs p)
  · exact fun p t h done => absurd (draining_of_drained done) (h.1.programs p)
  · exact fun t h done => ⟨h.1.of_inner (completeShip_inner t) (by decide), shipped t h.2 done⟩
  · exact fun t h can => ⟨h.1.of_inner (startShip_inner t) (by decide), started t h.2 can⟩
  · exact fun t h => ⟨h.1.of_inner (freeZero_inner t) (by decide), frees t h.2⟩

/-- An operation on every program in turn, seen from one program. -/
theorem eachProgram_own {f : Fin 4 → State → State} {Q R : State → Prop} (p : Fin 4)
    (before : ∀ i t, i ≠ p → Q t → Q (f i t)) (own : ∀ t, Q t → R (f p t)) (after : ∀ i t, i ≠ p → R t → R (f i t))
    {s : State} (holds : Q s) : R (eachProgram f s) := by
  unfold eachProgram
  match p with
  | 0 => exact after 3 _ (by decide) (after 2 _ (by decide) (after 1 _ (by decide) (own _ holds)))
  | 1 => exact after 3 _ (by decide) (after 2 _ (by decide) (own _ (before 0 _ (by decide) holds)))
  | 2 => exact after 3 _ (by decide) (own _ (before 1 _ (by decide) (before 0 _ (by decide) holds)))
  | 3 => exact own _ (before 2 _ (by decide) (before 1 _ (by decide) (before 0 _ (by decide) holds)))

/-! ### The programs (R21) -/

/-- The record of a program that a RESTART has taken to IDLE. -/
def idledProgram (g : Program) : Program :=
  { g with
    st := .idle, drainPicture := if g.st = .idle then g.drainPicture else none
    writingEnded := g.st != .idle || g.writingEnded }

/-- RESTART takes one program to IDLE. -/
def programIdled (p : Fin 4) (s : State) : State :=
  (takeToIdle p .restarted s).modProg p fun g => { g with writingEnded := (s.prog p).st != .idle || g.writingEnded }

/-- RESTART clears one program's offset, accumulator, coder and missing count. -/
def programCleared (p : Fin 4) (s : State) : State :=
  ((s.modProg p fun g => { g with streamOffset := 0, accumulator := 0 }).modCoder p coderStop).modIntake p fun i =>
    { i with missing := 0 }

/-- A bus whose ramps have ended. -/
def busSettled (b : Bus) : Bus := { b with cells := mapAll (fun _ => settleCell) b.cells }

theorem restartPrograms_eq (s : State) : restartPrograms s =
    (eachProgram programCleared (eachProgram programIdled s)).modMixer fun m =>
      { m with buses := mapAll (fun _ => busSettled) m.buses } := rfl

theorem takeToIdle_prog_ne {p q : Fin 4} (other : p ≠ q) (cause : IdleCause) (s : State) :
    (takeToIdle p cause s).prog q = s.prog q := by
  unfold takeToIdle
  have left : (leaveRun p cause s).prog q = s.prog q := by
    rw [leaveRun_eq, enterIdle_prog, if_neg other]
    unfold runStopped
    rw [modProg_prog, if_neg other]
    exact prog_of_same (storeAbort_inner p _) (by decide) q
  split
  · rfl
  · rw [enterIdle_prog, if_neg other]
    rfl
  · exact left
  · exact left

theorem programIdled_prog (p : Fin 4) (s : State) : (programIdled p s).prog p = idledProgram (s.prog p) := by
  unfold programIdled
  rw [modified_prog]
  cases st : (s.prog p).st with
  | idle =>
    have stays : takeToIdle p .restarted s = s := by unfold takeToIdle; rw [st]
    rw [stays]
    unfold idledProgram
    rw [st, if_pos rfl, ← st]
  | armed =>
    rw [takeToIdle_of_armed st, enterIdle_prog, if_pos rfl]
    unfold idledProgram
    rw [st, if_neg nofun]
    rfl
  | running =>
    rw [takeToIdle_of_run (.inl st), leaveRun_eq, enterIdle_prog, if_pos rfl, runStopped_prog]
    unfold idledProgram
    rw [st, if_neg nofun]
    rfl
  | draining =>
    rw [takeToIdle_of_run (.inr st), leaveRun_eq, enterIdle_prog, if_pos rfl, runStopped_prog]
    unfold idledProgram
    rw [st, if_neg nofun]
    rfl

theorem programIdled_prog_ne {p q : Fin 4} (other : p ≠ q) (s : State) : (programIdled p s).prog q = s.prog q := by
  unfold programIdled
  rw [modProg_prog, if_neg other, takeToIdle_prog_ne other]

theorem programsIdled_prog (s : State) (p : Fin 4) : (eachProgram programIdled s).prog p = idledProgram (s.prog p) :=
  eachProgram_at (g := fun t i => t.prog i) (h := fun _ => idledProgram) programIdled_prog
    (fun _ _ t other => programIdled_prog_ne (Ne.symm other) t) s p

theorem programCleared_prog (p q : Fin 4) (s : State) : (programCleared p s).prog q =
    if p = q then { s.prog q with streamOffset := 0, accumulator := 0 } else s.prog q := by
  have last (t : State) (f : Coder → Coder) (g : Intake → Intake) : ((t.modCoder p f).modIntake p g).prog q = t.prog q := rfl
  unfold programCleared
  rw [last, modProg_prog]
  split
  · rename_i same
    rw [same]
  · rfl

theorem programCleared_coder (p q : Fin 4) (s : State) :
    (programCleared p s).coder q = if p = q then coderStop (s.coder q) else s.coder q := by
  have last (t : State) (g : Intake → Intake) : (t.modIntake p g).coder q = t.coder q := rfl
  have first (f : Program → Program) (i : Fin 4) : (s.modProg p f).coder i = s.coder i := rfl
  unfold programCleared
  rw [last, modCoder_coder, first, first]
  split
  · rename_i same
    rw [same]
  · rfl

theorem programCleared_intake (p q : Fin 4) (s : State) :
    (programCleared p s).intake q = if p = q then { s.intake q with missing := 0 } else s.intake q := by
  have first (f : Program → Program) (g : Coder → Coder) (i : Fin 4) :
      ((s.modProg p f).modCoder p g).intake i = s.intake i := rfl
  unfold programCleared
  rw [modIntake_intake, first, first]
  split
  · rename_i same
    rw [same]
  · rfl

theorem restartPrograms_prog (s : State) (p : Fin 4) : (restartPrograms s).prog p =
    { idledProgram (s.prog p) with streamOffset := 0, accumulator := 0 } := by
  have last (t : State) (f : Mixer → Mixer) : (t.modMixer f).prog p = t.prog p := rfl
  rw [restartPrograms_eq, last, ← programsIdled_prog]
  exact eachProgram_at (f := programCleared) (g := fun t i => t.prog i)
    (h := fun _ g => { g with streamOffset := 0, accumulator := 0 })
    (fun i t => (programCleared_prog i i t).trans (if_pos rfl))
    (fun i j t other => (programCleared_prog i j t).trans (if_neg (Ne.symm other))) _ p

theorem restartPrograms_coder (s : State) (p : Fin 4) :
    (restartPrograms s).coder p = coderStop ((eachProgram programIdled s).coder p) := by
  have last (t : State) (f : Mixer → Mixer) : (t.modMixer f).coder p = t.coder p := rfl
  rw [restartPrograms_eq, last]
  exact eachProgram_at (f := programCleared) (g := fun t i => t.coder i) (h := fun _ => coderStop)
    (fun i t => (programCleared_coder i i t).trans (if_pos rfl))
    (fun i j t other => (programCleared_coder i j t).trans (if_neg (Ne.symm other))) _ p

theorem restartPrograms_intake (s : State) (p : Fin 4) :
    (restartPrograms s).intake p = { (eachProgram programIdled s).intake p with missing := 0 } := by
  have last (t : State) (f : Mixer → Mixer) : (t.modMixer f).intake p = t.intake p := rfl
  rw [restartPrograms_eq, last]
  exact eachProgram_at (f := programCleared) (g := fun t i => t.intake i) (h := fun _ i => { i with missing := 0 })
    (fun i t => (programCleared_intake i i t).trans (if_pos rfl))
    (fun i j t other => (programCleared_intake i j t).trans (if_neg (Ne.symm other))) _ p

theorem programIdled_inner (p : Fin 4) (s : State) : Inner idleParts s (programIdled p s) :=
  (takeToIdle_inner p .restarted s).andThen (modProg_inner' _ p fun g =>
    { g with writingEnded := (s.prog p).st != .idle || g.writingEnded })

theorem programCleared_inner (p : Fin 4) (s : State) : Inner [.progs, .coders, .intakes] s (programCleared p s) :=
  (((modProg_inner' s p _).widen).andThen (modCoder_inner _ p _)).andThen (modIntake_inner _ p _)

theorem programsIdled_inner (s : State) : Inner idleParts s (eachProgram programIdled s) :=
  .eachProgram _ programIdled_inner s

theorem programsCleared_inner (s : State) : Inner [.progs, .coders, .intakes] s (eachProgram programCleared s) :=
  .eachProgram _ programCleared_inner s

theorem restartPrograms_mixer (s : State) : (restartPrograms s).mixer =
    { s.mixer with buses := mapAll (fun _ => busSettled) s.mixer.buses } := by
  rw [restartPrograms_eq, modMixer_mixer, (programsCleared_inner _).same .mixer (by decide),
    (programsIdled_inner s).same .mixer (by decide)]

/-- A program that was not IDLE raises PROGRAM_IDLE. -/
theorem restartPrograms_latches {s : State} {p : Fin 4} (runs : (s.prog p).st ≠ .idle) :
    (restartPrograms s).link.latches.get 5 = true := by
  have raised : (eachProgram programIdled s).link.latches.get 5 = true := by
    refine eachProgram_own (Q := fun t => t.prog p = s.prog p) (R := fun t => t.link.latches.get 5 = true) p
      (fun i t other holds => (programIdled_prog_ne other t).trans holds) (fun t holds => ?_)
      (fun i t _ set => ((programIdled_inner i t).link (by decide)).latches 5 set) rfl
    have runs' : (t.prog p).st ≠ .idle := by rwa [holds]
    unfold programIdled takeToIdle
    rw [modProg_link]
    split
    · exact absurd ‹_› runs'
    · exact enterIdle_latches ..
    · exact enterIdle_latches ..
    · exact enterIdle_latches ..
  rw [restartPrograms_eq, modMixer_link, (programsCleared_inner _).same .link (by decide)]
  exact raised

end Sys2Proof.Machine
end

section
/-! PROOFS. The clip log at a RESTART: its records, its labels by age, and the clip that ships (R184, R196, R197). -/

namespace Sys2Proof.Machine

set_option Elab.async false

/-! ### What closing and starting keep of the records -/

/-- The creation number and the label of a record, absent when FREE. -/
def labelled (l : ClipLog) (c : Fin 64) : Option (Nat × LabelState) := (l.recs.get c).map fun k => (k.creation, k.label)

theorem labelled_recChanged (c : Nat) (d : Fin 64) (f : Clip → Clip) (l : ClipLog) : labelled (recChanged c f l) d =
    if Fin.ofNat 64 c = d then (l.recs.get d).map fun k => ((f k).creation, (f k).label) else labelled l d := by
  show Option.map _ ((Vec.put _ _ _).get d) = _
  rw [Vec_get_put]
  split
  · rename_i same
    subst same
    rw [Option.map_map]
    rfl
  · rfl

/-- Every record's creation number and label stand, and the creation number to come. -/
structure LabelsKept (l m : ClipLog) : Prop where
  recs : ∀ d, labelled m d = labelled l d
  next : m.nextCreation = l.nextCreation

theorem LabelsKept.refl (l : ClipLog) : LabelsKept l l := ⟨fun _ => rfl, rfl⟩

theorem LabelsKept.trans {l m n : ClipLog} (h : LabelsKept l m) (k : LabelsKept m n) : LabelsKept l n :=
  ⟨fun d => (k.recs d).trans (h.recs d), k.next.trans h.next⟩

/-- A change of a record that keeps its creation number and label. -/
theorem LabelsKept.change {f : Clip → Clip} (alike : ∀ k, (f k).creation = k.creation ∧ (f k).label = k.label) (c : Nat)
    (l : ClipLog) : LabelsKept l (recChanged c f l) := by
  refine ⟨fun d => ?_, rfl⟩
  rw [labelled_recChanged]
  split
  · exact congrArg (fun g => Option.map g (l.recs.get d)) (funext fun k => by rw [(alike k).1, (alike k).2])
  · rfl

/-- Records of the same labels are FREE together. -/
theorem LabelsKept.free {l m : ClipLog} (kept : LabelsKept l m) (c : Fin 64) : l.recs.get c = none ↔ m.recs.get c = none := by
  have same := kept.recs c
  unfold labelled at same
  rw [← Option.map_eq_none_iff, ← same, Option.map_eq_none_iff]

theorem closeClip_labels (c q : Nat) (t : Option Timecode) (o : Nat) (s : State) :
    LabelsKept s.clips (closeClip c q t o s).clips := by
  cases found : clipAt c s with
  | none => rw [closeClip_of_none found]; exact .refl _
  | some k =>
    have closed := LabelsKept.change (f := closedAs q t (max k.inOffset o) (pinsBeyond k (max k.inOffset o) s))
      (fun _ => ⟨rfl, rfl⟩) c s.clips
    have queued := LabelsKept.change (f := fun k => { k with st := .queued, shipCursor := none }) (fun _ => ⟨rfl, rfl⟩) c
      (recChanged c (closedAs q t (max k.inOffset o) (pinsBeyond k (max k.inOffset o) s)) s.clips)
    rw [closeClip_clips found]
    split
    · exact ⟨(closed.trans queued).recs, rfl⟩
    · exact closed

theorem closeAtIdle_labels (p : Fin 4) (s : State) : LabelsKept s.clips (closeAtIdle p s).clips := by
  unfold closeAtIdle
  generalize clipIds _ s = ids
  induction ids generalizing s with
  | nil => exact .refl _
  | cons i is ih =>
    refine LabelsKept.trans ?_ (ih _)
    dsimp only
    split
    · exact .refl _
    · exact closeClip_labels ..

/-- Where no clip is OPEN or CLOSING, none closes. -/
theorem closeAtIdle_of_none {p : Fin 4} {s : State}
    (none' : ∀ c k, s.clips.recs.get c = some k → k.st ≠ .opened ∧ k.st ≠ .closing) : closeAtIdle p s = s := by
  unfold closeAtIdle
  rw [clipIds_eq_nil]
  · rfl
  · intro c k found
    obtain ⟨opened, closing⟩ := none' c k found
    simp [opened, closing]

theorem enterIdle_clips (p : Fin 4) (cause : IdleCause) (s : State) : LabelsKept s.clips (enterIdle p cause s).clips ∧
    ((∀ c k, s.clips.recs.get c = some k → k.st ≠ .opened ∧ k.st ≠ .closing) → (enterIdle p cause s).clips = s.clips) := by
  let t := raise .programIdle (u8 p.1 ++ u8 (s.prog p).run ++ u48 (s.prog p).streamOffset ++ u8 cause.code)
    (s.modProg p fun g => { g with st := .idle, drainPicture := none })
  have clips : t.clips = s.clips := (raise_inner .programIdle _ _).same .clips (by decide)
  have whole : enterIdle p cause s = closeAtIdle p t := rfl
  refine ⟨?_, fun none' => ?_⟩
  · rw [whole, ← clips]
    exact closeAtIdle_labels p t
  · rw [whole, closeAtIdle_of_none (by rw [clips]; exact none'), clips]

theorem programIdled_clips (p : Fin 4) (s : State) : LabelsKept s.clips (programIdled p s).clips ∧
    ((∀ c k, s.clips.recs.get c = some k → k.st ≠ .opened ∧ k.st ≠ .closing) → (programIdled p s).clips = s.clips) := by
  have run : (runStopped p s).clips = s.clips := (storeAbort_inner p (runHalted p s)).same .clips (by decide)
  have left := enterIdle_clips p .restarted (runStopped p s)
  rw [run] at left
  unfold programIdled takeToIdle
  rw [modProg_clips]
  split
  · exact ⟨.refl _, fun _ => rfl⟩
  · exact enterIdle_clips p .restarted (clearCut p s)
  · exact left
  · exact left

theorem restartPrograms_clips (s : State) : LabelsKept s.clips (restartPrograms s).clips ∧
    ((∀ c k, s.clips.recs.get c = some k → k.st ≠ .opened ∧ k.st ≠ .closing) → (restartPrograms s).clips = s.clips) := by
  have idled : LabelsKept s.clips (eachProgram programIdled s).clips ∧
      ((∀ c k, s.clips.recs.get c = some k → k.st ≠ .opened ∧ k.st ≠ .closing) →
        (eachProgram programIdled s).clips = s.clips) := by
    refine eachProgram_holds (P := fun t => LabelsKept s.clips t.clips ∧
      ((∀ c k, s.clips.recs.get c = some k → k.st ≠ .opened ∧ k.st ≠ .closing) → t.clips = s.clips)) (fun p t holds => ?_)
      ⟨.refl _, fun _ => rfl⟩
    have one := programIdled_clips p t
    refine ⟨holds.1.trans one.1, fun none' => ?_⟩
    rw [one.2 (by rw [holds.2 none']; exact none'), holds.2 none']
  rw [restartPrograms_eq, modMixer_clips, (programsCleared_inner _).same .clips (by decide)]
  exact idled

theorem completeShip_labels (s : State) : LabelsKept s.clips (completeShip s).clips := by
  rcases completeShip_clips s with e | ⟨i, next, e⟩ <;> rw [e]
  · exact .refl _
  · exact ⟨(LabelsKept.change (f := fun r => { r with st := .shipped, shipCursor := next }) (fun _ => ⟨rfl, rfl⟩) i _).recs, rfl⟩

theorem startShip_labels (s : State) : LabelsKept s.clips (startShip s).clips := by
  rcases startShip_clips s with ⟨rest, e⟩ | ⟨i, rest, e⟩ <;> rw [e]
  · exact ⟨fun _ => rfl, rfl⟩
  · exact LabelsKept.trans (m := { s.clips with shipQueue := rest }) ⟨fun _ => rfl, rfl⟩
      (.change (f := fun k => { k with st := .shipping, shipCursor := some k.inOffset }) (fun _ => ⟨rfl, rfl⟩) i _)

theorem settleShip_labels (s : State) : LabelsKept s.clips (settleShip s).clips :=
  settleShip_holds (P := fun t => LabelsKept s.clips t.clips) (fun t holds _ => holds.trans (completeShip_labels t))
    (fun t holds _ => holds.trans (startShip_labels t)) (.refl _)

/-- A record keeps its creation number and label. -/
theorem LabelsKept.record {l m : ClipLog} (kept : LabelsKept l m) {c : Fin 64} {k : Clip} (found : m.recs.get c = some k) :
    ∃ x, l.recs.get c = some x ∧ x.creation = k.creation ∧ x.label = k.label := by
  have same := kept.recs c
  unfold labelled at same
  rw [found] at same
  obtain ⟨x, at', e⟩ := Option.map_eq_some_iff.mp same.symm
  exact ⟨x, at', congrArg Prod.fst e, congrArg Prod.snd e⟩

theorem shippingRequeued_labels (s : State) : LabelsKept s.clips (shippingRequeued s).clips := by
  unfold shippingRequeued
  cases shippingClip s with
  | none => exact .refl _
  | some c =>
    exact ⟨(LabelsKept.change (f := fun k => { k with st := .queued, shipCursor := none }) (fun _ => ⟨rfl, rfl⟩) c s.clips).recs,
      rfl⟩

/-! ### Clips by age -/

theorem insertByAge_perm (x : Nat × Clip) (ys : List (Nat × Clip)) : (insertByAge x ys).Perm (x :: ys) := by
  induction ys with
  | nil => exact .refl _
  | cons y ys ih =>
    unfold insertByAge
    split
    · exact ((ih.cons y).trans (.swap x y ys))
    · exact .refl _

theorem clipsByAge_perm (s : State) : (clipsByAge s).Perm (clipRows s) := by
  rw [clipsByAge_eq_foldr]
  generalize clipRows s = rows
  induction rows with
  | nil => exact .refl _
  | cons x xs ih => exact (insertByAge_perm x _).trans (ih.cons x)

/-- Rows in order of creation. -/
def ByCreation (rows : List (Nat × Clip)) : Prop := rows.Pairwise fun x y => x.2.creation ≤ y.2.creation

theorem insertByAge_sorted {x : Nat × Clip} {ys : List (Nat × Clip)} (small : x.2.creation < 2 ^ 31)
    (smalls : ∀ y ∈ ys, y.2.creation < 2 ^ 31) (sorted : ByCreation ys) : ByCreation (insertByAge x ys) := by
  induction ys with
  | nil => exact List.pairwise_singleton _ x
  | cons y ys ih =>
    obtain ⟨first, rest⟩ := List.pairwise_cons.mp sorted
    have order := newer32_of_small small (smalls y List.mem_cons_self)
    unfold insertByAge
    split
    · rename_i newer
      refine List.pairwise_cons.mpr ⟨fun z mem => ?_, ih (fun z mem => smalls z (List.mem_cons_of_mem y mem)) rest⟩
      rcases List.mem_cons.mp ((insertByAge_perm x ys).subset mem) with rfl | later
      · exact (order.mp newer).le
      · exact first z later
    · rename_i older
      have le : x.2.creation ≤ y.2.creation := Nat.not_lt.mp (mt order.mpr older)
      refine List.pairwise_cons.mpr ⟨fun z mem => ?_, sorted⟩
      rcases List.mem_cons.mp mem with rfl | later
      · exact le
      · exact le.trans (first z later)

theorem clipsByAge_sorted {s : State} (small : ∀ c k, s.clips.recs.get c = some k → k.creation < 2 ^ 31) :
    ByCreation (clipsByAge s) := by
  have smalls : ∀ x ∈ clipRows s, x.2.creation < 2 ^ 31 := fun x mem => by
    obtain ⟨c, -, found⟩ := mem_clipRows.mp mem
    exact small c x.2 found
  rw [clipsByAge_eq_foldr]
  generalize clipRows s = rows at *
  induction rows with
  | nil => exact .nil
  | cons x xs ih =>
    have rest := fun y mem => smalls y (List.mem_cons_of_mem x mem)
    have perm : (xs.foldr insertByAge []).Perm xs := by
      clear ih smalls rest
      induction xs with
      | nil => exact .refl _
      | cons y ys ih => exact (insertByAge_perm y _).trans (ih.cons y)
    exact insertByAge_sorted (smalls x List.mem_cons_self) (fun y mem => rest y (perm.subset mem)) (ih rest)

/-! ### Labels that wait again (R197) -/

/-- The clips whose label is not CONFIRMED, oldest first. -/
def unconfirmed (s : State) : List (Nat × Clip) := (clipsByAge s).filter fun x => x.2.label != .confirmed

theorem mem_unconfirmed {s : State} {x : Nat × Clip} : x ∈ unconfirmed s ↔
    ∃ c : Fin 64, c.1 = x.1 ∧ s.clips.recs.get c = some x.2 ∧ x.2.label ≠ .confirmed := by
  unfold unconfirmed
  rw [List.mem_filter, (clipsByAge_perm s).mem_iff, mem_clipRows]
  simp only [bne_iff_ne]
  exact ⟨fun ⟨⟨c, is, found⟩, label⟩ => ⟨c, is, found, label⟩, fun ⟨c, is, found, label⟩ => ⟨⟨c, is, found⟩, label⟩⟩

/-- The ids of the clips whose label is not CONFIRMED, oldest first. -/
def unconfirmedIds (s : State) : List Nat := (unconfirmed s).map Prod.fst

theorem mem_unconfirmedIds {s : State} {i : Nat} : i ∈ unconfirmedIds s ↔
    ∃ (c : Fin 64) (k : Clip), c.1 = i ∧ s.clips.recs.get c = some k ∧ k.label ≠ .confirmed := by
  unfold unconfirmedIds
  rw [List.mem_map]
  refine ⟨fun ⟨x, mem, is⟩ => ?_, fun ⟨c, k, is, found, label⟩ => ?_⟩
  · obtain ⟨c, at', found, label⟩ := mem_unconfirmed.mp mem
    exact ⟨c, x.2, at'.trans is, found, label⟩
  · exact ⟨(i, k), mem_unconfirmed.mpr ⟨c, is, found, label⟩, rfl⟩

theorem unconfirmedIds_nodup (s : State) : (unconfirmedIds s).Nodup := by
  have rows : ((clipsByAge s).map Prod.fst).Nodup := by
    refine ((clipsByAge_perm s).map Prod.fst).nodup_iff.mpr ?_
    refine List.Nodup.map_on ?_ (clipRows_nodup s)
    rintro ⟨i, k⟩ mem ⟨j, m⟩ mem' rfl
    obtain ⟨c, is, found⟩ := mem_clipRows.mp mem
    obtain ⟨d, is', found'⟩ := mem_clipRows.mp mem'
    obtain rfl : c = d := Fin.ext (is.trans is'.symm)
    rw [found] at found'
    exact congrArg (Prod.mk i) (Option.some.inj found')
  exact rows.sublist (List.filter_sublist.map _)

theorem unconfirmedIds_sorted {s : State} (small : ∀ c k, s.clips.recs.get c = some k → k.creation < 2 ^ 31) :
    (unconfirmedIds s).Pairwise fun i j => ∀ (c d : Fin 64) k m, c.1 = i → d.1 = j → s.clips.recs.get c = some k →
      s.clips.recs.get d = some m → k.creation ≤ m.creation := by
  have sorted : (unconfirmed s).Pairwise fun x y => x.2.creation ≤ y.2.creation := (clipsByAge_sorted small).filter _
  refine List.pairwise_map.mpr (sorted.imp_of_mem fun {x y} memx memy le c d k m isc isd foundc foundd => ?_)
  obtain ⟨c', at', found, -⟩ := mem_unconfirmed.mp memx
  obtain ⟨d', at'', found', -⟩ := mem_unconfirmed.mp memy
  obtain rfl : c' = c := Fin.ext (at'.trans isc.symm)
  obtain rfl : d' = d := Fin.ext (at''.trans isd.symm)
  rw [foundc] at found
  rw [foundd] at found'
  rw [Option.some.inj found, Option.some.inj found']
  exact le

theorem addLabel_of_fresh {c : Nat} {s : State} (fresh : c ∉ s.sched.labelQueue) :
    (addLabel c s).sched.labelQueue = s.sched.labelQueue ++ [c] := by
  unfold addLabel
  rw [if_neg fun mem => fresh (List.contains_iff_mem.mp mem)]
  rfl

/-- The labels of some clips wait again, each at the label queue's tail. -/
theorem foldl_labelRequeued {xs : List (Nat × Clip)} {s : State} (ids : ∀ x ∈ xs, ∃ c : Fin 64, c.1 = x.1)
    (once : (s.sched.labelQueue ++ xs.map Prod.fst).Nodup) :
    (xs.foldl labelRequeued s).sched.labelQueue = s.sched.labelQueue ++ xs.map Prod.fst ∧
    ∀ c : Fin 64, (xs.foldl labelRequeued s).clips.recs.get c =
      if c.1 ∈ xs.map Prod.fst then (s.clips.recs.get c).map fun k => { k with label := .pending }
      else s.clips.recs.get c := by
  induction xs generalizing s with
  | nil => exact ⟨(List.append_nil _).symm, fun _ => rfl⟩
  | cons x xs ih =>
    obtain ⟨d, is⟩ := ids x List.mem_cons_self
    have fresh : x.1 ∉ s.sched.labelQueue := fun mem =>
      (List.nodup_append.mp once).2.2 x.1 mem x.1 List.mem_cons_self rfl
    have queue : (labelRequeued s x).sched.labelQueue = s.sched.labelQueue ++ [x.1] :=
      addLabel_of_fresh (s := modClip x.1 (fun k => { k with label := .pending }) s) fresh
    have recs (c : Fin 64) : (labelRequeued s x).clips.recs.get c =
        if d = c then (s.clips.recs.get d).map fun k => { k with label := .pending } else s.clips.recs.get c := by
      unfold labelRequeued
      rw [addLabel_clips, modClip_recs, ← is, Fin.ofNat_val_eq_self]
      split
      · rename_i same
        rw [same]
      · rfl
    rw [List.map_cons, ← List.singleton_append, ← List.append_assoc, ← queue] at once
    obtain ⟨queue', recs'⟩ := ih (s := labelRequeued s x) (fun y mem => ids y (List.mem_cons_of_mem x mem)) once
    have apart : d.1 ∉ xs.map Prod.fst := fun mem => by
      rw [queue, is.symm] at once
      exact (List.nodup_append.mp once).2.2 d.1 (List.mem_append_right _ List.mem_cons_self) d.1 mem rfl
    rw [List.foldl_cons]
    refine ⟨?_, fun c => ?_⟩
    · rw [queue', queue, List.append_assoc]
      rfl
    · rw [recs', recs, List.map_cons, ← is]
      by_cases same : d = c
      · subst same
        rw [if_neg apart, if_pos rfl, if_pos List.mem_cons_self]
      · have ne : c.1 ≠ d.1 := fun e => same (Fin.ext e.symm)
        rw [if_neg same]
        simp only [List.mem_cons, ne, false_or]

end Sys2Proof.Machine
end

section
/-! PROOFS. O59: RESTART, stage by stage (R21, R51, R80, R104, R125, R148, R174, R197, R210). -/

namespace Sys2Proof.Machine

set_option Elab.async false

/-! ### The stages after the programs -/

/-- The state after the store's part of a RESTART. -/
def storeRestarted (s : State) : State := restartStore (restartScheduler (restartPrograms s))

/-- The state before the end of a RESTART. -/
def restarted (s : State) : State := restartAllocator (restartPaths (restartClips (storeRestarted s)))

section
variable (s : State)

theorem storeRestarted_inner : Inner [.sched, .lives, .chains, .store] (restartPrograms s) (storeRestarted s) :=
  ((restartScheduler_inner _).widen).andThen (restartStore_inner _)

theorem restarted_inner : Inner [.sched, .clips, .link, .paths, .alloc] (storeRestarted s) (restarted s) :=
  (((restartClips_inner _).widen (ps := [.sched, .clips, .link, .paths, .alloc])).andThen (restartPaths_inner _)).andThen
    (restartAllocator_inner _)

theorem restarted_programs : Inner [.sched, .lives, .chains, .store, .clips, .link, .paths, .alloc] (restartPrograms s)
    (restarted s) := ((storeRestarted_inner s).widen).andThen (restarted_inner s)

theorem restarted_prog (p : Fin 4) : (restarted s).prog p =
    { idledProgram (s.prog p) with streamOffset := 0, accumulator := 0 } := by
  rw [prog_of_same (restarted_programs s) (by decide), restartPrograms_prog]

theorem restartScheduler_live (p : Fin 4) (t : State) : ((restartScheduler t).live p).cursor = none := by
  have each (i : Fin 4) (u : State) : (u.modLive i fun v => { v with cursor := none }).live i = { u.live i with cursor := none } :=
    (modLive_live u i i fun v => { v with cursor := none }).trans (if_pos rfl)
  have at' := eachProgram_at (f := fun i u => u.modLive i fun v => { v with cursor := none }) (g := fun u i => u.live i)
    (h := fun _ v => { v with cursor := none }) each
    (fun i j u other => (modLive_live u i j fun v => { v with cursor := none }).trans (if_neg (Ne.symm other)))
    (t.modSched fun c => { c with
      window := [], labelQueue := [], abandoned := [], clipCursor := none, bucket := 0
      asking := Vector.replicate 6 false }) p
  exact congrArg Live.cursor at'

theorem storeRestarted_live (p : Fin 4) : ((storeRestarted s).live p).cursor = none := by
  have live : (storeRestarted s).live p = (restartScheduler (restartPrograms s)).live p :=
    congrArg (fun v => v.get p) ((restartStore_inner _).same .lives (by decide))
  rw [live, restartScheduler_live]

theorem restarted_resting : Resting (restarted s) := by
  refine ⟨fun p => ?_, fun p => ?_⟩
  · rw [restarted_prog]
    exact nofun
  · have live : (restarted s).live p = (storeRestarted s).live p :=
      congrArg (fun v => v.get p) ((restarted_inner s).same .lives (by decide))
    rw [live, storeRestarted_live]

/-- A path's record after a RESTART. -/
def restartedPath (p : Path) : Path :=
  { p with credit := 0, good := 0, bad := 0, bitsSent := 0, bitsGranted := 0, packetsSent := 0 }

theorem restartPaths_path (t : State) (l : Fin 6) : (restartPaths t).path l = restartedPath (t.path l) := by
  unfold restartPaths
  rw [eachPath_modPath]
  exact Vec_get_tab _ _

theorem restarted_path (l : Fin 6) : (restarted s).path l = restartedPath (s.path l) := by
  have last : (restarted s).path l = (restartPaths (restartClips (storeRestarted s))).path l :=
    path_of_same (restartAllocator_inner _) (by decide) l
  have first : (restartClips (storeRestarted s)).path l = s.path l := by
    rw [path_of_same (restartClips_inner _) (by decide), path_of_same (storeRestarted_inner s) (by decide),
      path_of_same (restartPrograms_inner s) (by decide)]
  rw [last, restartPaths_path, first]

theorem restarted_quiet (l : Fin 6) : SendsNothing ((restarted s).path l) := by
  rw [restarted_path]
  exact .of_broke rfl

/-! ### Segments (R125) -/

/-- A segment that a clip alone holds. -/
structure PinnedOnly (x : Segment) : Prop where
  isSealed : x.isSealed = true
  writer : x.writer = false
  pendingSend : x.pendingSend = false
  refs : x.refs = 0
  retention : x.retention = false
  pins : 0 < x.pins

theorem restartStore_segs (t : State) (p : Fin 4) : ∀ x ∈ ((restartStore t).chain p).segs, PinnedOnly x := by
  let f (i : Fin 4) (u : State) : State := u.modChain i fun c =>
    { c with
      cut := none
      segs := c.segs.map fun g =>
        { g with isSealed := true, writer := false, pendingSend := false, retention := false, refs := 0 } }
  have chain : (restartStore t).chain p = (freeZero (eachProgram f t)).chain p :=
    congrArg (fun v => v.get p) ((clearPressure_inner (freeZero (eachProgram f t))).same .chains (by decide))
  have each := eachProgram_at (f := f) (g := fun u i => (u.chain i).segs)
    (h := fun _ segs => segs.map fun g =>
      { g with isSealed := true, writer := false, pendingSend := false, retention := false, refs := 0 })
    (fun i u => congrArg Chain.segs ((modChain_chain u i i _).trans (if_pos rfl)))
    (fun i j u other => congrArg Chain.segs ((modChain_chain u i j _).trans (if_neg (Ne.symm other)))) t p
  intro x mem
  rw [chain, freeZero_chain] at mem
  obtain ⟨mem, held⟩ := List.mem_filter.mp mem
  rw [each] at mem
  obtain ⟨g, -, rfl⟩ := List.mem_map.mp mem
  refine ⟨rfl, rfl, rfl, rfl, rfl, ?_⟩
  simpa [hold, Nat.pos_iff_ne_zero] using held

theorem settle_segs {t : State} (rests : Resting t) (quiet : ∀ l, SendsNothing (t.path l)) {p : Fin 4}
    (pinned : ∀ x ∈ (t.chain p).segs, PinnedOnly x) : ∀ x ∈ ((settle t).chain p).segs, PinnedOnly x := by
  have kept {ps : List Part} {u v : State} (h : Inner ps u v) (not : Part.chains ∉ ps)
      (holds : ∀ x ∈ (u.chain p).segs, PinnedOnly x) : ∀ x ∈ (v.chain p).segs, PinnedOnly x := by
    have same : v.chain p = u.chain p := congrArg (fun v => v.get p) (h.same .chains not)
    rwa [same]
  refine settle_holds_of_resting (P := fun u => ∀ x ∈ (u.chain p).segs, PinnedOnly x) rests quiet
    (fun u v holds => holds) (fun u holds _ => kept (completeShip_inner u) (by decide) holds)
    (fun u holds _ => kept (startShip_inner u) (by decide) holds) (fun u holds => ?_) pinned
  intro x mem
  rw [freeZero_chain] at mem
  exact holds x (List.mem_filter.mp mem).1

end

/-! ### The scheduler (R174) -/

/-- The scheduler has nothing to send but labels. -/
structure Emptied (next : Nat) (labels : List Nat) (c : Scheduler) : Prop where
  window : c.window = []
  abandoned : c.abandoned = []
  bucket : c.bucket = 0
  next : c.nextSend = next
  labels : c.labelQueue = labels

section
variable {next : Nat} {labels : List Nat} {t : State}

theorem Emptied.relabel {c d : Scheduler} {others : List Nat} (empty : Emptied next others c) (only : OnlyLabels c d)
    (queue : d.labelQueue = labels) : Emptied next labels d := by
  unfold OnlyLabels at only
  rw [only]
  exact ⟨empty.window, empty.abandoned, empty.bucket, empty.next, queue⟩

theorem Emptied.restartAllocator (empty : Emptied next labels t.sched) : Emptied next labels (restartAllocator t).sched := by
  unfold Machine.restartAllocator
  rw [runAllocator_frame, modAlloc_sched]
  exact ⟨empty.window, empty.abandoned, by rw [empty.bucket]; exact Nat.zero_min _, empty.next, empty.labels⟩

theorem Emptied.completeShip (empty : Emptied next labels t.sched) : Emptied next labels (completeShip t).sched := by
  rw [completeShip_sched]
  exact ⟨empty.window, empty.abandoned, empty.bucket, empty.next, empty.labels⟩

theorem Emptied.startShip (empty : Emptied next labels t.sched) : Emptied next labels (startShip t).sched := by
  rw [startShip_sched]
  exact ⟨empty.window, empty.abandoned, empty.bucket, empty.next, empty.labels⟩

theorem Emptied.settleShip (empty : Emptied next labels t.sched) : Emptied next labels (settleShip t).sched :=
  settleShip_holds (P := fun t => Emptied next labels t.sched) (fun _ holds _ => holds.completeShip)
    (fun _ holds _ => holds.startShip) empty

theorem Emptied.settle (empty : Emptied next labels t.sched) (rests : Resting t) (quiet : ∀ l, SendsNothing (t.path l)) :
    Emptied next labels (settle t).sched :=
  settle_holds_of_resting (P := fun t => Emptied next labels t.sched) rests quiet
    (fun _ _ holds => ⟨holds.window, holds.abandoned, holds.bucket, holds.next, holds.labels⟩)
    (fun _ holds _ => holds.completeShip) (fun _ holds _ => holds.startShip)
    (fun u holds => by rwa [(freeZero_inner u).same .sched (by decide)]) empty

end

/-- The state in which every label that is not CONFIRMED waits again. -/
def labelsRequeued (s : State) : State := (unconfirmed (shippingRequeued s)).foldl labelRequeued (shippingRequeued s)

theorem restartClips_settles (s : State) : restartClips s = settleShip (labelsRequeued s) := restartClips_eq s

section
variable (s : State)

theorem storeRestarted_sched : Emptied s.sched.nextSend [] (storeRestarted s).sched ∧
    (storeRestarted s).sched.clipCursor = none := by
  have programs := restartPrograms_sched s
  have next : (restartPrograms s).sched.nextSend = s.sched.nextSend := by
    unfold OnlyLabels at programs
    rw [programs]
  have sched : (restartScheduler (restartPrograms s)).sched = { (restartPrograms s).sched with
      window := [], labelQueue := [], abandoned := [], clipCursor := none, bucket := 0
      asking := Vector.replicate 6 false } := rfl
  rw [storeRestarted, restartStore_sched, sched]
  exact ⟨⟨rfl, rfl, rfl, next, rfl⟩, rfl⟩

theorem labelsRequeued_clips {t : State} (none' : t.sched.labelQueue = []) :
    (labelsRequeued t).sched.labelQueue = unconfirmedIds (shippingRequeued t) ∧
    ∀ c : Fin 64, (labelsRequeued t).clips.recs.get c =
      if c.1 ∈ unconfirmedIds (shippingRequeued t) then
        ((shippingRequeued t).clips.recs.get c).map fun k => { k with label := .pending }
      else (shippingRequeued t).clips.recs.get c := by
  have queue : (shippingRequeued t).sched.labelQueue = [] := by rw [shippingRequeued_sched, none']
  have requeued := foldl_labelRequeued (xs := unconfirmed (shippingRequeued t)) (s := shippingRequeued t)
    (fun x mem => by
      obtain ⟨c, is, -⟩ := mem_unconfirmed.mp mem
      exact ⟨c, is⟩)
    (by rw [queue]; exact unconfirmedIds_nodup _)
  rw [queue] at requeued
  exact requeued

theorem labelsRequeued_sched (t : State) : OnlyLabels t.sched (labelsRequeued t).sched := by
  have folds := foldl_sched labelRequeued_sched (unconfirmed (shippingRequeued t)) (shippingRequeued t)
  rw [shippingRequeued_sched] at folds
  exact folds

theorem restarted_sched :
    Emptied s.sched.nextSend (unconfirmedIds (shippingRequeued (storeRestarted s))) (restarted s).sched := by
  obtain ⟨empty, -⟩ := storeRestarted_sched s
  have waits : Emptied s.sched.nextSend (unconfirmedIds (shippingRequeued (storeRestarted s)))
      (labelsRequeued (storeRestarted s)).sched :=
    empty.relabel (labelsRequeued_sched _) (labelsRequeued_clips empty.labels).1
  have paths : (restartPaths (restartClips (storeRestarted s))).sched = (settleShip (labelsRequeued (storeRestarted s))).sched := by
    rw [(restartPaths_inner _).same .sched (by decide), restartClips_settles]
  have ships := waits.settleShip
  rw [← paths] at ships
  exact ships.restartAllocator

end

end Sys2Proof.Machine
end

section
/-! PROOFS. O59: the clip log at a RESTART, and what a RESTART leaves in all (R197, R210). -/

namespace Sys2Proof.Machine

set_option Elab.async false

/-! ### Labels (R197) -/

/-- A label after a RESTART: one that is not CONFIRMED waits again. -/
def waitsAgain (l : LabelState) : LabelState := if l = .confirmed then .confirmed else .pending

/-- Every record stands but for its label, which waits again unless it is CONFIRMED. -/
structure WaitAgain (l m : ClipLog) : Prop where
  recs : ∀ c, labelled m c = (labelled l c).map fun x => (x.1, waitsAgain x.2)
  next : m.nextCreation = l.nextCreation

theorem WaitAgain.trans {l m n : ClipLog} (h : WaitAgain l m) (k : LabelsKept m n) : WaitAgain l n :=
  ⟨fun c => (k.recs c).trans (h.recs c), k.next.trans h.next⟩

theorem LabelsKept.waitAgain {l m n : ClipLog} (h : LabelsKept l m) (k : WaitAgain m n) : WaitAgain l n :=
  ⟨fun c => by rw [k.recs, h.recs], k.next.trans h.next⟩

theorem labelRequeued_next (s : State) (x : Nat × Clip) : (labelRequeued s x).clips.nextCreation = s.clips.nextCreation := by
  unfold labelRequeued
  rw [addLabel_clips]
  rfl

theorem labelRequeued_shipQueue (s : State) (x : Nat × Clip) : (labelRequeued s x).clips.shipQueue = s.clips.shipQueue := by
  unfold labelRequeued
  rw [addLabel_clips]
  rfl

theorem foldl_keeps {α β : Type} {f : State → β → State} {g : State → α} (each : ∀ t x, g (f t x) = g t) (xs : List β)
    (s : State) : g (xs.foldl f s) = g s := by
  induction xs generalizing s with
  | nil => rfl
  | cons x xs ih => exact (ih _).trans (each s x)

theorem labelsRequeued_waitAgain {t : State} (none' : t.sched.labelQueue = []) :
    WaitAgain t.clips (labelsRequeued t).clips := by
  have next : (labelsRequeued t).clips.nextCreation = (shippingRequeued t).clips.nextCreation :=
    foldl_keeps (g := fun t => t.clips.nextCreation) labelRequeued_next _ _
  have recs := (labelsRequeued_clips none').2
  refine (shippingRequeued_labels t).waitAgain ⟨fun c => ?_, next⟩
  unfold labelled
  rw [recs]
  cases found : (shippingRequeued t).clips.recs.get c with
  | none => split <;> rfl
  | some k =>
    have waits : c.1 ∈ unconfirmedIds (shippingRequeued t) ↔ k.label ≠ .confirmed := by
      rw [mem_unconfirmedIds]
      refine ⟨fun ⟨d, m, is, there, label⟩ => ?_, fun label => ⟨c, k, rfl, found, label⟩⟩
      obtain rfl : d = c := Fin.ext is
      rw [found] at there
      rwa [Option.some.inj there]
    by_cases label : k.label = .confirmed
    · rw [if_neg (fun mem => waits.mp mem label)]
      simp [waitsAgain, label]
    · rw [if_pos (waits.mpr label)]
      simp [waitsAgain, label]

section
variable (s : State)

theorem storeRestarted_clips : LabelsKept s.clips (storeRestarted s).clips ∧
    ((∀ c k, s.clips.recs.get c = some k → k.st ≠ .opened ∧ k.st ≠ .closing) → (storeRestarted s).clips = s.clips) := by
  rw [(storeRestarted_inner s).same .clips (by decide)]
  exact restartPrograms_clips s

theorem restarted_clips_eq : (restarted s).clips = (settleShip (labelsRequeued (storeRestarted s))).clips := by
  rw [restarted, (restartAllocator_inner _).same .clips (by decide), (restartPaths_inner _).same .clips (by decide),
    restartClips_settles]

theorem restarted_waitAgain : WaitAgain s.clips (restarted s).clips := by
  have again := labelsRequeued_waitAgain (storeRestarted_sched s).1.labels
  rw [restarted_clips_eq]
  exact ((storeRestarted_clips s).1.waitAgain again).trans (settleShip_labels _)

theorem settle_labels {t : State} (rests : Resting t) (quiet : ∀ l, SendsNothing (t.path l)) :
    LabelsKept t.clips (settle t).clips :=
  settle_holds_of_resting (P := fun u => LabelsKept t.clips u.clips) rests quiet (fun _ _ holds => holds)
    (fun u holds _ => holds.trans (completeShip_labels u)) (fun u holds _ => holds.trans (startShip_labels u))
    (fun u holds => by rwa [(freeZero_inner u).same .clips (by decide)]) (.refl _)

/-! ### The clip that ships (R189, R197) -/

theorem startShip_of_head {t : State} {c : Fin 64} {rest : List Nat} {k : Clip} (queue : t.clips.shipQueue = c.1 :: rest)
    (found : t.clips.recs.get c = some k) :
    (startShip t).clips = recChanged c.1 (fun k => { k with st := .shipping, shipCursor := some k.inOffset })
        { t.clips with shipQueue := rest } ∧
      (startShip t).sched.clipCursor = some ⟨c.1, k.program.1, k.run, k.outOffset.getD k.inOffset, k.inOffset⟩ := by
  have at' : clipAt c.1 (t.modClips fun l => { l with shipQueue := rest }) = some k := by
    rw [clipAt_val]
    exact found
  unfold startShip
  rw [queue]
  dsimp only
  rw [at']
  exact ⟨rfl, rfl⟩

theorem settleShip_of_start {t : State} (idle : shipDone t = false) (can : shipCanStart t = true)
    (busy : ShipBusy (startShip t)) : settleShip t = startShip t := by
  have stays (n : Nat) : settleShipN n (startShip t) = startShip t := by
    cases n with
    | zero => rfl
    | succ n =>
      unfold settleShipN
      rw [busy.not_done, busy.not_start]
      rfl
  unfold settleShip settleShipN
  rw [idle, can]
  exact stays 129

/-- The one clip that ships. -/
structure ShipsAlone (t : State) (c : Fin 64) (k : Clip) (out : Nat) : Prop where
  found : t.clips.recs.get c = some k
  ships : k.st = .shipping
  ends : k.outOffset = some out
  bytes : k.inOffset < out
  alone : ∀ d m, d ≠ c → t.clips.recs.get d = some m → m.st ≠ .shipping

variable {s}

theorem ShipsAlone.first {t : State} {c : Fin 64} {k : Clip} {out : Nat} (alone : ShipsAlone t c k out) :
    shippingClip t = some c.1 := by
  have first := find?_finRange_first (f := clipPasses (fun k => k.st == .shipping) t) (c := c)
    (clipPasses_iff.mpr ⟨k, alone.found, by rw [alone.ships]; rfl⟩) fun d lower => by
      refine Bool.eq_false_iff.mpr fun passes => ?_
      obtain ⟨m, there, ships⟩ := clipPasses_iff.mp passes
      exact alone.alone d m lower.ne there (by simpa using ships)
  unfold shippingClip
  rw [clipIds_head?, first]
  rfl

theorem ShipsAlone.requeued {t : State} {c : Fin 64} {k : Clip} {out : Nat} (alone : ShipsAlone t c k out)
    (none' : t.sched.labelQueue = []) : ∃ l,
      (labelsRequeued t).clips.recs.get c = some { k with st := .queued, shipCursor := none, label := l } ∧
      (∀ d m, (labelsRequeued t).clips.recs.get d = some m → m.st ≠ .shipping) ∧
      (labelsRequeued t).clips.shipQueue = c.1 :: t.clips.shipQueue := by
  have ship : shippingRequeued t = (modClip c.1 (fun k => { k with st := .queued, shipCursor := none }) t).modClips fun l =>
      { l with shipQueue := c.1 :: l.shipQueue } := by
    unfold shippingRequeued
    rw [alone.first]
    rfl
  have recs (d : Fin 64) : (shippingRequeued t).clips.recs.get d =
      if c = d then some { k with st := .queued, shipCursor := none } else t.clips.recs.get d := by
    rw [ship]
    refine (modClip_recs c.1 _ t d).trans ?_
    rw [Fin.ofNat_val_eq_self]
    split
    · rename_i same
      rw [← same, alone.found]
      rfl
    · rfl
  have again := (labelsRequeued_clips none').2
  have queue : (labelsRequeued t).clips.shipQueue = (shippingRequeued t).clips.shipQueue :=
    foldl_keeps (g := fun t => t.clips.shipQueue) labelRequeued_shipQueue _ _
  have own := again c
  rw [recs, if_pos rfl] at own
  refine ⟨if c.1 ∈ unconfirmedIds (shippingRequeued t) then .pending else k.label, ?_, fun d m there => ?_, ?_⟩
  · rw [own]
    split <;> rfl
  · have rests (m : Clip) (at' : (shippingRequeued t).clips.recs.get d = some m) : m.st ≠ .shipping := by
      rw [recs] at at'
      split at at'
      · rw [← Option.some.inj at']
        exact nofun
      · exact alone.alone d m (fun e => ‹¬c = d› e.symm) at'
    rw [again] at there
    split at there
    · obtain ⟨n, at', rfl⟩ := Option.map_eq_some_iff.mp there
      exact rests n at'
    · exact rests m there
  · rw [queue, ship]
    rfl

/-- What a RESTART leaves of the one clip that ships. -/
structure ShipsAgain (t : State) (queue : List Nat) (c : Fin 64) (k : Clip) (out : Nat) : Prop where
  queue : t.clips.shipQueue = queue
  cursor : t.sched.clipCursor = some ⟨c.1, k.program.1, k.run, out, k.inOffset⟩
  record : ∃ l, t.clips.recs.get c = some { k with st := .shipping, shipCursor := some k.inOffset, label := l }

theorem ShipsAgain.busy {t : State} {queue : List Nat} {c : Fin 64} {k : Clip} {out : Nat} (again : ShipsAgain t queue c k out)
    (bytes : k.inOffset < out) (rests : ∀ p, (t.prog p).st ≠ .draining) : ShipBusy t :=
  have ⟨_, record⟩ := again.record
  ⟨⟨_, again.cursor, bytes.ne⟩, ⟨c, _, record, rfl⟩, rests⟩

theorem ShipsAlone.again {t : State} {c : Fin 64} {k : Clip} {out : Nat} (alone : ShipsAlone t c k out)
    (none' : t.sched.labelQueue = []) (absent : t.sched.clipCursor = none) (rests : ∀ p, (t.prog p).st ≠ .draining) :
    ShipsAgain (settleShip (labelsRequeued t)) t.clips.shipQueue c k out := by
  obtain ⟨l, record, others, queue⟩ := alone.requeued none'
  have only := labelsRequeued_sched t
  have cursor : (labelsRequeued t).sched.clipCursor = none := by
    unfold OnlyLabels at only
    rw [only]
    exact absent
  have inner : Inner [.clips, .sched] t (labelsRequeued t) := by
    have ships : Inner [.clips, .sched] t (shippingRequeued t) := by
      unfold shippingRequeued
      cases shippingClip t with
      | none => exact .refl _ _
      | some c =>
        dsimp only [Option.elim]
        exact ((modClip_inner _ _ _).widen (ps := [.clips, .sched])).andThen (modClips_inner _ _)
    exact ships.andThen (Inner.foldl (ps := [.clips, .sched]) _ (fun u (x : Nat × Clip) =>
      ((modClip_inner x.1 _ u).widen).andThen (addLabel_inner x.1 _)) _ _)
  have idle : shipDone (labelsRequeued t) = false := by
    unfold shipDone
    rw [cursor]
  have can : shipCanStart (labelsRequeued t) = true := by
    have none'' : shippingClip (labelsRequeued t) = none := by
      unfold shippingClip
      rw [clipIds_eq_nil fun d m there => by simpa using others d m there]
      rfl
    unfold shipCanStart
    rw [none'', queue]
    rfl
  obtain ⟨clips, starts⟩ := startShip_of_head queue record
  have started : ShipsAgain (startShip (labelsRequeued t)) t.clips.shipQueue c k out := by
    refine ⟨by rw [clips]; rfl, ?_, l, ?_⟩
    · rw [starts]
      simp only [alone.ends, Option.getD_some]
    · rw [clips]
      show (Vec.put _ _ _).get c = _
      rw [Fin.ofNat_val_eq_self, Vec_get_put, if_pos rfl, record]
      rfl
  rw [settleShip_of_start idle can (started.busy alone.bytes fun p => ?_)]
  · exact started
  · rw [prog_of_same (startShip_inner _) (by decide), prog_of_same inner (by decide)]
    exact rests p

end

end Sys2Proof.Machine
end

section
/-! PROOFS. O59: what a RESTART leaves in all (R21, R51, R80, R104, R125, R148, R174, R197, R210). -/

namespace Sys2Proof.Machine

set_option Elab.async false

/-- The state that a RESTART leaves is the end of its stages but for the order of the free list. -/
theorem restartAll_ends (s : State) : Inner [.store] (settle (restarted s)) (restartAll s) :=
  freedTogether_inner s (settle (restarted s))

section
variable (s : State)

theorem restartAll_prog (p : Fin 4) : (restartAll s).prog p =
    { idledProgram (s.prog p) with streamOffset := 0, accumulator := 0 } := by
  rw [prog_of_same (restartAll_ends s) (by decide), settle_prog ((restarted_resting s).programs p), restarted_prog]

theorem restartAll_path (l : Fin 6) : (restartAll s).path l = restartedPath (s.path l) := by
  rw [path_of_same (restartAll_ends s) (by decide), settle_path (restarted_quiet s l), restarted_path]

/-- The parts that no stage after the programs touches. -/
theorem restartAll_programs : Inner [.sched, .lives, .chains, .store, .clips, .link, .paths, .alloc, .progs] (restartPrograms s)
    (restartAll s) :=
  (((restarted_programs s).widen (ps := [.sched, .lives, .chains, .store, .clips, .link, .paths, .alloc, .progs])).andThen
    (settle_inner _)).andThen (restartAll_ends s)

theorem restartAll_coder (p : Fin 4) : ((restartAll s).coder p).list = [] ∧ ((restartAll s).coder p).coding = none := by
  have coder : (restartAll s).coder p = (restartPrograms s).coder p :=
    congrArg (fun v => v.get p) ((restartAll_programs s).same .coders (by decide))
  rw [coder, restartPrograms_coder]
  exact ⟨rfl, rfl⟩

theorem restartAll_intake (p : Fin 4) : ((restartAll s).intake p).missing = 0 := by
  have intake : (restartAll s).intake p = (restartPrograms s).intake p :=
    congrArg (fun v => v.get p) ((restartAll_programs s).same .intakes (by decide))
  rw [intake, restartPrograms_intake]

theorem restartAll_live (p : Fin 4) : ((restartAll s).live p).cursor = none := by
  have live : (restartAll s).live p = (settle (restarted s)).live p :=
    congrArg (fun v => v.get p) ((restartAll_ends s).same .lives (by decide))
  rw [live, settle_no_cursor ((restarted_resting s).cursors p)]

theorem restartAll_alloc : (restartAll s).alloc = (restarted s).alloc := by
  rw [(restartAll_ends s).same .alloc (by decide), (settle_inner _).same .alloc (by decide)]

theorem restartAllocator_alloc {t : State} {p : Fin 4} (rests : (t.prog p).st ≠ .running) :
    (restartAllocator t).alloc.shares.get p = 0 ∧ (restartAllocator t).alloc.cause = some .restart := by
  have cause (u : State) : (allocate .restart u).cause = some .restart := rfl
  have still (f : Allocator → Allocator) : ((t.modAlloc f).prog p).st ≠ .running := rests
  unfold restartAllocator
  rw [runAllocator_alloc]
  exact ⟨allocate_share_of_rest (still _), cause _⟩

theorem restarted_alloc (p : Fin 4) : (restarted s).alloc.shares.get p = 0 ∧ (restarted s).alloc.cause = some .restart := by
  unfold restarted
  refine restartAllocator_alloc ?_
  have prog : (restartPaths (restartClips (storeRestarted s))).prog p = (restartPrograms s).prog p := by
    rw [prog_of_same (restartPaths_inner _) (by decide), prog_of_same (restartClips_inner _) (by decide),
      prog_of_same (storeRestarted_inner s) (by decide)]
  rw [prog, restartPrograms_prog]
  exact nofun

theorem restartAll_segs (p : Fin 4) : ∀ x ∈ ((restartAll s).chain p).segs, PinnedOnly x := by
  have chain : (restartAll s).chain p = (settle (restarted s)).chain p :=
    congrArg (fun v => v.get p) ((restartAll_ends s).same .chains (by decide))
  have before : (restarted s).chain p = (storeRestarted s).chain p :=
    congrArg (fun v => v.get p) ((restarted_inner s).same .chains (by decide))
  rw [chain]
  refine settle_segs (restarted_resting s) (restarted_quiet s) ?_
  rw [before]
  exact restartStore_segs _ p

theorem restartAll_latches {p : Fin 4} (runs : (s.prog p).st ≠ .idle) : (restartAll s).link.latches.get 5 = true :=
  ((restartAll_programs s).link (by decide)).latches 5 (restartPrograms_latches runs)

theorem restartAll_sched :
    Emptied s.sched.nextSend (unconfirmedIds (shippingRequeued (storeRestarted s))) (restartAll s).sched := by
  rw [(restartAll_ends s).same .sched (by decide)]
  exact (restarted_sched s).settle (restarted_resting s) (restarted_quiet s)

theorem restartAll_waitAgain : WaitAgain s.clips (restartAll s).clips := by
  rw [(restartAll_ends s).same .clips (by decide)]
  exact (restarted_waitAgain s).trans (settle_labels (restarted_resting s) (restarted_quiet s))

theorem shippingRequeued_kept : LabelsKept s.clips (shippingRequeued (storeRestarted s)).clips :=
  (storeRestarted_clips s).1.trans (shippingRequeued_labels _)

/-- The clips whose label waits again are those whose label was not CONFIRMED. -/
theorem mem_restartedLabels (i : Nat) : i ∈ unconfirmedIds (shippingRequeued (storeRestarted s)) ↔
    ∃ (c : Fin 64) (k : Clip), c.1 = i ∧ s.clips.recs.get c = some k ∧ k.label ≠ .confirmed := by
  have kept := shippingRequeued_kept s
  rw [mem_unconfirmedIds]
  refine ⟨fun ⟨c, k, is, found, label⟩ => ?_, fun ⟨c, k, is, found, label⟩ => ?_⟩
  · obtain ⟨x, at', -, same⟩ := kept.record found
    exact ⟨c, x, is, at', by rwa [same]⟩
  · have there : (shippingRequeued (storeRestarted s)).clips.recs.get c ≠ none := by
      rw [Ne, ← kept.free, found]
      exact nofun
    obtain ⟨m, found'⟩ := Option.ne_none_iff_exists'.mp there
    obtain ⟨x, at', -, same⟩ := kept.record found'
    rw [found] at at'
    exact ⟨c, m, is, found', by rw [← same, ← Option.some.inj at']; exact label⟩

theorem restartedLabels_sorted (small : ∀ c k, s.clips.recs.get c = some k → k.creation < 2 ^ 31) :
    (unconfirmedIds (shippingRequeued (storeRestarted s))).Pairwise fun i j => ∀ (c d : Fin 64) k m, c.1 = i → d.1 = j →
      s.clips.recs.get c = some k → s.clips.recs.get d = some m → k.creation ≤ m.creation := by
  have kept := shippingRequeued_kept s
  have there (c : Fin 64) (k : Clip) (found : s.clips.recs.get c = some k) :
      ∃ m, (shippingRequeued (storeRestarted s)).clips.recs.get c = some m ∧ m.creation = k.creation := by
    have some' : (shippingRequeued (storeRestarted s)).clips.recs.get c ≠ none := by
      rw [Ne, ← kept.free, found]
      exact nofun
    obtain ⟨m, found'⟩ := Option.ne_none_iff_exists'.mp some'
    obtain ⟨x, at', same, -⟩ := kept.record found'
    rw [found] at at'
    exact ⟨m, found', by rw [← same, ← Option.some.inj at']⟩
  have small' : ∀ c k, (shippingRequeued (storeRestarted s)).clips.recs.get c = some k → k.creation < 2 ^ 31 := by
    intro c k found
    obtain ⟨x, at', same, -⟩ := kept.record found
    rw [← same]
    exact small c x at'
  refine (unconfirmedIds_sorted small').imp fun {i j} le c d k m isc isd foundc foundd => ?_
  obtain ⟨x, at', same⟩ := there c k foundc
  obtain ⟨y, at'', same'⟩ := there d m foundd
  rw [← same, ← same']
  exact le c d x y isc isd at' at''

variable {s}

theorem restartAll_ships {c : Fin 64} {k : Clip} {out : Nat} (alone : ShipsAlone s c k out)
    (none' : ∀ d m, s.clips.recs.get d = some m → m.st ≠ .opened ∧ m.st ≠ .closing) :
    ShipsAgain (restartAll s) s.clips.shipQueue c k out := by
  have stored := (storeRestarted_clips s).2 none'
  obtain ⟨empty, absent⟩ := storeRestarted_sched s
  have rests (p : Fin 4) : ((storeRestarted s).prog p).st ≠ .draining := by
    rw [prog_of_same (storeRestarted_inner s) (by decide), restartPrograms_prog]
    exact nofun
  have alone' : ShipsAlone (storeRestarted s) c k out :=
    ⟨by rw [stored]; exact alone.found, alone.ships, alone.ends, alone.bytes, by rw [stored]; exact alone.alone⟩
  have again := alone'.again empty.labels absent rests
  have cursor : (restarted s).sched.clipCursor = (settleShip (labelsRequeued (storeRestarted s))).sched.clipCursor := by
    have last (t : State) : (restartAllocator t).sched.clipCursor = t.sched.clipCursor := by
      unfold restartAllocator
      rw [runAllocator_frame]
      rfl
    rw [restarted, last, (restartPaths_inner _).same .sched (by decide), restartClips_settles]
  have ready : ShipsAgain (restarted s) s.clips.shipQueue c k out := by
    rw [stored] at again
    refine ⟨?_, by rw [cursor]; exact again.cursor, ?_⟩
    · rw [restarted_clips_eq]
      exact again.queue
    · rw [restarted_clips_eq]
      exact again.record
  obtain ⟨clips, goes⟩ := (ready.busy alone.bytes (restarted_resting s).programs).settle_stands (restarted_quiet s)
  refine ⟨?_, ?_, ?_⟩
  · rw [(restartAll_ends s).same .clips (by decide), clips]
    exact ready.queue
  · rw [(restartAll_ends s).same .sched (by decide), goes]
    exact ready.cursor
  · rw [(restartAll_ends s).same .clips (by decide), clips]
    exact ready.record

end

/-- What a RESTART leaves. -/
structure Restarts (s t : State) : Prop where
  prog : ∀ p, t.prog p = { idledProgram (s.prog p) with streamOffset := 0, accumulator := 0 }
  coder : ∀ p, (t.coder p).list = [] ∧ (t.coder p).coding = none
  intake : ∀ p, (t.intake p).missing = 0
  live : ∀ p, (t.live p).cursor = none
  shares : ∀ p, t.alloc.shares.get p = 0
  cause : t.alloc.cause = some .restart
  segs : ∀ p, ∀ x ∈ (t.chain p).segs, PinnedOnly x
  latches : ∀ p, (s.prog p).st ≠ .idle → t.link.latches.get 5 = true
  replies : t.link.replies = s.link.replies
  mixer : t.mixer = { s.mixer with buses := mapAll (fun _ => busSettled) s.mixer.buses }
  sched : Emptied s.sched.nextSend t.sched.labelQueue t.sched
  members : ∀ i, i ∈ t.sched.labelQueue ↔
    ∃ (c : Fin 64) (k : Clip), c.1 = i ∧ s.clips.recs.get c = some k ∧ k.label ≠ .confirmed
  once : t.sched.labelQueue.Nodup
  sorted : (∀ c k, s.clips.recs.get c = some k → k.creation < 2 ^ 31) →
    t.sched.labelQueue.Pairwise fun i j => ∀ (c d : Fin 64) k m, c.1 = i → d.1 = j →
      s.clips.recs.get c = some k → s.clips.recs.get d = some m → k.creation ≤ m.creation
  labels : WaitAgain s.clips t.clips
  path : ∀ l, t.path l = restartedPath (s.path l)
  ships : ∀ c k out, ShipsAlone s c k out →
    (∀ d m, s.clips.recs.get d = some m → m.st ≠ .opened ∧ m.st ≠ .closing) → ShipsAgain t s.clips.shipQueue c k out
  parts : t.lines = s.lines ∧ t.tb = s.tb ∧ t.uplink = s.uplink ∧ t.tables = s.tables ∧ t.slots = s.slots ∧ t.mem = s.mem

theorem restartAll_restarts (s : State) : Restarts s (restartAll s) := by
  have inner := restartAll_inner s
  have sched := restartAll_sched s
  have queue := sched.labels
  constructor
  · exact restartAll_prog s
  · exact restartAll_coder s
  · exact restartAll_intake s
  · exact restartAll_live s
  · intro p
    rw [restartAll_alloc]
    exact (restarted_alloc s p).1
  · rw [restartAll_alloc]
    exact (restarted_alloc s 0).2
  · exact restartAll_segs s
  · exact fun p runs => restartAll_latches s runs
  · exact inner.queues.replies
  · rw [(restartAll_programs s).same .mixer (by decide), restartPrograms_mixer]
  · rwa [queue]
  · rw [queue]
    exact mem_restartedLabels s
  · rw [queue]
    exact unconfirmedIds_nodup _
  · rw [queue]
    exact restartedLabels_sorted s
  · exact restartAll_waitAgain s
  · exact restartAll_path s
  · exact fun c k out alone none' => restartAll_ships alone none'
  · exact ⟨inner.same .lines (by decide), inner.same .tb (by decide), inner.same .uplink (by decide),
      inner.same .tables (by decide), inner.same .slots (by decide), inner.same .mem (by decide)⟩

theorem Restarts.of_link {s t : State} {l : Link} (replies : l.replies = s.link.replies)
    (h : Restarts { s with link := l } t) : Restarts s t where
  prog := h.prog
  coder := h.coder
  intake := h.intake
  live := h.live
  shares := h.shares
  cause := h.cause
  segs := h.segs
  latches := h.latches
  replies := h.replies.trans replies
  mixer := h.mixer
  sched := h.sched
  members := h.members
  once := h.once
  sorted := h.sorted
  labels := ⟨h.labels.recs, h.labels.next⟩
  path := h.path
  ships := fun c k out alone none' =>
    h.ships c k out ⟨alone.found, alone.ships, alone.ends, alone.bytes, alone.alone⟩ none'
  parts := h.parts

theorem restartAll_counted (s : State) : Restarts s (restartAll (counted s)) := by
  have is : counted s = { s with link := (counted s).link } := rfl
  have leaves := restartAll_restarts (counted s)
  have replies : (counted s).link.replies = s.link.replies := rfl
  generalize restartAll (counted s) = t at leaves
  rw [is] at leaves
  exact leaves.of_link replies

theorem exec_restart_leaves (tag : Byte) {s : State} (free : Free s) :
    ∃ t, exec (.restart tag) s = .next (replied tag 50 done t) ∧ Restarts s t :=
  ⟨_, exec_restart_answered tag free, restartAll_counted s⟩

/-- Settles O59. -/
theorem restartEmptiesTheQueues : Obligations.RestartEmptiesTheQueues := by
  intro tag s free
  obtain ⟨t, goes, leaves⟩ := exec_restart_leaves tag free
  refine ⟨_, goes, ?_⟩
  obtain ⟨lines, tb, uplink, tables, slots, mem⟩ := leaves.parts
  obtain ⟨window, abandoned, bucket, next, -⟩ := leaves.sched
  refine ⟨?_, fun p => ?_, fun ⟨p, runs⟩ => leaves.latches p runs, window, abandoned, bucket, next, leaves.path,
    fun k i => ?_, fun small => ⟨fun c k m found there => ?_, leaves.members, leaves.once, leaves.sorted small⟩, fun c => ?_,
    leaves.labels.next, lines, fun c k out found shipping ends bytes alone none' => ?_, leaves.cause, tb, uplink, tables,
    slots, mem⟩
  · exact congrArg (· ++ [.made ⟨tag, 50, .done, 0, 0, []⟩]) leaves.replies
  · have prog := leaves.prog p
    have last : (replied tag 50 done t).prog p = t.prog p := rfl
    rw [last, prog]
    refine ⟨rfl, rfl, rfl, rfl, rfl, rfl, (leaves.coder p).1, (leaves.coder p).2, leaves.intake p, leaves.live p,
      leaves.shares p, fun x mem => ?_⟩
    obtain ⟨isSealed, writer, pendingSend, refs, retention, pins⟩ := leaves.segs p x mem
    exact ⟨isSealed, writer, pendingSend, refs, retention, pins⟩
  · have last : (replied tag 50 done t).mixer = t.mixer := rfl
    rw [last, leaves.mixer]
    show (((mapAll (fun _ => busSettled) s.mixer.buses).get k).cells.get i) = _
    rw [get_mapAll, busSettled, get_mapAll]
    rfl
  · have same := leaves.labels.recs c
    unfold labelled at same
    have there' : t.clips.recs.get c = some m := there
    rw [found, there'] at same
    exact congrArg Prod.snd (Option.some.inj same)
  · have same := leaves.labels.recs c
    have last : (replied tag 50 done t).clips = t.clips := rfl
    rw [last, ← Option.map_eq_none_iff (f := fun k : Clip => (k.creation, k.label)) (x := t.clips.recs.get c)]
    unfold labelled at same
    rw [same, Option.map_eq_none_iff, Option.map_eq_none_iff]
  · obtain ⟨queue, cursor, l, record⟩ := leaves.ships c k out ⟨found, shipping, ends, bytes, alone⟩ none'
    exact ⟨queue, cursor, _, record, rfl, rfl, rfl⟩

end Sys2Proof.Machine
end

section
/-! PROOFS. What a picture tick makes of a program that runs, seen from the program: the end of its own period, which the
other programs' periods and the releases leave (R20, R29, R30). -/

namespace Sys2Proof.Machine

set_option Elab.async false

/-! ### What is done for another program -/

/-- The record, the intake, the coder and the framer of program `p` stand. -/
structure SparesProgram (p : Fin 4) (s t : State) : Prop where
  prog : t.prog p = s.prog p
  intake : t.intake p = s.intake p
  coder : t.coder p = s.coder p
  framer : t.framer p = s.framer p

namespace SparesProgram
variable {p q : Fin 4} {s t u : State}

theorem refl (s : State) : SparesProgram p s s := ⟨rfl, rfl, rfl, rfl⟩

theorem trans (first : SparesProgram p s t) (next : SparesProgram p t u) : SparesProgram p s u :=
  ⟨next.prog.trans first.prog, next.intake.trans first.intake, next.coder.trans first.coder,
    next.framer.trans first.framer⟩

theorem ite {c : Prop} [Decidable c] (yes : SparesProgram p s t) (no : SparesProgram p s u) :
    SparesProgram p s (if c then t else u) := by
  split
  · exact yes
  · exact no

theorem of_inner {ps : List Part} (kept : Inner ps s t)
    (apart : Part.progs ∉ ps ∧ Part.intakes ∉ ps ∧ Part.coders ∉ ps ∧ Part.framers ∉ ps) : SparesProgram p s t :=
  ⟨prog_of_same kept apart.1 p, congrArg (fun v => v.get p) (kept.same .intakes apart.2.1),
    congrArg (fun v => v.get p) (kept.same .coders apart.2.2.1), congrArg (fun v => v.get p) (kept.same .framers apart.2.2.2)⟩

theorem of_coder {ps : List Part} (other : q ≠ p) (kept : CoderKeeps q s t) (inner : Inner ps s t)
    (apart : Part.intakes ∉ ps ∧ Part.framers ∉ ps) : SparesProgram p s t :=
  ⟨kept.prog_ne p other, congrArg (fun v => v.get p) (inner.same .intakes apart.1), kept.coder_ne p other,
    congrArg (fun v => v.get p) (inner.same .framers apart.2)⟩

theorem modIntake (other : q ≠ p) (f : Intake → Intake) : SparesProgram p s (s.modIntake q f) :=
  ⟨rfl, by rw [modIntake_intake, if_neg other], rfl, rfl⟩

theorem modFramer (other : q ≠ p) (f : Framer → Framer) : SparesProgram p s (s.modFramer q f) :=
  ⟨rfl, rfl, rfl, by rw [modFramer_framer, if_neg other]⟩

theorem modProg (other : q ≠ p) (f : Program → Program) : SparesProgram p s (s.modProg q f) :=
  ⟨by rw [modProg_prog, if_neg other], rfl, rfl, rfl⟩

end SparesProgram

section
variable {p q : Fin 4} (other : q ≠ p) (n : Nat) (s : State)
include other

theorem callFlush_spares (items : List CoderItem) : SparesProgram p s (flushCoder q (callFor q items s)) :=
  (SparesProgram.of_coder other (callFor_coderKeeps ..) (callFor_inner q items s) (by decide)).trans
    (.of_coder other (flushCoder_coderKeeps ..) (flushCoder_inner q _) (by decide))

theorem closeLimit_spares : SparesProgram p s (closeLimit q n s) := by
  have closes : SparesProgram p s (closeShort q s) := by
    unfold closeShort
    split
    · exact (SparesProgram.modIntake other _).trans (callFlush_spares other _ _)
    · exact .refl s
  unfold closeLimit
  split
  · exact .ite (.refl s) closes
  · exact .refl s

theorem standIn_spares (label : Timecode) : SparesProgram p s (standIn q n label s) := by
  have counted (f g : Intake → Intake) (items : List CoderItem) :
      SparesProgram p s (flushCoder q (callFor q items ((s.modIntake q f).modIntake q g))) :=
    ((SparesProgram.modIntake other f).trans (.modIntake other g)).trans (callFlush_spares other _ _)
  unfold standIn
  split
  · exact .refl s
  · exact .ite (.refl s) (.ite (counted _ _ _) (counted _ _ _))

theorem endSound_spares : SparesProgram p s (endSound q n s) := by
  have writes (c : Nat) (t : State) : SparesProgram p t (writeSound q n c t) := by
    unfold writeSound
    split
    · exact .refl t
    · exact .ite (.refl t) ((SparesProgram.modFramer other _).trans
        (.of_coder other (offerUnit_coderKeeps ..) (offerUnit_inner ..) (by decide)))
  exact (SparesProgram.modProg other _).trans (writes _ _)

/-- The end of another program's period. -/
theorem endPeriod_spares : SparesProgram p s (endPeriod q n s) := by
  have closed := closeLimit_spares other n s
  have sounded := (closed.trans (standIn_spares other n _ s.tb.endedLabel)).trans (endSound_spares other n _)
  have written := SparesProgram.ite (c := periodOfRun q n s = true) sounded closed
  have framed := SparesProgram.ite (c := ((s.prog q).st == .draining && (s.prog q).drainPicture == some n) = true)
    (written.trans (.modFramer other framerStop)) written
  exact (framed.trans (.of_inner (periodEnd_inner q _) (by decide))).trans
    (.modIntake other fun i => { i with accepted := false })

/-- The release of another program. -/
theorem releaseProgram_spares : SparesProgram p s (releaseProgram q s) := by
  by_cases armed : (s.prog q).st = .armed
  · cases record : (s.prog q).record with
    | none => rw [releaseProgram_of_rest fun _ => record]; exact .refl s
    | some r =>
      have view := releaseProgram_view_ne q p s other.symm
      have intake : (releaseProgram q s).intake p = s.intake p := by
        rw [releaseProgram_of_armed armed record]
        refine (congrArg (fun v => v.get p) ((releaseTaken_inner ..).same .intakes (by decide))).trans ?_
        exact (modIntake_intake s q p fun _ => intakeRelease).trans (if_neg other)
      exact ⟨congrArg RunView.prog view, intake, congrArg RunView.coder view, congrArg RunView.framer view⟩
  · rw [releaseProgram_of_rest fun h => absurd h armed]
    exact .refl s

end

/-! ### The end of a program's own period (R20, R29 to R31) -/

/-- The intake of a program when the period without a picture has asked for its stand-in (R30). -/
def stoodIn (r : ProgramRecord) (i : Intake) : Intake :=
  if i.accepted then i
  else if i.codedInRun && decide (incSat16 i.missing ≤ r.hold) then
    { i with missing := incSat16 i.missing, repeats := incSat16 i.repeats }
  else { i with missing := incSat16 i.missing, slates := incSat16 i.slates }

/-- The intake of a program after the close limit (R29). -/
def limited (n : Nat) (i : Intake) : Intake :=
  { i with
    taking := i.taking.filter fun k => k.picture == n
    shorts := if i.taking.all fun k => k.picture == n then i.shorts else min (i.shorts + 1) 65535 }

section
variable {p : Fin 4} {r : ProgramRecord} {s : State}

theorem closeLimit_intake (n : Nat) (record : (s.prog p).record = some r) :
    (closeLimit p n s).intake p = limited n (s.intake p) := by
  unfold closeLimit limited
  cases taking : (s.intake p).taking with
  | none =>
    show s.intake p = { s.intake p with taking := none, shorts := (s.intake p).shorts }
    rw [← taking]
  | some k =>
    by_cases own : k.picture = n
    · have keeps : (k.picture == n) = true := beq_iff_eq.mpr own
      simp only [own, if_true, Option.filter_some, Option.all_some, beq_self_eq_true]
      rw [← taking]
    · have drops : (k.picture == n) = false := beq_eq_false_iff_ne.mpr own
      simp only [own, if_false, Option.filter_some, Option.all_some, drops]
      rw [closeShort_intake taking record]
      rfl

theorem callFlush_intake (items : List CoderItem) (t : State) : (flushCoder p (callFor p items t)).intake p = t.intake p := by
  refine (congrArg (fun v => v.get p) ((flushCoder_inner p _).same .intakes (by decide))).trans ?_
  exact congrArg (fun v => v.get p) ((callFor_inner p items t).same .intakes (by decide))

theorem standIn_intake (n : Nat) (label : Timecode) (record : (s.prog p).record = some r) :
    (standIn p n label s).intake p = stoodIn r (s.intake p) := by
  unfold standIn stoodIn
  rw [record]
  dsimp only
  split
  · rfl
  · split
    · rw [callFlush_intake, modified_intake, modified_intake]
    · rw [callFlush_intake, modified_intake, modified_intake]

theorem writeSound_intake (n c : Nat) (t : State) : (writeSound p n c t).intake p = t.intake p :=
  congrArg (fun v => v.get p) ((writeSound_inner p n c t).same .intakes (by decide))

theorem endSound_prog (n : Nat) (t : State) : ∃ o, (endSound p n t).prog p =
    { t.prog p with
      accumulator := ((t.prog p).accumulator + (stationRate t).cadenceN) % (stationRate t).cadenceD, streamOffset := o } := by
  refine ⟨((endSound p n t).prog p).streamOffset, ?_⟩
  unfold endSound
  dsimp only
  rw [(writeSound_coderKeeps p n _ _).prog, modified_prog]

/-- The program and its intake after the end of its period. -/
structure PeriodOver (p : Fin 4) (row : RateRow) (r : ProgramRecord) (n : Nat) (s t : State) : Prop where
  prog : ∃ o, t.prog p =
    { s.prog p with accumulator := ((s.prog p).accumulator + row.cadenceN) % row.cadenceD, streamOffset := o }
  intake : t.intake p = { stoodIn r (limited n (s.intake p)) with accepted := false }

theorem PeriodOver.spared {row : RateRow} {n : Nat} {s t u : State} (over' : PeriodOver p row r n s t)
    (spares : SparesProgram p t u) : PeriodOver p row r n s u := by
  obtain ⟨⟨o, prog⟩, intake⟩ := over'
  exact ⟨⟨o, spares.prog.trans prog⟩, spares.intake.trans intake⟩

theorem PeriodOver.of_spared {row : RateRow} {n : Nat} {s t u : State} (spares : SparesProgram p s t)
    (over' : PeriodOver p row r n t u) : PeriodOver p row r n s u := by
  obtain ⟨⟨o, prog⟩, intake⟩ := over'
  rw [spares.prog] at prog
  rw [spares.intake] at intake
  exact ⟨⟨o, prog⟩, intake⟩

/-- The period of a RUNNING program in three steps (R29, R30, R99). -/
def runPeriod (p : Fin 4) (n : Nat) (s : State) : State :=
  endSound p n (standIn p n s.tb.endedLabel (closeLimit p n s))

theorem endPeriod_of_running (n : Nat) (runs : (s.prog p).st = .running) :
    endPeriod p n s = (periodEnd p (runPeriod p n s)).modIntake p fun i => { i with accepted := false } := by
  have own : periodOfRun p n s = true := by simp [periodOfRun, runs]
  have notDrains : ((s.prog p).st == .draining && (s.prog p).drainPicture == some n) = false := by simp [runs]
  unfold endPeriod
  dsimp only
  rw [own, notDrains]
  rfl

theorem endPeriod_over (n : Nat) (runs : (s.prog p).st = .running) (record : (s.prog p).record = some r) :
    PeriodOver p (stationRate s) r n s (endPeriod p n s) := by
  have closed := closeLimit_coderKeeps p n s
  have record' : ((closeLimit p n s).prog p).record = some r := by rw [closed.prog]; exact record
  have stood := standIn_coderKeeps p n (closeLimit p n s) s.tb.endedLabel
  have rate : stationRate (standIn p n s.tb.endedLabel (closeLimit p n s)) = stationRate s := by
    unfold stationRate
    rw [(standIn_inner ..).same .tb (by decide), (closeLimit_inner ..).same .tb (by decide)]
  have after : SparesProgram p (runPeriod p n s) (periodEnd p (runPeriod p n s)) := .of_inner (periodEnd_inner p _) (by decide)
  rw [endPeriod_of_running n runs]
  constructor
  · obtain ⟨o, prog⟩ := endSound_prog (p := p) n (standIn p n s.tb.endedLabel (closeLimit p n s))
    refine ⟨o, (after.prog.trans prog).trans ?_⟩
    rw [rate, stood.prog, closed.prog]
  · rw [modified_intake, after.intake, ← closeLimit_intake n record, ← standIn_intake n s.tb.endedLabel record']
    exact congrArg (fun i : Intake => { i with accepted := false }) (writeSound_intake ..)

end

/-! ### The tick -/

theorem portsTicked_inner (b : Bool) (time : Nat) (s : State) :
    Inner [.tb, .ports, .link, .chains, .store] s
      (if b then retentionTick (eachProgram portTick (tickTimebase time s)) else eachProgram portTick (tickTimebase time s)) := by
  have ports := ((tickTimebase_inner time s).widen (ps := [.tb, .ports, .link, .chains, .store])).andThen
    (Inner.eachProgram (ps := [.ports, .link]) _ portTick_inner _)
  exact .ite (ports.andThen (retentionTick_inner _)) ports

theorem endPeriods_over {p : Fin 4} {r : ProgramRecord} {s : State} (n : Nat) (runs : (s.prog p).st = .running)
    (record : (s.prog p).record = some r) :
    PeriodOver p (stationRate s) r n s (eachProgram (fun p t => endPeriod p n t) s) := by
  refine eachProgram_own (Q := fun t => SparesProgram p s t ∧ stationRate t = stationRate s)
    (R := PeriodOver p (stationRate s) r n s) p (fun q t other kept => ⟨kept.1.trans (endPeriod_spares other n t), ?_⟩)
    (fun t kept => ?_) (fun q t other ends => ends.spared (endPeriod_spares other n t)) ⟨.refl s, rfl⟩
  · rw [← kept.2]
    exact congrArg (fun b : Timebase => rateRow b.rate) ((endPeriod_inner q n t).same .tb (by decide))
  · have own := endPeriod_over (s := t) (r := r) n (by rw [kept.1.prog, runs]) (by rw [kept.1.prog, record])
    rw [kept.2] at own
    exact own.of_spared kept.1

/-- What follows the ends of the periods leaves a program that runs. -/
theorem afterPeriods_spares {b : Bool} {start u : State} {p : Fin 4} (runs : (u.prog p).st = .running) :
    SparesProgram p u (endEvent start (staleChecked b (released u))) := by
  have programs : SparesProgram p u (eachProgram releaseProgram u) := by
    refine eachProgram_own (Q := SparesProgram p u) (R := SparesProgram p u) p
      (fun q t other kept => kept.trans (releaseProgram_spares other t)) (fun t kept => ?_)
      (fun q t other kept => kept.trans (releaseProgram_spares other t)) (.refl u)
    rw [releaseProgram_of_rest fun armed => by rw [kept.prog, runs] at armed; cases armed]
    exact kept
  have slots : SparesProgram p u (released u) :=
    (programs.trans (.of_inner (Inner.eachProgram (ps := [.slots]) _ (fun i t => modSlot_inner t i releaseSlot) _)
      (by decide))).trans (.of_inner (modMixer_inner _ _) (by decide))
  have checked : SparesProgram p u (staleChecked b (released u)) :=
    slots.trans (.of_inner (staleChecked_inner b _) (by decide))
  refine checked.trans ⟨?_, endEvent_intake .., endEvent_coder .., endEvent_framer ..⟩
  rw [endEvent_prog, settle_prog]
  rw [checked.prog, runs]
  exact nofun

theorem pictureTick_over {b : Bool} {time : Nat} {s : State} {p : Fin 4} {r : ProgramRecord}
    (runs : (s.prog p).st = .running) (record : (s.prog p).record = some r) :
    PeriodOver p (stationRate s) r s.tb.picture s (pictureTickWith b time s) ∧
      SparesProgram p (periodsEnded b time s) (pictureTickWith b time s) := by
  have before := portsTicked_inner b time s
  have spares : SparesProgram p s _ := .of_inner before (by decide)
  have rate : stationRate (if b then retentionTick (eachProgram portTick (tickTimebase time s))
      else eachProgram portTick (tickTimebase time s)) = stationRate s := by
    have ports := (Inner.eachProgram (ps := [.ports, .link]) _ portTick_inner (tickTimebase time s)).same .tb (by decide)
    have ticked : (tickTimebase time s).tb.rate = s.tb.rate := rfl
    unfold stationRate
    split
    · rw [(retentionTick_inner _).same .tb (by decide), ports, ticked]
    · rw [ports, ticked]
  have ended := endPeriods_over (r := r) s.tb.picture (by rw [spares.prog, runs]) (by rw [spares.prog, record])
  rw [rate] at ended
  have own : PeriodOver p (stationRate s) r s.tb.picture s (periodsEnded b time s) := ended.of_spared spares
  have stands : SparesProgram p (periodsEnded b time s) (pictureTickWith b time s) := by
    rw [pictureTickWith_eq]
    refine afterPeriods_spares ?_
    obtain ⟨o, prog⟩ := own.prog
    rw [prog]
    exact runs
  exact ⟨own.spared stands, stands⟩

end Sys2Proof.Machine
end

section
/-! PROOFS. The bytes that one period's units write into the OPEN segment, one after the other (R30, R31, R46, R97 to R99,
R109, R110). -/

namespace Sys2Proof.Machine

set_option Elab.async false

/-! ### The OPEN segment of a chain -/

/-- The OPEN segment of a chain is segment `n`, with fill `k`. -/
def OpenAs (n k : Nat) (c : Chain) : Prop :=
  ∃ g, (c.segs.find? fun g => !g.isSealed) = some g ∧ g.writer = true ∧ g.number = n ∧ g.fill = k

theorem OpenAs.map {n k l : Nat} {c : Chain} {f : Segment → Segment} (opened : OpenAs n k c)
    (keeps : ∀ x, (f x).isSealed = x.isSealed ∧ (f x).writer = x.writer ∧ (f x).number = x.number)
    (fills : ∀ x, x.number = n → x.fill = k → (f x).fill = l) : OpenAs n l { c with segs := c.segs.map f } := by
  obtain ⟨g, found, writer, number, fill⟩ := opened
  refine ⟨f g, ?_, (keeps g).2.1.trans writer, (keeps g).2.2.trans number, fills g number fill⟩
  have same : ((fun g : Segment => !g.isSealed) ∘ f) = fun g => !g.isSealed :=
    funext fun x => congrArg not (keeps x).1
  show (c.segs.map f).find? _ = _
  rw [List.find?_map, same, found]
  rfl

theorem OpenAs.filter {n k : Nat} {c : Chain} (opened : OpenAs n k c) :
    OpenAs n k { c with segs := c.segs.filter fun g => hold g != 0 } := by
  obtain ⟨g, found, writer, number, fill⟩ := opened
  refine ⟨g, ?_, writer, number, fill⟩
  obtain ⟨isOpen, before, after, segs, sealed'⟩ := List.find?_eq_some_iff_append.mp found
  have held : (hold g != 0) = true := by
    simp [hold, writer]
  refine List.find?_eq_some_iff_append.mpr ⟨isOpen, before.filter fun g => hold g != 0,
    after.filter fun g => hold g != 0, ?_, fun x mem =>
    sealed' x (List.mem_filter.mp mem).1⟩
  show c.segs.filter _ = _
  rw [segs, List.filter_append, List.filter_cons, if_pos held]

/-- The next unit of picture `m` goes to segment `n` at fill `k`. -/
structure WritesAt (p : Fin 4) (n k m : Nat) (s : State) : Prop where
  whole : (s.chain p).cut ≠ some m
  opened : k < 262144 → OpenAs n k (s.chain p)

section
variable {p : Fin 4} {n k m : Nat} {s t : State}

theorem WritesAt.of_chain (at' : WritesAt p n k m s) (same : t.chain p = s.chain p) : WritesAt p n k m t :=
  ⟨by rw [same]; exact at'.whole, fun room => by rw [same]; exact at'.opened room⟩

theorem WritesAt.of_inner {ps : List Part} (at' : WritesAt p n k m s) (kept : Inner ps s t) (not : Part.chains ∉ ps) :
    WritesAt p n k m t := at'.of_chain (congrArg (fun v => v.get p) (kept.same .chains not))

theorem WritesAt.mapped {f : Segment → Segment} (at' : WritesAt p n k m s) (mapped : ChainMapped p f s t)
    (keeps : ∀ x, (f x).isSealed = x.isSealed ∧ (f x).writer = x.writer ∧ (f x).number = x.number ∧ (f x).fill = x.fill) :
    WritesAt p n k m t := by
  unfold ChainMapped at mapped
  refine ⟨by rw [mapped]; exact at'.whole, fun room => ?_⟩
  rw [mapped]
  exact (at'.opened room).map (fun x => ⟨(keeps x).1, (keeps x).2.1, (keeps x).2.2.1⟩)
    fun x _ fill => ((keeps x).2.2.2).trans fill

theorem WritesAt.retentionTick (at' : WritesAt p n k m s) : WritesAt p n k m (retentionTick s) := by
  have cleared : WritesAt p n k m (retentionRelease s) := by
    refine at'.mapped (f := retentionCleared s p) (retentionRelease_chain s p) fun x => ?_
    unfold retentionCleared
    split <;> exact ⟨rfl, rfl, rfl, rfl⟩
  unfold Machine.retentionTick
  refine ⟨by rw [freeZero_chain]; exact cleared.whole, fun room => ?_⟩
  rw [freeZero_chain]
  exact (cleared.opened room).filter

theorem WritesAt.unpin (at' : WritesAt p n k m s) (q : Fin 4) (numbers : List Nat) :
    WritesAt p n k m (unpin q numbers s) := by
  by_cases own : q = p
  · subst own
    refine at'.mapped (.modSegs q _ s) fun x => ?_
    split <;> exact ⟨rfl, rfl, rfl, rfl⟩
  · exact at'.of_chain (by rw [Machine.unpin, modSegs_chain, if_neg own])

theorem WritesAt.setOpenClips (at' : WritesAt p n k m s) (q : Fin 4) (x : Nat) :
    WritesAt p n k m (setOpenClips q x s) := by
  by_cases own : q = p
  · subst own
    have chain : (Machine.setOpenClips q x s).chain q = { s.chain q with openClips := x } := by
      rw [Machine.setOpenClips, modChain_chain, if_pos rfl]
    refine ⟨by rw [chain]; exact at'.whole, fun room => ?_⟩
    rw [chain]
    exact at'.opened room
  · exact at'.of_chain (by rw [Machine.setOpenClips, modChain_chain, if_neg own])

theorem WritesAt.closeClip (at' : WritesAt p n k m s) (c q : Nat) (x : Option Timecode) (o : Nat) :
    WritesAt p n k m (closeClip c q x o s) := by
  cases found : clipAt c s with
  | none =>
    unfold Machine.closeClip
    rwa [found]
  | some clip =>
    have opened : WritesAt p n k m (if clip.st == .opened then Machine.setOpenClips clip.program 0 s else s) := by
      split
      · exact at'.setOpenClips _ _
      · exact at'
    exact (opened.unpin clip.program _).of_chain (congrArg (fun v => v.get p) (closeClip_chains_eq found q x o))

theorem WritesAt.periodEnd (at' : WritesAt p n k m s) (q : Fin 4) : WritesAt p n k m (periodEnd q s) := by
  rw [periodEnd_eq]
  generalize clipIds _ s = ids
  induction ids generalizing s with
  | nil => exact at'
  | cons c cs ih =>
    refine ih ?_
    unfold closeEnded
    cases clipAt c s with
    | none => exact at'
    | some clip => exact at'.closeClip _ _ _ _

/-! ### A unit that is written (R109, R110) -/

/-- The bytes that have been written at segment `n` from fill `k` on, and no others. -/
structure Wrote (p : Fin 4) (n k m : Nat) (bytes : List Byte) (s t : State) : Prop where
  offset : (t.prog p).streamOffset = (s.prog p).streamOffset + bytes.length
  at' : WritesAt p n (k + bytes.length) m t
  reads : ∀ i x, bytes[i]? = some x → memRead t.mem (n * 262144 + k + i) = x
  others : ∀ a, a < n * 262144 + k ∨ n * 262144 + k + bytes.length ≤ a → memRead t.mem a = memRead s.mem a

theorem Wrote.trans {b c : List Byte} {u : State} (first : Wrote p n k m b s t) (next : Wrote p n (k + b.length) m c t u) :
    Wrote p n k m (b ++ c) s u where
  offset := by rw [next.offset, first.offset, List.length_append, Nat.add_assoc]
  at' := by rw [List.length_append, ← Nat.add_assoc]; exact next.at'
  reads i x found := by
    by_cases early : i < b.length
    · rw [List.getElem?_append_left early] at found
      rw [next.others _ (.inl (by omega))]
      exact first.reads i x found
    · rw [List.getElem?_append_right (Nat.le_of_not_lt early)] at found
      have reads := next.reads (i - b.length) x found
      rwa [show n * 262144 + (k + b.length) + (i - b.length) = n * 262144 + k + i by omega] at reads
  others a outside := by
    rw [List.length_append] at outside
    rw [next.others a (by omega), first.others a (by omega)]

/-- Nothing is written by what leaves the program's offset, the memory and the chains. -/
theorem Wrote.none {ps : List Part} (at' : WritesAt p n k m s) (offset : (t.prog p).streamOffset = (s.prog p).streamOffset)
    (kept : Inner ps s t) (apart : Part.mem ∉ ps ∧ Part.chains ∉ ps) : Wrote p n k m [] s t where
  offset := offset
  at' := at'.of_inner kept apart.2
  reads _ _ found := by cases found
  others a _ := by rw [kept.same .mem apart.1]

theorem Wrote.silent {ps : List Part} (at' : WritesAt p n k m s) (kept : Inner ps s t)
    (apart : Part.mem ∉ ps ∧ Part.chains ∉ ps ∧ Part.progs ∉ ps) : Wrote p n k m [] s t :=
  .none at' (by rw [prog_of_same kept apart.2.2]) kept ⟨apart.1, apart.2.1⟩

/-- A unit that fits the OPEN segment is written there. -/
theorem offerUnit_wrote {u : StreamUnit} (picture : u.picture = m) (at' : WritesAt p n k m s) (some' : 0 < u.bytes.length)
    (fits : k + u.bytes.length ≤ 262144) :
    (offerUnit p u s).1 = true ∧ Wrote p n k m u.bytes s (offerUnit p u s).2 := by
  obtain ⟨g, found, writer, number, fill⟩ := at'.opened (by omega)
  have opened : openSeg p s = some g := found
  have whole : (s.chain p).cut ≠ some u.picture := by rw [picture]; exact at'.whole
  have fits' : u.bytes.length ≤ room p s := by rw [room_of_open opened]; omega
  have same := offerUnit_of_fits whole fits'
  have memory : (offerUnit p u s).2.mem = memWriteBytes s.mem (n * 262144 + k) u.bytes := by
    obtain ⟨f, mapped, fills, shuts, mem⟩ := writePart_places opened u (s.prog p).streamOffset u.bytes true true
    rw [same, ← number, ← fill]
    exact ((afterWrite_inner p u _).same .mem (by decide)).trans mem
  have chain : (offerUnit p u s).2.chain p =
      (writePart p u (s.prog p).streamOffset u.bytes true true s).chain p := by rw [same, afterWrite_chain]
  refine ⟨congrArg Prod.fst same, by rw [offerUnit_prog whole fits'], ⟨?_, fun room => ?_⟩, fun i x read => ?_,
    fun a outside => ?_⟩
  · obtain ⟨f, mapped, -, -, -⟩ := writePart_places opened u (s.prog p).streamOffset u.bytes true true
    unfold ChainMapped at mapped
    rw [chain, mapped]
    exact at'.whole
  · rw [chain, writePart_of_room u _ u.bytes true true opened (by omega), bytesWritten_chain]
    refine OpenAs.map ⟨g, found, writer, number, fill⟩ (fun x => ?_) fun x number' fill' => ?_
    · unfold partWritten
      split <;> exact ⟨rfl, rfl, rfl⟩
    · have fills := (partWritten_fills u (s.prog p).streamOffset u.bytes true true g.number x).fill
      rw [fills, if_pos (number'.trans number.symm), fill']
  · obtain ⟨short, is⟩ := List.getElem?_eq_some_iff.mp read
    rw [memory, memRead_write_same _ _ _ _ short, List.getD_eq_getElem _ _ short, is]
  · rw [memory, memRead_write_other _ _ _ _ outside]

/-! ### The coder's stand-ins (R30, R31) -/

theorem advance_of_repeated {picture : Nat} (list : (s.coder p).list = [.repeated picture]) :
    advance p s = writeRepeat p picture (popItem p s) := by
  unfold advance
  rw [list]
  show advanceN p (0 + 1) s = _
  unfold advanceN
  simp only [list]
  rfl

theorem advance_of_slate {picture : Nat} {label : Timecode} (list : (s.coder p).list = [.slate picture label]) :
    advance p s = writeSlate p picture label (popItem p s) := by
  unfold advance
  rw [list]
  show advanceN p (0 + 1) s = _
  unfold advanceN
  simp only [list]
  rfl

/-- A list of one item is coded in one go. -/
theorem flushCoder_of_one {item : CoderItem} (list : (s.coder p).list = [item]) (works : advance p s = t)
    (idle : (t.coder p).coding = .none) : flushCoder p s = t := by
  unfold flushCoder
  rw [list]
  show flushN p (0 + 1 + 1) s = t
  unfold flushN
  dsimp only
  rw [works, idle]
  rfl

theorem repeatUnit_length (picture : Nat) : (repeatUnit picture).bytes.length = 9 := by
  simp [repeatUnit, unitBytes, Laws.u8_length, Laws.u32_length]

theorem writeRepeat_wrote (at' : WritesAt p n k m s) (fits : k + 9 ≤ 262144) :
    Wrote p n k m (repeatUnit m).bytes s (writeRepeat p m s) ∧ (writeRepeat p m s).coder p = s.coder p := by
  have length := repeatUnit_length m
  obtain ⟨taken, wrote⟩ := offerUnit_wrote (u := repeatUnit m) rfl at' (by omega) (by omega)
  have same : writeRepeat p m s = (offerUnit p (repeatUnit m) s).2 := if_pos taken
  rw [same]
  exact ⟨wrote, offerUnit_coder ..⟩

/-- The bytes of the slices of a slate. -/
def slateSliceBytes (m qi : Nat) (payload : List Byte) (left index : Nat) : List Byte :=
  (List.range left).flatMap fun x => (sliceUnit m (index + x) qi (x + 1 == left) payload).bytes

theorem sliceUnit_bytes (picture index qi : Nat) (last last' : Bool) (payload : List Byte) :
    (sliceUnit picture index qi last payload).bytes = (sliceUnit picture index qi last' payload).bytes := rfl

theorem slateSliceBytes_succ (qi : Nat) (payload : List Byte) (left index : Nat) :
    slateSliceBytes m qi payload (left + 1) index =
      (sliceUnit m index qi (left == 0) payload).bytes ++ slateSliceBytes m qi payload left (index + 1) := by
  unfold slateSliceBytes
  rw [List.range_succ_eq_map, List.flatMap_cons, List.flatMap_map]
  refine congrArg₂ (· ++ ·) (sliceUnit_bytes ..) (congrArg (fun f => (List.range left).flatMap f) (funext fun x => ?_))
  show (sliceUnit m (index + (x + 1)) qi _ payload).bytes = _
  rw [show index + (x + 1) = index + 1 + x by omega]
  exact sliceUnit_bytes ..

theorem writeSlateSlices_wrote (qi escapes : Nat) (payload : List Byte) (left : Nat) : ∀ index k s,
    WritesAt p n k m s → k + (slateSliceBytes m qi payload left index).length ≤ 262144 →
    Wrote p n k m (slateSliceBytes m qi payload left index) s (writeSlateSlices p m qi escapes payload left index s) ∧
      ((writeSlateSlices p m qi escapes payload left index s).coder p).coding = (s.coder p).coding := by
  induction left with
  | zero => exact fun index k s at' _ => ⟨.silent at' (.refl [] s) (by decide), rfl⟩
  | succ left ih =>
    intro index k s at' fits
    rw [slateSliceBytes_succ, List.length_append] at fits
    have length := sliceUnit_length m index qi (left == 0) payload
    obtain ⟨taken, wrote⟩ := offerUnit_wrote (m := m) (u := sliceUnit m index qi (left == 0) payload) rfl at' (by omega) (by omega)
    have coder := offerUnit_coder p s (sliceUnit m index qi (left == 0) payload) p
    generalize is : sliceUnit m index qi (left == 0) payload = u at fits length taken wrote coder
    have works : writeSlateSlices p m qi escapes payload (left + 1) index s =
        writeSlateSlices p m qi escapes payload left (index + 1)
          ((offerUnit p u s).2.modCoder p fun c => { c with escaped := (c.escaped + escapes) % 2 ^ 32 }) := by
      rw [← is] at taken ⊢
      exact if_pos taken
    have counts := Wrote.silent wrote.at' (modCoder_inner (offerUnit p u s).2 p fun c =>
      { c with escaped := (c.escaped + escapes) % 2 ^ 32 }) (by decide)
    obtain ⟨rest, coding⟩ := ih (index + 1) (k + u.bytes.length) _ counts.at' (by omega)
    rw [works, slateSliceBytes_succ, is]
    refine ⟨wrote.trans (counts.trans rest), coding.trans ?_⟩
    rw [modified_coder, coder]

/-- The bytes of a slate (R31). -/
def slateBytes (m : Nat) (label : Timecode) (r : ProgramRecord) (qi : Nat) (t : List CodeEntry) : List Byte :=
  (headUnit m label r qi true).bytes ++
    slateSliceBytes m qi (slicePayload t (slicePairs (slateLines r) qi r.chromaOffset true)) (r.height / 8) 0

theorem writeSlate_wrote {r : ProgramRecord} (label : Timecode) (record : (s.prog p).record = some r)
    (at' : WritesAt p n k m s)
    (fits : k + (slateBytes m label r (s.coder p).qi (recordTable r s)).length ≤ 262144) :
    Wrote p n k m (slateBytes m label r (s.coder p).qi (recordTable r s)) s (writeSlate p m label s) ∧
      ((writeSlate p m label s).coder p).coding = (s.coder p).coding := by
  have length := headUnit_length m label r (s.coder p).qi true
  unfold slateBytes at *
  rw [List.length_append] at fits
  obtain ⟨taken, wrote⟩ := offerUnit_wrote (m := m) (u := headUnit m label r (s.coder p).qi true) rfl at' (by omega) (by omega)
  have coder := offerUnit_coder p s (headUnit m label r (s.coder p).qi true) p
  generalize pairs : slicePairs (slateLines r) (s.coder p).qi r.chromaOffset true = ps at fits ⊢
  have works : writeSlate p m label s = writeSlateSlices p m (s.coder p).qi (escapedPairs ps)
      (slicePayload (recordTable r s) ps) (r.height / 8) 0 (offerUnit p (headUnit m label r (s.coder p).qi true) s).2 := by
    unfold writeSlate
    rw [record, ← pairs]
    exact if_pos taken
  obtain ⟨rest, coding⟩ := writeSlateSlices_wrote (s.coder p).qi (escapedPairs ps) (slicePayload (recordTable r s) ps)
    (r.height / 8) 0 _ _ wrote.at' (by omega)
  rw [works]
  exact ⟨wrote.trans rest, coding.trans (congrArg Coder.coding coder)⟩

/-- A stand-in that an idle coder is called for is written at once. -/
theorem flushCoder_of_call {item : CoderItem} {w : State → State} (empty : (s.coder p).list = [])
    (works : ∀ t, (t.coder p).list = [item] → advance p t = w (popItem p t))
    (coding : ((w (popItem p (callFor p [item] s))).coder p).coding = ((popItem p (callFor p [item] s)).coder p).coding) :
    flushCoder p (callFor p [item] s) = w (popItem p (callFor p [item] s)) := by
  have calls : ((callFor p [item] s).coder p).list = [item] := by
    rw [callFor, modified_coder, empty]
    rfl
  exact flushCoder_of_one calls (works _ calls) (coding.trans (by rw [popItem_coder]))

theorem called_silent (item : CoderItem) (at' : WritesAt p n k m s) :
    Wrote p n k m [] s (popItem p (callFor p [item] s)) :=
  .silent at' ((callFor_inner p [item] s).andThen (popItem_inner p _)) (by decide)

theorem repeatCalled_wrote (empty : (s.coder p).list = []) (at' : WritesAt p n k m s)
    (fits : k + 9 ≤ 262144) : Wrote p n k m (repeatUnit m).bytes s (flushCoder p (callFor p [.repeated m] s)) := by
  have silent := called_silent (.repeated m) at'
  obtain ⟨wrote, coder⟩ := writeRepeat_wrote silent.at' fits
  rw [flushCoder_of_call empty (fun t list => advance_of_repeated list) (congrArg Coder.coding coder)]
  exact silent.trans wrote

theorem slateCalled_wrote {r : ProgramRecord} (label : Timecode) (record : (s.prog p).record = some r)
    (empty : (s.coder p).list = []) (at' : WritesAt p n k m s)
    (fits : k + (slateBytes m label r (s.coder p).qi (recordTable r s)).length ≤ 262144) :
    Wrote p n k m (slateBytes m label r (s.coder p).qi (recordTable r s)) s
      (flushCoder p (callFor p [.slate m label] s)) := by
  have silent := called_silent (.slate m label) at'
  have index : ((popItem p (callFor p [.slate m label] s)).coder p).qi = (s.coder p).qi := by
    rw [popItem_coder, callFor, modified_coder]
  have table : recordTable r (popItem p (callFor p [.slate m label] s)) = recordTable r s := rfl
  have slate := writeSlate_wrote (r := r) (s := popItem p (callFor p [.slate m label] s)) label record silent.at'
  rw [index, table] at slate
  obtain ⟨wrote, coding⟩ := slate fits
  rw [flushCoder_of_call empty (fun t list => advance_of_slate list) coding]
  exact silent.trans wrote

/-- The bytes of the stand-in for a period of program `p`; none where the program accepted a picture (R30, R31). -/
def standBytes (p : Fin 4) (m : Nat) (label : Timecode) (r : ProgramRecord) (s : State) : List Byte :=
  if (s.intake p).accepted then []
  else if (s.intake p).codedInRun && decide (incSat16 (s.intake p).missing ≤ r.hold) then (repeatUnit m).bytes
  else slateBytes m label r (s.coder p).qi (recordTable r s)

theorem standIn_wrote {r : ProgramRecord} (label : Timecode) (record : (s.prog p).record = some r)
    (empty : (s.coder p).list = []) (at' : WritesAt p n k m s)
    (fits : k + (standBytes p m label r s).length ≤ 262144) :
    Wrote p n k m (standBytes p m label r s) s (standIn p m label s) := by
  have counted (f g : Intake → Intake) : Wrote p n k m [] s ((s.modIntake p f).modIntake p g) :=
    .silent at' ((modIntake_inner s p f).andThen (modIntake_inner _ p g)) (by decide)
  unfold standIn
  rw [record]
  dsimp only
  unfold standBytes at *
  split
  · exact .silent at' (.refl [] s) (by decide)
  next missed =>
    rw [if_neg missed] at fits
    split
    next repeats =>
      rw [if_pos repeats, repeatUnit_length] at fits
      have silent := counted (fun i => { i with missing := incSat16 (s.intake p).missing })
        (fun i => { i with repeats := incSat16 i.repeats })
      exact silent.trans (repeatCalled_wrote empty silent.at' fits)
    next slates =>
      rw [if_neg slates] at fits
      have silent := counted (fun i => { i with missing := incSat16 (s.intake p).missing })
        (fun i => { i with slates := incSat16 i.slates })
      exact Wrote.trans (c := slateBytes m label r (s.coder p).qi (recordTable r s)) silent
        (slateCalled_wrote (s := (s.modIntake p _).modIntake p _) label record empty silent.at' fits)

end

end Sys2Proof.Machine
end

section
/-! PROOFS. O21: the tick that ends a period of a RUNNING program's run (R20, R29 to R31, R97 to R99). -/

namespace Sys2Proof.Machine

set_option Elab.async false

/-! ### The SOUND unit (R97 to R99) -/

/-- The bytes of a period's SOUND unit; none for a program without a bus. -/
def soundBytes (r : ProgramRecord) (m c : Nat) (f : Framer) : List Byte :=
  if r.buses.isEmpty then []
  else (soundUnit m c r.buses.length r.soundWidth (interleave c (framerTake c f).1)).bytes

/-- The framer after a period. -/
def framerAfter (r : ProgramRecord) (c : Nat) (f : Framer) : Framer :=
  if r.buses.isEmpty then f else (framerTake c f).2

section
variable {p : Fin 4} {n k m : Nat} {s t : State} {r : ProgramRecord}

theorem writeSound_wrote (c : Nat) (record : (s.prog p).record = some r) (at' : WritesAt p n k m s)
    (fits : k + (soundBytes r m c (s.framer p)).length ≤ 262144) :
    Wrote p n k m (soundBytes r m c (s.framer p)) s (writeSound p m c s) ∧
      (writeSound p m c s).framer p = framerAfter r c (s.framer p) := by
  unfold writeSound soundBytes framerAfter at *
  rw [record]
  dsimp only
  split
  · exact ⟨.silent at' (.refl [] s) (by decide), rfl⟩
  next some' =>
    rw [if_neg some'] at fits
    have silent := Wrote.silent at' (modFramer_inner s p fun _ => (framerTake c (s.framer p)).2) (by decide)
    obtain ⟨-, wrote⟩ := offerUnit_wrote (m := m)
      (u := soundUnit m c r.buses.length r.soundWidth (interleave c (framerTake c (s.framer p)).1)) rfl silent.at'
      (by simp [soundUnit, unitBytes, Laws.u8_length]) (by rwa [List.length_nil, Nat.add_zero])
    refine ⟨silent.trans wrote, ?_⟩
    refine (congrArg (fun v => v.get p) ((offerUnit_inner ..).same .framers (by decide))).trans ?_
    exact (modFramer_framer s p p fun _ => (framerTake c (s.framer p)).2).trans (if_pos rfl)

/-- The samples that a period of a program takes of each bus (R20). -/
def periodCount (p : Fin 4) (s : State) : Nat := cadenceCount (stationRate s) (s.prog p)

/-- The bytes of the units of a period of a program. -/
def periodBytes (p : Fin 4) (m : Nat) (label : Timecode) (r : ProgramRecord) (s : State) : List Byte :=
  standBytes p m label r s ++ soundBytes r m (periodCount p s) (s.framer p)

theorem closeLimit_of_own (own : ∀ x, (s.intake p).taking = some x → x.picture = m) : closeLimit p m s = s := by
  unfold closeLimit
  split
  next x taking => exact if_pos (own x taking)
  · rfl

theorem runPeriod_wrote (record : (s.prog p).record = some r) (own : ∀ x, (s.intake p).taking = some x → x.picture = m)
    (empty : (s.coder p).list = []) (at' : WritesAt p n k m s)
    (fits : k + (periodBytes p m s.tb.endedLabel r s).length ≤ 262144) :
    Wrote p n k m (periodBytes p m s.tb.endedLabel r s) s (runPeriod p m s) ∧
      (runPeriod p m s).framer p = framerAfter r (periodCount p s) (s.framer p) := by
  unfold periodBytes runPeriod at *
  rw [List.length_append] at fits
  rw [closeLimit_of_own own]
  have stood := standIn_wrote s.tb.endedLabel record empty at' (by omega)
  have kept := standIn_coderKeeps p m s s.tb.endedLabel
  have framer : (standIn p m s.tb.endedLabel s).framer p = s.framer p :=
    congrArg (fun v => v.get p) ((standIn_inner ..).same .framers (by decide))
  have count : periodCount p (standIn p m s.tb.endedLabel s) = periodCount p s := by
    unfold periodCount stationRate cadenceCount
    rw [(standIn_inner ..).same .tb (by decide), kept.prog]
  have record' : ((standIn p m s.tb.endedLabel s).prog p).record = some r := by rw [kept.prog]; exact record
  generalize standIn p m s.tb.endedLabel s = u at stood framer count record'
  rw [← framer, ← count] at fits ⊢
  let accumulates (g : Program) : Program :=
    { g with accumulator := (g.accumulator + (stationRate u).cadenceN) % (stationRate u).cadenceD }
  have offset : ((u.modProg p accumulates).prog p).streamOffset = (u.prog p).streamOffset := by rw [modified_prog]
  have recorded : ((u.modProg p accumulates).prog p).record = some r := by rw [modified_prog]; exact record'
  have silent := Wrote.none stood.at' offset (modProg_inner u p accumulates fun idle => idle) (by decide)
  obtain ⟨wrote, framer'⟩ := writeSound_wrote (s := u.modProg p accumulates) (periodCount p u) recorded silent.at' (by
    show _ + (soundBytes r m (periodCount p u) (u.framer p)).length ≤ _
    rw [List.length_nil]
    omega)
  exact ⟨stood.trans (silent.trans wrote), framer'⟩

/-! ### The other programs, which are IDLE -/

/-- Every program but `p` is IDLE, and takes no picture. -/
def AloneRuns (p : Fin 4) (s : State) : Prop := ∀ q, q ≠ p → (s.prog q).st = .idle ∧ (s.intake q).taking = none

theorem endPeriod_of_idle {q : Fin 4} (idle : (s.prog q).st = .idle) (none' : (s.intake q).taking = none) :
    endPeriod q m s = (periodEnd q s).modIntake q fun i => { i with accepted := false } := by
  have notOwn : periodOfRun q m s = false := by simp [periodOfRun, idle]
  have notDrains : ((s.prog q).st == .draining && (s.prog q).drainPicture == some m) = false := by simp [idle]
  have stands : closeLimit q m s = s := closeLimit_of_own (by rw [none']; exact nofun)
  unfold endPeriod
  dsimp only
  rw [notOwn, notDrains, stands]
  rfl

theorem endPeriod_idle_alone {q : Fin 4} (other : q ≠ p) (alone : AloneRuns p s) : AloneRuns p (endPeriod q m s) := by
  intro j notOwn
  by_cases same : j = q
  · subst same
    obtain ⟨idle, none'⟩ := alone j notOwn
    rw [endPeriod_of_idle idle none']
    refine ⟨(congrArg Program.st (prog_of_same (periodEnd_inner j s) (by decide) j)).trans idle, ?_⟩
    rw [modified_intake]
    exact (congrArg (fun v => (v.get j).taking) ((periodEnd_inner j s).same .intakes (by decide))).trans none'
  · have spares := endPeriod_spares (p := j) (q := q) (Ne.symm same) m s
    rw [spares.prog, spares.intake]
    exact alone j notOwn

theorem endPeriod_idle_inner {q : Fin 4} (other : q ≠ p) (alone : AloneRuns p s) :
    Inner [.chains, .clips, .sched, .intakes] s (endPeriod q m s) := by
  obtain ⟨idle, none'⟩ := alone q other
  rw [endPeriod_of_idle idle none']
  exact ((periodEnd_inner q s).widen).andThen (modIntake_inner _ q _)

theorem endPeriod_idle_writes {q : Fin 4} (other : q ≠ p) (alone : AloneRuns p s) (at' : WritesAt p n k m s) :
    WritesAt p n k m (endPeriod q m s) := by
  obtain ⟨idle, none'⟩ := alone q other
  rw [endPeriod_of_idle idle none']
  exact (at'.periodEnd q).of_inner (modIntake_inner _ q _) (by decide)

/-- What the ends of the periods write where only program `p` runs. -/
structure PeriodWrote (p : Fin 4) (n k : Nat) (bytes : List Byte) (f : Framer) (s t : State) : Prop where
  offset : (t.prog p).streamOffset = (s.prog p).streamOffset + bytes.length
  reads : ∀ i x, bytes[i]? = some x → memRead t.mem (n * 262144 + k + i) = x
  others : ∀ a, a < n * 262144 + k ∨ n * 262144 + k + bytes.length ≤ a → memRead t.mem a = memRead s.mem a
  framer : t.framer p = f

theorem PeriodWrote.after {bytes : List Byte} {f : Framer} {u : State} (wrote : PeriodWrote p n k bytes f s t)
    (prog : u.prog p = t.prog p) (framer : u.framer p = t.framer p) (mem : u.mem = t.mem) :
    PeriodWrote p n k bytes f s u where
  offset := by rw [prog]; exact wrote.offset
  reads := by rw [mem]; exact wrote.reads
  others := by rw [mem]; exact wrote.others
  framer := framer.trans wrote.framer

/-- What program `p` and the memory are before its period ends. -/
structure Before (p : Fin 4) (n k m : Nat) (s t : State) : Prop where
  alone : AloneRuns p t
  spares : SparesProgram p s t
  mem : t.mem = s.mem
  tables : t.tables = s.tables
  rate : t.tb.rate = s.tb.rate
  ended : t.tb.endedLabel = s.tb.label
  at' : WritesAt p n k m t

theorem Before.same {t : State} (before : Before p n k m s t) (label : Timecode) :
    periodBytes p m label r t = periodBytes p m label r s ∧ periodCount p t = periodCount p s := by
  have count : periodCount p t = periodCount p s := by
    unfold periodCount stationRate
    rw [before.rate, before.spares.prog]
  refine ⟨?_, count⟩
  unfold periodBytes standBytes recordTable State.table
  rw [count, before.spares.intake, before.spares.coder, before.spares.framer, before.tables]

theorem Before.endPeriod (before : Before p n k m s t) {q : Fin 4} (other : q ≠ p) :
    Before p n k m s (endPeriod q m t) := by
  have kept := endPeriod_idle_inner (m := m) other before.alone
  exact ⟨endPeriod_idle_alone other before.alone, before.spares.trans (endPeriod_spares other m t),
    (kept.same .mem (by decide)).trans before.mem, (kept.same .tables (by decide)).trans before.tables,
    (congrArg Timebase.rate (kept.same .tb (by decide))).trans before.rate,
    (congrArg Timebase.endedLabel (kept.same .tb (by decide))).trans before.ended,
    endPeriod_idle_writes other before.alone before.at'⟩

theorem Before.own (before : Before p n k m s t) (runs : (s.prog p).st = .running) (record : (s.prog p).record = some r)
    (own : ∀ x, (s.intake p).taking = some x → x.picture = m) (empty : (s.coder p).list = [])
    (fits : k + (periodBytes p m s.tb.label r s).length ≤ 262144) :
    PeriodWrote p n k (periodBytes p m s.tb.label r s) (framerAfter r (periodCount p s) (s.framer p)) s (Machine.endPeriod p m t) := by
  obtain ⟨bytes, count⟩ := before.same (r := r) t.tb.endedLabel
  rw [← before.ended, ← bytes] at fits ⊢
  obtain ⟨wrote, framer⟩ := runPeriod_wrote (s := t) (r := r) (by rw [before.spares.prog, record])
    (by rw [before.spares.intake]; exact own) (by rw [before.spares.coder, empty]) before.at' fits
  have ends : PeriodWrote p n k (periodBytes p m t.tb.endedLabel r t) (framerAfter r (periodCount p s) (s.framer p)) s
      (runPeriod p m t) :=
    ⟨by rw [wrote.offset, before.spares.prog], wrote.reads, fun a outside => by rw [wrote.others a outside, before.mem],
      by rw [framer, count, before.spares.framer]⟩
  rw [endPeriod_of_running m (by rw [before.spares.prog, runs])]
  generalize runPeriod p m t = u at ends
  have closes := periodEnd_inner p u
  have closed := ends.after (prog_of_same closes (by decide) p) (congrArg (fun v => v.get p) (closes.same .framers (by decide)))
    (closes.same .mem (by decide))
  exact closed.after rfl rfl rfl

end

end Sys2Proof.Machine
end

section
/-! PROOFS. O21: the whole tick, and the bytes and samples of a period as the rules spell them (R20, R30, R31, R97 to R99,
R215). -/

namespace Sys2Proof.Machine

set_option Elab.async false

/-! ### The tick that ends the period of the one program that runs -/

section
variable {p : Fin 4} {n k : Nat} {s : State} {r : ProgramRecord}

theorem portsTicked_before (b : Bool) (time : Nat) (alone : AloneRuns p s) (at' : WritesAt p n k s.tb.picture s) :
    Before p n k s.tb.picture s
      (if b then retentionTick (eachProgram portTick (tickTimebase time s)) else eachProgram portTick (tickTimebase time s)) := by
  have spares (q : Fin 4) : SparesProgram q s _ := .of_inner (portsTicked_inner b time s) (by decide)
  have kept := portsTicked_inner b time s
  have ports := Inner.eachProgram (ps := [.ports, .link]) _ portTick_inner (tickTimebase time s)
  have ticked : WritesAt p n k s.tb.picture (eachProgram portTick (tickTimebase time s)) :=
    (at'.of_inner (tickTimebase_inner time s) (by decide)).of_inner ports (by decide)
  have timebase : (if b then retentionTick (eachProgram portTick (tickTimebase time s))
      else eachProgram portTick (tickTimebase time s)).tb = (tickTimebase time s).tb := by
    split
    · exact ((retentionTick_inner _).same .tb (by decide)).trans (ports.same .tb (by decide))
    · exact ports.same .tb (by decide)
  refine ⟨fun q other => ?_, spares p, kept.same .mem (by decide), kept.same .tables (by decide), ?_, ?_, ?_⟩
  · rw [(spares q).prog, (spares q).intake]
    exact alone q other
  · rw [timebase]
    rfl
  · rw [timebase]
    rfl
  · split
    · exact ticked.retentionTick
    · exact ticked

theorem periodsEnded_wrote {b : Bool} {time : Nat} (alone : AloneRuns p s) (runs : (s.prog p).st = .running)
    (record : (s.prog p).record = some r) (own : ∀ x, (s.intake p).taking = some x → x.picture = s.tb.picture)
    (empty : (s.coder p).list = []) (at' : WritesAt p n k s.tb.picture s)
    (fits : k + (periodBytes p s.tb.picture s.tb.label r s).length ≤ 262144) :
    PeriodWrote p n k (periodBytes p s.tb.picture s.tb.label r s) (framerAfter r (periodCount p s) (s.framer p)) s
      (periodsEnded b time s) := by
  have both : PeriodWrote p n k (periodBytes p s.tb.picture s.tb.label r s) (framerAfter r (periodCount p s) (s.framer p)) s
      (periodsEnded b time s) ∧ AloneRuns p (periodsEnded b time s) := by
    refine eachProgram_own (Q := Before p n k s.tb.picture s)
      (R := fun t => PeriodWrote p n k (periodBytes p s.tb.picture s.tb.label r s)
        (framerAfter r (periodCount p s) (s.framer p)) s t ∧ AloneRuns p t) p
      (fun q t other before => before.endPeriod other)
      (fun t before => ⟨before.own runs record own empty fits, fun q other => ?_⟩)
      (fun q t other ends => ⟨?_, endPeriod_idle_alone other ends.2⟩) (portsTicked_before b time alone at')
    · have spares := endPeriod_spares (p := q) (q := p) (Ne.symm other) s.tb.picture t
      rw [spares.prog, spares.intake]
      exact before.alone q other
    · have spares := endPeriod_spares (p := p) other s.tb.picture t
      exact ends.1.after spares.prog spares.framer ((endPeriod_idle_inner other ends.2).same .mem (by decide))
  exact both.1

theorem pictureTick_wrote {b : Bool} {time : Nat} (alone : AloneRuns p s) (runs : (s.prog p).st = .running)
    (record : (s.prog p).record = some r) (own : ∀ x, (s.intake p).taking = some x → x.picture = s.tb.picture)
    (empty : (s.coder p).list = []) (at' : WritesAt p n k s.tb.picture s)
    (fits : k + (periodBytes p s.tb.picture s.tb.label r s).length ≤ 262144) :
    PeriodWrote p n k (periodBytes p s.tb.picture s.tb.label r s) (framerAfter r (periodCount p s) (s.framer p)) s
      (pictureTickWith b time s) := by
  have spares := (pictureTick_over (b := b) (time := time) runs record).2
  have rest : Inner (tickParts.erase .mem) (periodsEnded b time s) (pictureTickWith b time s) := by
    rw [pictureTickWith_eq]
    have released' : Inner (tickParts.erase .mem) (periodsEnded b time s) (released (periodsEnded b time s)) :=
      (((Inner.eachProgram (ps := releaseParts) _ releaseProgram_inner _).widen (ps := tickParts.erase .mem)).andThen
        (Inner.eachProgram (ps := [.slots]) _ (fun i t => modSlot_inner t i releaseSlot) _)).andThen
        (modMixer_inner _ fun m => { m with buses := mapAll (fun _ => busAtTick) m.buses })
    exact (released'.andThen (staleChecked_inner b _)).andThen (endEvent_inner s _)
  exact (periodsEnded_wrote alone runs record own empty at' fits).after spares.prog spares.framer
    (rest.same .mem (by decide))

end

/-! ### The bytes of a slate and of a REPEAT unit (R30, R31, R215) -/

theorem repeatUnit_bytes (m : Nat) : (repeatUnit m).bytes = [3#8] ++ u32 9 ++ u32 m := by
  simp [repeatUnit, unitBytes, u8, be]

theorem headUnit_bytes (m : Nat) (label : Timecode) (r : ProgramRecord) (qi : Nat) :
    (headUnit m label r qi true).bytes = [1#8] ++ u32 21 ++ u32 m ++ encTimecode label ++ u8 r.table ++ u8 qi ++ [1#8]
      ++ u16 r.width ++ u16 r.height ++ twos 1 r.chromaOffset := by
  have length : 9 + (encTimecode label ++ u8 r.table ++ u8 qi ++ flag true ++ u16 r.width ++ u16 r.height
      ++ twos 1 r.chromaOffset).length = 21 := by
    simp [encTimecode, flag, Laws.u8_length, Laws.u16_length, Laws.twos_length]
  have one : u8 1 = [1#8] := rfl
  have held : flag true = [1#8] := rfl
  unfold headUnit unitBytes
  dsimp only
  rw [length, one, held]
  simp only [List.append_assoc]

theorem sliceBytes_eq (m x qi : Nat) (last : Bool) (payload : List Byte) : (sliceUnit m x qi last payload).bytes =
    [2#8] ++ u32 (16 + payload.length) ++ u32 m ++ u16 x ++ u8 qi ++ u32 payload.length ++ payload := by
  have length : 9 + (u16 x ++ u8 qi ++ u32 payload.length ++ payload).length = 16 + payload.length := by
    simp [Laws.u8_length, Laws.u16_length, Laws.u32_length]
    omega
  have two : u8 2 = [2#8] := rfl
  unfold sliceUnit unitBytes
  dsimp only
  rw [length, two]
  simp only [List.append_assoc]

theorem slateBytes_eq (m : Nat) (label : Timecode) (r : ProgramRecord) (qi : Nat) (t : List CodeEntry) :
    slateBytes m label r qi t =
      let payload := slicePayload t (slicePairs (slateLines r) qi r.chromaOffset true)
      [1#8] ++ u32 21 ++ u32 m ++ encTimecode label ++ u8 r.table ++ u8 qi ++ [1#8]
        ++ u16 r.width ++ u16 r.height ++ twos 1 r.chromaOffset ++ (List.range (r.height / 8)).flatMap fun x =>
          [2#8] ++ u32 (16 + payload.length) ++ u32 m ++ u16 x ++ u8 qi ++ u32 payload.length ++ payload := by
  unfold slateBytes slateSliceBytes
  rw [headUnit_bytes]
  refine congrArg (_ ++ ·) (congrArg (fun f => (List.range (r.height / 8)).flatMap f) (funext fun x => ?_))
  rw [sliceBytes_eq, Nat.zero_add]

/-! ### The samples of a SOUND unit (R98, R99) -/

/-- The last sample of bus `j` once all of its buffer has been taken. -/
def lastHeld (f : Framer) (j : Nat) : Int := (f.buffers.getD j []).getLastD (f.lasts.getD j 0)

section
variable {f : Framer} {c m : Nat} (even : f.lasts.length = f.buffers.length) (depth : ∀ b ∈ f.buffers, b.length = m)

theorem framerDepth_of_even (some' : f.buffers ≠ []) (depth : ∀ b ∈ f.buffers, b.length = m) : framerDepth f = m := by
  obtain ⟨b, bs, is⟩ := List.exists_cons_of_ne_nil some'
  unfold framerDepth
  rw [is]
  exact depth b (is ▸ List.mem_cons_self)

include even in
theorem lastsTaken_eq : List.zipWith lastOf f.buffers f.lasts = (List.range f.buffers.length).map (lastHeld f) := by
  refine List.ext_getElem (by simp [even]) fun j short short' => ?_
  have short'' : j < f.buffers.length := by simpa using short'
  simp only [List.getElem_zipWith, List.getElem_map, List.getElem_range, lastHeld, lastOf]
  rw [List.getD_eq_getElem _ _ short'', List.getD_eq_getElem _ _ (even ▸ short'')]

include even depth in
/-- What a take of `c` samples gives at each of its places: the sample held, or the last one. -/
theorem takenAt (some' : f.buffers ≠ []) {k : Nat} (short : k < c) :
    (framerTake c f).1.map (fun b => b.getD k 0) =
      (List.range f.buffers.length).map fun j => (f.buffers.getD j []).getD k (lastHeld f j) := by
  unfold framerTake
  dsimp only
  rw [framerDepth_of_even some' depth]
  by_cases enough : c ≤ m
  · rw [if_pos enough]
    refine List.ext_getElem (by simp) fun j short' short'' => ?_
    have in' : j < f.buffers.length := by simpa using short''
    have length := depth _ (List.getElem_mem in')
    simp only [List.getElem_map, List.getElem_range, List.getD_eq_getElem _ _ in']
    rw [List.getD_eq_getElem _ _ (by rw [List.length_take]; omega), List.getD_eq_getElem _ _ (by omega), List.getElem_take]
  · rw [if_neg enough, lastsTaken_eq even]
    refine List.ext_getElem (by simp) fun j short' short'' => ?_
    have in' : j < f.buffers.length := by simpa using short''
    have length := depth _ (List.getElem_mem in')
    simp only [List.getElem_map, List.getElem_range, List.getElem_zipWith, List.getD_eq_getElem _ _ in']
    by_cases held : k < m
    · rw [List.getD_append _ _ _ _ (by omega), List.getD_eq_getElem _ _ (by omega), List.getD_eq_getElem _ _ (by omega)]
    · rw [List.getD_append_right _ _ _ _ (by omega), List.getD_eq_getElem _ _ (by rw [List.length_replicate]; omega),
        List.getElem_replicate, List.getD_eq_default _ _ (by omega)]

include depth in
theorem framerTake_enough (some' : f.buffers ≠ []) (enough : c ≤ m) : (framerTake c f).2 =
    { f with
      buffers := f.buffers.map fun b => b.drop (if 2 * c < m - c then m - 2 * c else c)
      lasts := List.zipWith (fun b l => (b.take c).getLastD l) f.buffers f.lasts
      slips := if 2 * c < m - c then min (f.slips + 1) 65535 else f.slips } := by
  unfold framerTake
  dsimp only
  rw [framerDepth_of_even some' depth, if_pos enough]
  by_cases slips : 2 * c < m - c
  · have drops : (f.buffers.map fun b => b.drop c).map (fun b => b.drop (b.length - 2 * c)) =
        f.buffers.map fun b => b.drop (m - 2 * c) := by
      rw [List.map_map]
      refine List.map_congr_left fun b mem => ?_
      have length := depth b mem
      show (b.drop c).drop ((b.drop c).length - 2 * c) = _
      rw [List.drop_drop, List.length_drop, length]
      congr 1
      omega
    rw [decide_eq_true slips, if_pos rfl, if_pos rfl, if_pos slips, if_pos slips, drops]
    rfl
  · rw [decide_eq_false slips, if_neg Bool.false_ne_true, if_neg Bool.false_ne_true, if_neg slips, if_neg slips]
    rfl

include even depth in
theorem framerTake_short (some' : f.buffers ≠ []) (few : m < c) : (framerTake c f).2 =
    { f with
      buffers := (List.range f.buffers.length).map fun j => List.replicate 16 (lastHeld f j)
      lasts := (List.range f.buffers.length).map (lastHeld f)
      holds := min (f.holds + 1) 65535 } := by
  unfold framerTake
  dsimp only
  rw [framerDepth_of_even some' depth, if_neg (Nat.not_le.mpr few), lastsTaken_eq even, List.map_map]
  rfl

end

theorem soundUnit_bytes (m c buses width : Nat) (frames : List (List Int)) (even : ∀ x ∈ frames, x.length = buses)
    (count : frames.length = c) : (soundUnit m c buses width frames).bytes =
      [4#8] ++ u32 (13 + c * buses * (width / 8)) ++ u32 m ++ u16 c ++ u8 buses ++ u8 width ++
        frames.flatMap fun x => x.flatMap (twos (width / 8)) := by
  have flat (x : List Int) : (x.flatMap (twos (width / 8))).length = x.length * (width / 8) := by
    rw [List.length_flatMap, List.map_congr_left fun y _ => Laws.twos_length (width / 8) y, List.map_const', List.sum_replicate,
      smul_eq_mul]
  have samples : (frames.flatMap fun x => x.flatMap (twos (width / 8))).length = c * buses * (width / 8) := by
    rw [List.length_flatMap, List.map_congr_left fun x mem => (flat x).trans (by rw [even x mem]), List.map_const',
      List.sum_replicate, smul_eq_mul, count, Nat.mul_assoc]
  have length : 9 + (u16 c ++ u8 buses ++ u8 width ++ frames.flatMap fun x => x.flatMap (twos (width / 8))).length =
      13 + c * buses * (width / 8) := by
    rw [List.length_append, samples]
    simp [Laws.u8_length, Laws.u16_length]
    omega
  have four : u8 4 = [4#8] := rfl
  unfold soundUnit unitBytes
  dsimp only
  rw [length, four]
  simp only [List.append_assoc]

/-- The bytes of the SOUND unit by bus and place (R99, R215). -/
theorem soundBytes_eq {r : ProgramRecord} {f : Framer} {m c depth : Nat} (buffers : f.buffers.length = r.buses.length)
    (lasts : f.lasts.length = r.buses.length) (even : ∀ b ∈ f.buffers, b.length = depth) :
    soundBytes r m c f = if r.buses = [] then [] else
      [4#8] ++ u32 (13 + c * r.buses.length * (r.soundWidth / 8)) ++ u32 m ++ u16 c ++ u8 r.buses.length
        ++ u8 r.soundWidth ++ (List.range c).flatMap fun k =>
          (List.range r.buses.length).flatMap fun j =>
            twos (r.soundWidth / 8) ((f.buffers.getD j []).getD k (lastHeld f j)) := by
  unfold soundBytes
  by_cases none' : r.buses = []
  · rw [if_pos (List.isEmpty_iff.mpr none'), if_pos none']
  · have some' : f.buffers ≠ [] := fun empty => none' (List.length_eq_zero_iff.mp (by rw [← buffers, empty]; rfl))
    have each : interleave c (framerTake c f).1 = (List.range c).map fun k =>
        (List.range r.buses.length).map fun j => (f.buffers.getD j []).getD k (lastHeld f j) := by
      refine List.map_congr_left fun k mem => ?_
      rw [takenAt (lasts.trans buffers.symm) even some' (List.mem_range.mp mem), buffers]
    rw [if_neg (mt List.isEmpty_iff.mp none'), if_neg none', soundUnit_bytes, each, List.flatMap_map]
    · refine congrArg (_ ++ ·) (congrArg (fun g => (List.range c).flatMap g) (funext fun k => ?_))
      rw [List.flatMap_map]
    · intro x mem
      rw [each] at mem
      obtain ⟨k, -, rfl⟩ := List.mem_map.mp mem
      rw [List.length_map, List.length_range]
    · rw [each, List.length_map, List.length_range]

/-! ### O21 -/

theorem stoodIn_of_accepted {r : ProgramRecord} {i : Intake} (accepted : i.accepted = true) : stoodIn r i = i :=
  if_pos accepted

theorem stoodIn_of_missed {r : ProgramRecord} {i : Intake} (missed : i.accepted = false) :
    (i.codedInRun = true ∧ min (i.missing + 1) 65535 ≤ r.hold → stoodIn r i =
      { i with missing := min (i.missing + 1) 65535, repeats := min (i.repeats + 1) 65535 }) ∧
    (¬(i.codedInRun = true ∧ min (i.missing + 1) 65535 ≤ r.hold) → stoodIn r i =
      { i with missing := min (i.missing + 1) 65535, slates := min (i.slates + 1) 65535 }) := by
  have repeats : (i.codedInRun && decide (incSat16 i.missing ≤ r.hold)) = true ↔
      i.codedInRun = true ∧ min (i.missing + 1) 65535 ≤ r.hold := by
    rw [Bool.and_eq_true, decide_eq_true_iff]
    rfl
  have notTaken : ¬i.accepted = true := by rw [missed]; exact Bool.false_ne_true
  unfold stoodIn
  rw [if_neg notTaken]
  exact ⟨fun is => if_pos (repeats.mpr is), fun isNot => if_neg (mt repeats.mp isNot)⟩

/-- The counts that the end of a period leaves at a program's intake (R29, R30). -/
theorem stoodIn_counts (r : ProgramRecord) (n : Nat) (i : Intake) :
    (stoodIn r (limited n i)).taking = i.taking.filter (fun k => k.picture = n) ∧
      (i.accepted = true → (stoodIn r (limited n i)).missing = i.missing ∧
        (stoodIn r (limited n i)).repeats = i.repeats ∧ (stoodIn r (limited n i)).slates = i.slates) ∧
      (i.accepted = false → (stoodIn r (limited n i)).missing = min (i.missing + 1) 65535 ∧
        (i.codedInRun = true ∧ min (i.missing + 1) 65535 ≤ r.hold →
          (stoodIn r (limited n i)).repeats = min (i.repeats + 1) 65535 ∧ (stoodIn r (limited n i)).slates = i.slates) ∧
        (¬(i.codedInRun = true ∧ min (i.missing + 1) 65535 ≤ r.hold) →
          (stoodIn r (limited n i)).repeats = i.repeats ∧
            (stoodIn r (limited n i)).slates = min (i.slates + 1) 65535)) := by
  have taking : (limited n i).taking = i.taking.filter (fun k => k.picture = n) := rfl
  cases accepted : i.accepted with
  | true =>
    rw [stoodIn_of_accepted (i := limited n i) accepted]
    exact ⟨taking, fun _ => ⟨rfl, rfl, rfl⟩, nofun⟩
  | false =>
    obtain ⟨yes, no⟩ := stoodIn_of_missed (r := r) (i := limited n i) accepted
    by_cases repeats : i.codedInRun = true ∧ min (i.missing + 1) 65535 ≤ r.hold
    · rw [yes repeats]
      exact ⟨taking, nofun, fun _ => ⟨rfl, fun _ => ⟨rfl, rfl⟩, fun isNot => absurd repeats isNot⟩⟩
    · rw [no repeats]
      exact ⟨taking, nofun, fun _ => ⟨rfl, fun is => absurd is repeats, fun _ => ⟨rfl, rfl⟩⟩⟩

/-- The stand-in's bytes by what the period asks for. -/
theorem standBytes_eq {p : Fin 4} {r : ProgramRecord} {s : State} {m : Nat} {label : Timecode} {stand : List Byte}
    (whole : (s.intake p).accepted = true → stand = [])
    (repeated : (s.intake p).accepted = false →
      (s.intake p).codedInRun = true ∧ min ((s.intake p).missing + 1) 65535 ≤ r.hold → stand = (repeatUnit m).bytes)
    (slate : (s.intake p).accepted = false →
      ¬((s.intake p).codedInRun = true ∧ min ((s.intake p).missing + 1) 65535 ≤ r.hold) →
        stand = slateBytes m label r (s.coder p).qi (recordTable r s)) : standBytes p m label r s = stand := by
  have repeats : ((s.intake p).codedInRun && decide (incSat16 (s.intake p).missing ≤ r.hold)) = true ↔
      (s.intake p).codedInRun = true ∧ min ((s.intake p).missing + 1) 65535 ≤ r.hold := by
    rw [Bool.and_eq_true, decide_eq_true_iff]
    rfl
  unfold standBytes
  split
  next accepted => exact (whole accepted).symm
  next missed =>
    have missed' := Bool.eq_false_iff.mpr missed
    split
    next is => exact (repeated missed' (repeats.mp is)).symm
    next isNot => exact (slate missed' (mt repeats.mpr isNot)).symm

/-- Settles O21. -/
theorem tickEndsThePeriod : Obligations.TickEndsThePeriod := by
  intro s d p r due runs record row i missing repeats
  have taken : exec .dueTick s = .next (takeDueTick s) := rfl
  rw [takeDueTick_eq due] at taken
  let u := s.modTb fun t => { t with due := nextDue (max s.tb.now d) s.tb }
  obtain ⟨⟨⟨o, prog⟩, intake⟩, -⟩ := pictureTick_over (b := Config.retentionFirst (incWrap32 s.tb.picture))
    (time := max s.tb.now d) (s := u) (p := p) runs record
  have wrote (n k : Nat) := pictureTick_wrote (n := n) (k := k) (b := Config.retentionFirst (incWrap32 s.tb.picture))
    (time := max s.tb.now d) (s := u) (p := p) (r := r)
  obtain ⟨taking, kept, missed⟩ := stoodIn_counts r s.tb.picture i
  refine ⟨_, taken, ?_, ?_, ?_, ?_, fun accepted => ?_, fun isMissed => ?_, ?_⟩
  · exact (congrArg Program.st prog).trans runs
  · exact congrArg Program.accumulator prog
  · exact congrArg Intake.accepted intake
  · exact (congrArg Intake.taking intake).trans taking
  · obtain ⟨a, b, c⟩ := kept accepted
    exact ⟨(congrArg Intake.missing intake).trans a, (congrArg Intake.repeats intake).trans b,
      (congrArg Intake.slates intake).trans c⟩
  · obtain ⟨a, yes, no⟩ := missed isMissed
    exact ⟨(congrArg Intake.missing intake).trans a,
      fun is => ⟨(congrArg Intake.repeats intake).trans (yes is).1, (congrArg Intake.slates intake).trans (yes is).2⟩,
      fun isNot => ⟨(congrArg Intake.repeats intake).trans (no isNot).1, (congrArg Intake.slates intake).trans (no isNot).2⟩⟩
  · intro alone own empty idle whole n f c qi held last sound flat payload slate g stand opened writer isWhole isRepeat isSlate
      buffers lasts m even fits
    have stands : standBytes p n s.tb.label r u = stand := by
      refine standBytes_eq isWhole (fun a b => (isRepeat a b).trans (repeatUnit_bytes n).symm) fun a b => (isSlate a b).trans ?_
      exact (slateBytes_eq n s.tb.label r qi (recordTable r u)).symm
    have sounds : soundBytes r n c f = sound := soundBytes_eq buffers lasts even
    have bytes : periodBytes p n s.tb.label r u = stand ++ sound := congrArg₂ (· ++ ·) stands sounds
    obtain ⟨offset, reads, others, framer⟩ := wrote g.number g.fill alone runs record own empty
      ⟨whole, fun _ => ⟨g, opened, writer, rfl, rfl⟩⟩ (by
        show _ + (periodBytes p n s.tb.label r u).length ≤ _
        rw [bytes]
        exact fits)
    have framer' : _ = framerAfter r c f := framer
    have some' (some'' : r.buses ≠ []) : f.buffers ≠ [] ∧ framerAfter r c f = (framerTake c f).2 :=
      ⟨fun none' => some'' (List.length_eq_zero_iff.mp (by rw [← buffers, none']; rfl)),
        if_neg (mt List.isEmpty_iff.mp some'')⟩
    refine ⟨?_, ?_, ?_, fun listed enough => ?_, fun listed few => ?_⟩
    · rw [← bytes]
      exact offset
    · rw [← bytes]
      exact reads
    · rw [← bytes]
      exact others
    · obtain ⟨held', takes⟩ := some' listed
      exact framer'.trans (takes.trans (framerTake_enough even held' enough))
    · obtain ⟨held', takes⟩ := some' listed
      have short := framerTake_short (lasts.trans buffers.symm) even held' few
      rw [buffers] at short
      exact framer'.trans (takes.trans short)

end Sys2Proof.Machine
end

section
/-! PROOFS. The end of an event in which one path alone has an idle port: that path is served once (R134, R135, R157). -/

namespace Sys2Proof.Machine

set_option Elab.async false

/-! ### Nothing but the paths has anything to do -/

/-- No program that drains ends its writing or its drain. -/
def DrainsWait (s : State) : Prop := ∀ q, (s.prog q).st = .draining →
  if (s.prog q).writingEnded then (s.live q).cursor ≠ some ((s.prog q).run, (s.prog q).streamOffset)
  else (s.prog q).drainPicture = some s.tb.picture

/-- No clip completes its shipping, and none starts. -/
structure ShipsWait (s : State) : Prop where
  notDone : shipDone s = false
  notStart : shipCanStart s = false

section
variable {s t : State}

theorem DrainsWait.of_same (waits : DrainsWait s) (progs : t.progs = s.progs) (tb : t.tb = s.tb)
    (cursor : ∀ q, (s.prog q).st = .draining → (s.prog q).writingEnded = true →
      (t.live q).cursor ≠ some ((s.prog q).run, (s.prog q).streamOffset)) : DrainsWait t := by
  intro q
  have prog : t.prog q = s.prog q := congrArg (fun v => v.get q) progs
  rw [prog, tb]
  intro drains
  have own := waits q drains
  cases ended : (s.prog q).writingEnded with
  | false => rwa [ended] at own
  | true =>
    rw [if_pos rfl]
    exact cursor q drains ended

theorem DrainsWait.of_lives (waits : DrainsWait s) (progs : t.progs = s.progs) (tb : t.tb = s.tb)
    (lives : t.lives = s.lives) : DrainsWait t := by
  refine waits.of_same progs tb fun q drains ended => ?_
  have own := waits q drains
  rw [ended, if_pos rfl] at own
  unfold State.live
  rw [lives]
  exact own

theorem DrainsWait.not_ends (waits : DrainsWait s) (p : Fin 4) : writingDone p s = false ∧ drained p s = false := by
  by_cases drains : (s.prog p).st = .draining
  · have own := waits p drains
    unfold writingDone drained
    cases ended : (s.prog p).writingEnded with
    | false =>
      rw [ended, if_neg Bool.false_ne_true] at own
      simp [own]
    | true =>
      rw [ended, if_pos rfl] at own
      simp [own]
  · unfold writingDone drained
    simp [drains]

theorem settlePrograms_of_waits (waits : DrainsWait s) : settlePrograms s = s := by
  refine eachProgram_holds (P := fun t => t = s) (fun p t same => ?_) rfl
  subst same
  have ends := waits.not_ends p
  have stays : endWriting p t = t := if_neg (by rw [ends.1]; exact Bool.false_ne_true)
  rw [stays]
  exact if_neg (by rw [ends.2]; exact Bool.false_ne_true)

theorem settleShip_of_waits (waits : ShipsWait s) : settleShip s = s := by
  unfold settleShip settleShipN
  rw [waits.notDone, waits.notStart]
  rfl

theorem settleQuiet_of_waits (drains : DrainsWait s) (ships : ShipsWait s) : settleQuiet s = s := by
  unfold settleQuiet
  rw [settlePrograms_of_waits drains, settleShip_of_waits ships]

/-! ### One path is served -/

/-- Every path but `l` is busy with a frame. -/
def OthersBusy (l : Fin 6) (s : State) : Prop := ∀ k, k ≠ l → (s.path k).port ≠ none

/-- A path that is busy with a frame stands through every operation at the end of an event. -/
theorem busyKeeps (l : Fin 6) {x : Path} (busy : x.port ≠ none) : SettleKeeps fun t => t.path l = x := by
  have not {k : Fin 6} {t : State} (stands : t.path l = x) (idle : (t.path k).port = none) : k ≠ l := by
    rintro rfl
    exact busy (stands ▸ idle)
  refine .of_paths (fun s t same stands => ?_) ?_ ?_ ?_ ?_ ?_
  · unfold State.path
    rw [same]
    exact stands
  · exact fun k t stands _ idle _ => (sendProbe_path_ne (not stands idle) t).trans stands
  · exact fun k c d t stands asks => (takeLabel_path_ne (not stands asks.2.1) t c d).trans stands
  · exact fun k e t stands asks => (takeResend_path_ne (not stands asks.2.1) t e).trans stands
  · exact fun k p len t stands asks => (takeLive_path_ne (not stands asks.2.1) t p len).trans stands
  · exact fun k c len t stands asks => (takeClip_path_ne (not stands asks.2.1) t c len).trans stands

theorem askPath_of_busy {l : Fin 6} (busy : (s.path l).port ≠ none) : askPath l s = s := by
  unfold askPath
  refine if_neg ?_
  rw [Bool.and_eq_true, Option.isNone_iff_eq_none]
  exact fun both => busy both.2

theorem sendProbe_of_busy {l : Fin 6} (busy : (s.path l).port ≠ none) : sendProbe l s = s := by
  unfold sendProbe
  refine if_neg ?_
  rw [Bool.and_eq_true, Bool.and_eq_true, Option.isNone_iff_eq_none]
  exact fun all => busy all.1.2

theorem eachPath_single (f : Fin 6 → State → State) (l : Fin 6) (s : State) (before : ∀ k, k ≠ l → f k s = s)
    (after : ∀ k, k ≠ l → f k (f l s) = f l s) : eachPath f s = f l s := by
  unfold eachPath
  match l with
  | 0 => rw [after 1 (by decide), after 2 (by decide), after 3 (by decide), after 4 (by decide), after 5 (by decide)]
  | 1 => rw [before 0 (by decide), after 2 (by decide), after 3 (by decide), after 4 (by decide), after 5 (by decide)]
  | 2 => rw [before 0 (by decide), before 1 (by decide), after 3 (by decide), after 4 (by decide), after 5 (by decide)]
  | 3 => rw [before 0 (by decide), before 1 (by decide), before 2 (by decide), after 4 (by decide), after 5 (by decide)]
  | 4 => rw [before 0 (by decide), before 1 (by decide), before 2 (by decide), before 3 (by decide), after 5 (by decide)]
  | 5 => rw [before 0 (by decide), before 1 (by decide), before 2 (by decide), before 3 (by decide), before 4 (by decide)]

/-- No path asks. -/
def unasked (s : State) : State := s.modSched fun c => { c with asking := Vector.replicate 6 false }

theorem servePaths_of_busy (busy : ∀ k, (s.path k).port ≠ none) : servePaths s = unasked s := by
  unfold servePaths
  dsimp only
  refine eachPath_holds (P := fun t => t = unasked s) (fun k t same => ?_) rfl
  subst same
  have busy' : ((unasked s).path k).port ≠ none := busy k
  rw [askPath_of_busy busy', ite_self, sendProbe_of_busy busy']

/-- The one path with an idle port is served, and no other. -/
theorem servePaths_of_only {l : Fin 6} (others : OthersBusy l s) : servePaths s =
    sendProbe l (if s.sched.asking.get l then askPath l (unasked s) else unasked s) := by
  unfold servePaths
  dsimp only
  refine eachPath_single (fun k t => sendProbe k (if s.sched.asking.get k then askPath k t else t)) l (unasked s)
    (fun k other => ?_) fun k other => ?_
  · have busy : ((unasked s).path k).port ≠ none := others k other
    rw [askPath_of_busy busy, ite_self, sendProbe_of_busy busy]
  · have keeps := busyKeeps k (others k other)
    have stands : (sendProbe l (if s.sched.asking.get l then askPath l (unasked s) else unasked s)).path k = s.path k := by
      refine sendProbe_holds keeps ?_ l
      split
      · exact askPath_holds (s := unasked s) keeps rfl l
      · rfl
    have busy := others k other
    rw [← stands] at busy
    rw [askPath_of_busy busy, ite_self, sendProbe_of_busy busy]

/-- A path that carries packets and asks walks the class order. -/
theorem servePaths_of_asking {l : Fin 6} (others : OthersBusy l s) (asks : s.sched.asking.get l = true)
    (idles : Idles l s) : servePaths s = sendProbe l (walk l (unasked s)) := by
  have walks : askPath l (unasked s) = walk l (unasked s) := by
    refine if_pos ?_
    rw [Bool.and_eq_true, Option.isNone_iff_eq_none]
    exact idles
  rw [servePaths_of_only others, asks, if_pos rfl, walks]

theorem sendProbe_of_notProbing {l : Fin 6} (carrying : (s.path l).st ≠ .probing) : sendProbe l s = s := by
  unfold sendProbe
  refine if_neg ?_
  rw [Bool.and_eq_true, Bool.and_eq_true, beq_iff_eq]
  exact fun all => carrying all.1.1

/-! ### An event that serves one path -/

/-- Where nothing but the paths has anything to do, the event ends when they have been served. -/
theorem settle_of_serve {u w : State} (drains : DrainsWait u) (ships : ShipsWait u) (serves : servePaths u = w)
    (drains' : DrainsWait w) (ships' : ShipsWait w) (unasked' : w.sched.asking = Vector.replicate 6 false) :
    settle u = freeZero w := by
  unfold settle
  rw [settleQuiet_of_waits drains ships]
  show freeZero (settleN (15 + 1) u) = _
  unfold settleN
  dsimp only
  rw [serves, settleQuiet_of_waits drains' ships', if_pos unasked']

/-- What the ends of writing, of drains and of shipping keep. -/
structure EndsKeep (P : State → Prop) : Prop where
  ended : ∀ p s, P s → writingDone p s = true → P (endWriting p s)
  drain : ∀ p s, P s → drained p s = true → P (completeDrain p s)
  shipped : ∀ s, P s → shipDone s = true → P (completeShip s)
  started : ∀ s, P s → shipCanStart s = true → P (startShip s)

theorem EndsKeep.settleQuiet {P : State → Prop} (K : EndsKeep P) (holds : P s) : P (settleQuiet s) := by
  have programs : P (settlePrograms s) := by
    refine eachProgram_holds (P := P) (fun p t held => ?_) holds
    have ended : P (endWriting p t) := by
      by_cases done : writingDone p t = true
      · exact K.ended p t held done
      · rwa [show endWriting p t = t from if_neg done]
    by_cases done : drained p (endWriting p t) = true
    · exact K.drain p _ ended done
    · rwa [show completeDrain p (endWriting p t) = endWriting p t from if_neg done]
  exact settleShip_holds K.shipped K.started programs

/-- What a round of the end of an event keeps, the service of the paths left out. -/
structure RoundKeeps (P : State → Prop) : Prop extends EndsKeep P where
  asking : ∀ s, P s → P (unasked s)
  frees : ∀ s, P s → P (freeZero s)

/-- What the service of the paths keeps, the event keeps. -/
theorem settle_of_kept {P : State → Prop} (K : RoundKeeps P) {u : State} (holds : P u)
    (serves : ∀ t, P t → P (servePaths t)) : P (settle u) := by
  have rounds (n : Nat) : ∀ t, P t → P (settleN n t) := by
    induction n with
    | zero => exact fun t held => K.asking t held
    | succ n ih =>
      intro t held
      have once := K.settleQuiet (serves t held)
      unfold settleN
      dsimp only
      split
      · exact once
      · exact ih _ once
  unfold settle
  exact K.frees _ (rounds 16 _ (K.settleQuiet holds))

/-- Paths that are busy stay so where none of them is served. -/
theorem RoundKeeps.busy {P : State → Prop} (K : RoundKeeps P) :
    RoundKeeps fun t => (∀ k, (t.path k).port ≠ none) ∧ P t := by
  have kept {ps : List Part} {t v : State} (h : Inner ps t v) (paths : Part.paths ∉ ps)
      (busy : ∀ k, (t.path k).port ≠ none) (k : Fin 6) : (v.path k).port ≠ none := by
    rw [path_of_same h paths]
    exact busy k
  exact {
    ended := fun p t h done => ⟨kept (endWriting_inner p t) (by decide) h.1, K.ended p t h.2 done⟩
    drain := fun p t h done => ⟨kept (completeDrain_inner p t) (by decide) h.1, K.drain p t h.2 done⟩
    shipped := fun t h done => ⟨kept (completeShip_inner t) (by decide) h.1, K.shipped t h.2 done⟩
    started := fun t h can => ⟨kept (startShip_inner t) (by decide) h.1, K.started t h.2 can⟩
    asking := fun t h => ⟨h.1, K.asking t h.2⟩
    frees := fun t h => ⟨kept (freeZero_inner t) (by decide) h.1, K.frees t h.2⟩ }

/-- What the first service of the paths brings about, where it leaves them all busy. -/
theorem settle_of_first {P Q : State → Prop} (K : EndsKeep P) (L : RoundKeeps Q) {u : State} (holds : P u)
    (serves : ∀ t, P t → (∀ k, ((servePaths t).path k).port ≠ none) ∧ Q (servePaths t)) : Q (settle u) := by
  have busy := L.busy
  have stands (t : State) (held : (∀ k, (t.path k).port ≠ none) ∧ Q t) :
      (∀ k, ((servePaths t).path k).port ≠ none) ∧ Q (servePaths t) := by
    rw [servePaths_of_busy held.1]
    exact busy.asking t held
  have rounds (n : Nat) : ∀ t, ((∀ k, (t.path k).port ≠ none) ∧ Q t) →
      (∀ k, ((settleN n t).path k).port ≠ none) ∧ Q (settleN n t) := by
    induction n with
    | zero => exact fun t held => busy.asking t held
    | succ n ih =>
      intro t held
      have once := busy.settleQuiet (stands t held)
      unfold settleN
      dsimp only
      split
      · exact once
      · exact ih _ once
  have once := busy.settleQuiet (serves _ (K.settleQuiet holds))
  unfold settle
  refine (busy.frees _ ?_).2
  show _ ∧ Q (settleN (15 + 1) _)
  unfold settleN
  dsimp only
  split
  · exact once
  · exact rounds 15 _ once

end

end Sys2Proof.Machine
end

section
/-! PROOFS. The class order, step by step: what a path with an idle port finds, and what the packet that it takes leaves
(R134, R149 to R163, R167). -/

namespace Sys2Proof.Machine

set_option Elab.async false

/-! ### A candidate (R157) -/

section
variable {l : Fin 6} {s w : State}

theorem offer_of_take {bits : Nat} {take : State → State} (fits : bits ≤ creditCap (s.path l))
    (pays : bits ≤ (s.path l).credit) : offer l bits take s = .ended (take s) := by
  have judged : judge l bits s = .take := by
    unfold judge
    dsimp only
    rw [if_neg (Nat.not_lt.mpr fits), if_neg (Nat.not_lt.mpr pays)]
  unfold offer
  rw [judged]

theorem offer_of_wait {bits : Nat} {take : State → State} (fits : bits ≤ creditCap (s.path l))
    (short : (s.path l).credit < bits) : offer l bits take s = .ended s := by
  have judged : judge l bits s = .wait := by
    unfold judge
    dsimp only
    rw [if_neg (Nat.not_lt.mpr fits), if_pos short]
  unfold offer
  rw [judged]

theorem creditCap_of_carries {x : Path} (carrying : carries x = true) : creditCap x = x.estimate * x.burst := by
  unfold creditCap pathRate
  rcases (carries_iff x).mp carrying with st | st <;> rw [st]

/-! ### The steps of the class order (R158 to R162) -/

/-- No label waits, or the window has no room for it. -/
def NoLabel (s : State) : Prop := s.sched.labelQueue = [] ∨ 2048 ≤ (reliableEntries s).length

theorem labelStep_of_none (none' : NoLabel s) : labelStep l s = .goOn s := by
  unfold labelStep
  by_cases full : Config.maxReliableEntries ≤ (reliableEntries s).length
  · exact if_pos full
  · have empty : s.sched.labelQueue = [] := none'.resolve_right full
    rw [if_neg full, empty]

theorem labelStep_of_head {c : Nat} {rest : List Nat} {k : Clip} (room : (reliableEntries s).length < 2048)
    (queue : s.sched.labelQueue = c :: rest) (found : clipAt c s = some k) :
    labelStep l s = offer l (packetBits (labelBody c k).length) (takeLabel l c k) s := by
  have notFull : ¬Config.maxReliableEntries ≤ (reliableEntries s).length := Nat.not_le.mpr room
  unfold labelStep
  rw [if_neg notFull, queue]
  dsimp only
  rw [found]

/-- The queued entries that another path sent last. -/
def foreignQueue (l : Fin 6) (s : State) : List Entry := (resendQueue s).filter fun e => e.path != l.1

theorem resendCandidates_of_foreign (strict : Bool) (some' : foreignQueue l s ≠ []) :
    resendCandidates l strict s = foreignQueue l s := by
  unfold resendCandidates
  dsimp only
  split
  next none' => exact absurd none' some'
  · rfl

theorem resendCandidates_of_own {strict : Bool} (none' : foreignQueue l s = []) :
    resendCandidates l strict s = if strict && !isAlone l s then [] else resendQueue s := by
  unfold resendCandidates
  dsimp only
  split
  · rfl
  next other => exact absurd none' other

/-- Entry `e` is the oldest candidate of the resend queue, of those that another path sent last first. -/
def OldestQueued (l : Fin 6) (e : Entry) (s : State) : Prop :=
  (foreignQueue l s).head? = some e ∨ (foreignQueue l s = [] ∧ (resendQueue s).head? = some e)

theorem resendCandidates_of_oldest {e : Entry} {strict : Bool} (oldest : OldestQueued l e s)
    (alone : strict = true → foreignQueue l s = [] → isAlone l s = true) :
    ∃ es, resendCandidates l strict s = e :: es := by
  rcases oldest with foreign | ⟨none', own⟩
  · obtain ⟨es, is⟩ := List.head?_eq_some_iff.mp foreign
    exact ⟨es, (resendCandidates_of_foreign strict (by rw [is]; exact nofun)).trans is⟩
  · obtain ⟨es, is⟩ := List.head?_eq_some_iff.mp own
    have free : (strict && !isAlone l s) = false := by
      cases strict with
      | false => rfl
      | true => rw [alone rfl none']; rfl
    exact ⟨es, by rw [resendCandidates_of_own none', free, if_neg Bool.false_ne_true, is]⟩

theorem offerResends_of_head {e : Entry} {es : List Entry}
    (ends : offer l (packetBits (resendPacket e s).2.length) (takeResend l e) s = .ended w) :
    offerResends l (e :: es) s = .ended w := by
  unfold offerResends
  rw [ends]
  rfl

/-- No entry is a candidate for a repair (R158, R159). -/
def NoRepair (l : Fin 6) (s : State) : Prop := (s.path l).repairShare ≤ (s.path l).repair ∨
  (foreignQueue l s = [] ∧ (resendQueue s = [] ∨ isAlone l s = false))

theorem repairStep_of_none (none' : NoRepair l s) : repairStep l s = .goOn s := by
  unfold repairStep
  by_cases share : (s.path l).repair < (s.path l).repairShare
  · obtain ⟨own, rest⟩ := none'.resolve_left (Nat.not_le.mpr share)
    have empty : resendCandidates l true s = [] := by
      rw [resendCandidates_of_own own]
      rcases rest with queue | together
      · rw [queue, ite_self]
      · rw [together]
        rfl
    rw [if_pos share, empty]
    rfl
  · exact if_neg share

theorem repairStep_of_oldest {e : Entry} (share : (s.path l).repair < (s.path l).repairShare) (oldest : OldestQueued l e s)
    (alone : foreignQueue l s = [] → isAlone l s = true)
    (ends : offer l (packetBits (resendPacket e s).2.length) (takeResend l e) s = .ended w) :
    repairStep l s = .ended w := by
  obtain ⟨es, is⟩ := resendCandidates_of_oldest (strict := true) oldest fun _ => alone
  unfold repairStep
  rw [if_pos share, is]
  exact offerResends_of_head ends

theorem resendStep_of_oldest {e : Entry} (oldest : OldestQueued l e s)
    (ends : offer l (packetBits (resendPacket e s).2.length) (takeResend l e) s = .ended w) :
    resendStep l s = .ended w := by
  obtain ⟨es, is⟩ := resendCandidates_of_oldest (strict := false) oldest nofun
  unfold resendStep
  rw [is]
  exact offerResends_of_head ends

theorem resendStep_of_none (none' : resendQueue s = []) : resendStep l s = .goOn s := by
  have own : foreignQueue l s = [] := by rw [foreignQueue, none']; rfl
  unfold resendStep
  rw [resendCandidates_of_own own, none', ite_self]
  rfl

/-- None of the live data that waits is stale (R155). -/
def FreshLives (s : State) : Prop :=
  ∀ q run off u, (s.live q).cursor = some (run, off) → unitAt q run off s = some u → isStale s u.picture = false

theorem staleCheck_of_fresh (fresh : FreshLives s) (p : Fin 4) : staleCheck p s = s := by
  unfold staleCheck
  split
  · rfl
  next run off cursor =>
    split
    · rfl
    next u held =>
      rw [fresh p run off u cursor held, Bool.and_false]
      rfl

theorem liveTurn_of_none (fresh : FreshLives s) {p : Fin 4} (none' : liveLength p s = 0) : liveTurn l p s = .goOn s := by
  unfold liveTurn
  dsimp only
  rw [staleCheck_of_fresh fresh, if_pos none']

theorem liveTurn_of_some (fresh : FreshLives s) {p : Fin 4} (some' : liveLength p s ≠ 0) :
    liveTurn l p s = offer l (packetBits (liveLength p s)) (takeLive l p (liveLength p s)) s := by
  unfold liveTurn
  dsimp only
  rw [staleCheck_of_fresh fresh, if_neg some']

theorem liveStep_of_none (fresh : FreshLives s) (none' : ∀ q, liveLength q s = 0) : liveStep l s = .goOn s := by
  have turn (q : Fin 4) : liveTurn l q s = .goOn s := liveTurn_of_none fresh (none' q)
  unfold liveStep
  dsimp only
  rw [turn]
  show (((liveTurn l _ s).next _).next _) = _
  rw [turn]
  show ((liveTurn l _ s).next _) = _
  rw [turn]
  exact turn _

/-- The place of program `q` in the turn after the program last served (R160). -/
def turnOf (s : State) (q : Fin 4) : Nat := (q - (s.sched.lastServed + 1)).1

theorem turn_cases (k p : Fin 4) : (p = k + 1 ∨ p = k + 2 ∨ p = k + 3 ∨ p = k) := by
  revert k p
  decide

theorem turn_order (k : Fin 4) : (k + 1 - (k + 1)).1 = 0 ∧ (k + 2 - (k + 1)).1 = 1 ∧ (k + 3 - (k + 1)).1 = 2 ∧
    (k - (k + 1)).1 = 3 := by
  revert k
  decide

theorem liveStep_of_turn {p : Fin 4} (fresh : FreshLives s) (before : ∀ q, turnOf s q < turnOf s p → liveLength q s = 0)
    (ends : liveTurn l p s = .ended w) : liveStep l s = .ended w := by
  have passes {q : Fin 4} (early : turnOf s q < turnOf s p) : liveTurn l q s = .goOn s :=
    liveTurn_of_none fresh (before q early)
  unfold turnOf at passes
  unfold liveStep
  dsimp only
  generalize s.sched.lastServed = k at passes ⊢
  obtain ⟨first, second, third, fourth⟩ := turn_order k
  rcases turn_cases k p with is | is | is | is <;> rw [is] at passes ends
  · rw [ends]
    rfl
  · rw [passes (q := k + 1) (by omega)]
    show (((liveTurn l _ s).next _).next _) = _
    rw [ends]
    rfl
  · rw [passes (q := k + 1) (by omega)]
    show (((liveTurn l _ s).next _).next _) = _
    rw [passes (q := k + 2) (by omega)]
    show ((liveTurn l _ s).next _) = _
    rw [ends]
    rfl
  · rw [passes (q := k + 1) (by omega)]
    show (((liveTurn l _ s).next _).next _) = _
    rw [passes (q := k + 2) (by omega)]
    show ((liveTurn l _ s).next _) = _
    rw [passes (q := k + 3) (by omega)]
    exact ends

theorem clipStep_of_none (none' : s.sched.clipCursor = none) : clipStep l s = .goOn s := by
  unfold clipStep
  rw [none']
  exact ite_self _

/-- The length of the next packet of the clip cursor (R162). -/
def clipLength (k : ClipCursor) : Nat := min 1280 (k.out - k.next)

section
variable {k : ClipCursor} (room : (reliableEntries s).length < 2048) (cursor : s.sched.clipCursor = some k)
  (left : k.next < k.out) (fits : packetBits (clipLength k) ≤ creditCap (s.path l))
include room cursor left fits

theorem clipStep_of_cursor : clipStep l s = if s.sched.bucket < packetBits (clipLength k) then .ended s
    else offer l (packetBits (clipLength k)) (takeClip l k (clipLength k)) s := by
  have notFull : ¬Config.maxReliableEntries ≤ (reliableEntries s).length := Nat.not_le.mpr room
  have some' : ¬clipLength k = 0 := by
    unfold clipLength
    omega
  unfold clipStep
  rw [if_neg notFull, cursor]
  show (if clipLength k = 0 then _ else if creditCap (s.path l) < packetBits (clipLength k) then _ else _) = _
  rw [if_neg some', if_neg (Nat.not_lt.mpr fits)]
  rfl

end

/-! ### The walk (R157, R158) -/

theorem walk_of_label (ends : labelStep l s = .ended w) : walk l s = w := by
  unfold walk
  rw [ends]
  rfl

theorem walk_of_repair (label : NoLabel s) (ends : repairStep l s = .ended w) : walk l s = w := by
  unfold walk
  rw [labelStep_of_none label]
  show (((Walk.next (repairStep l s) _).next _).next _).state = w
  rw [ends]
  rfl

theorem walk_of_live (label : NoLabel s) (repair : NoRepair l s) (ends : liveStep l s = .ended w) : walk l s = w := by
  unfold walk
  rw [labelStep_of_none label]
  show (((Walk.next (repairStep l s) _).next _).next _).state = w
  rw [repairStep_of_none repair]
  show ((Walk.next (liveStep l s) _).next _).state = w
  rw [ends]
  rfl

theorem walk_of_resend (label : NoLabel s) (repair : NoRepair l s) (live : liveStep l s = .goOn s)
    (ends : resendStep l s = .ended w) : walk l s = w := by
  unfold walk
  rw [labelStep_of_none label]
  show (((Walk.next (repairStep l s) _).next _).next _).state = w
  rw [repairStep_of_none repair]
  show ((Walk.next (liveStep l s) _).next _).state = w
  rw [live]
  show (Walk.next (resendStep l s) _).state = w
  rw [ends]
  rfl

theorem walk_of_clip (label : NoLabel s) (queue : resendQueue s = []) (live : liveStep l s = .goOn s)
    (ends : (clipStep l s).state = w) : walk l s = w := by
  have own : foreignQueue l s = [] := by rw [foreignQueue, queue]; rfl
  unfold walk
  rw [labelStep_of_none label]
  show (((Walk.next (repairStep l s) _).next _).next _).state = w
  rw [repairStep_of_none (.inr ⟨own, .inl queue⟩)]
  show ((Walk.next (liveStep l s) _).next _).state = w
  rw [live]
  show (Walk.next (resendStep l s) _).state = w
  rw [resendStep_of_none queue]
  exact ends

end

/-! ### What a packet leaves of its path (R134, R149, R214) -/

/-- A path that has sent a packet with this header. -/
def pathSent (l : Fin 6) (h : Header) (payload : List Byte) (x : Path) : Path :=
  { x with
    credit := x.credit - (28 + payload.length) * 8, sequence := (x.sequence + 1) % 2 ^ 16, repair := (x.repair + 1) % 2 ^ 8
    bitsSent := (x.bitsSent + (28 + payload.length) * 8) % 2 ^ 48, packetsSent := min (x.packetsSent + 1) 65535
    port := some (ethernetFrame l.1 (packetBytes h payload)) }

/-- A header with what the hand-over adds. -/
def addressed (l : Fin 6) (h : Header) (s : State) : Header :=
  { h with path := l.1, sequence := ((s.path l).sequence + 1) % 2 ^ 16, send := s.sched.nextSend }

section
variable (l : Fin 6) (s : State)

theorem handOver_path (h : Header) (payload : List Byte) :
    (handOver l h payload s).path l = pathSent l (addressed l h s) payload (s.path l) := by
  have steps : (s.modPath l stepSequence).path l = stepSequence (s.path l) := modified_path ..
  unfold handOver
  dsimp only
  rw [path_of_same (modSched_overfull _ _) (by decide), modified_path, steps]
  rfl

theorem takeLabel_path (c : Nat) (k : Clip) : (takeLabel l c k s).path l =
    pathSent l (addressed l (labelHeader c k false) s) (labelBody c k) (s.path l) := by
  unfold takeLabel
  dsimp only
  rw [path_of_same (labelSent_inner c k.revision _) (by decide), path_of_same (enterWindow_inner _ _) (by decide)]
  exact handOver_path l s _ _

theorem takeResend_path (e : Entry) : (takeResend l e s).path l =
    pathSent l (addressed l (resendPacket e s).1 s) (resendPacket e s).2 (s.path l) := by
  unfold takeResend
  dsimp only
  rw [path_of_same (modSched_overfull _ _) (by decide), path_of_same (reportLabel_inner _ _) (by decide),
    path_of_same (removeEntries_inner _ _) (by decide), path_of_same (enterWindow_inner _ _) (by decide)]
  exact handOver_path l s _ _

/-- The header of a packet of the clip cursor. -/
def clipHeader (k : ClipCursor) (len : Nat) (s : State) : Header :=
  { cls := classClip, program := k.program, clip := k.clip, run := k.run, path := 0,
    flags := if k.next + len = k.out then flagLastOfClip else 0, revision := 0, sequence := 0, send := 0,
    reference := k.next, picture := pictureAt (idx4 k.program) k.run k.next s }

theorem takeClip_path (k : ClipCursor) (len : Nat) : (takeClip l k len s).path l =
    pathSent l (addressed l (clipHeader k len s) s) (streamBytes (idx4 k.program) k.run k.next len s) (s.path l) := by
  unfold takeClip
  dsimp only
  rw [path_of_same (modClip_inner _ _ _) (by decide), path_of_same (modSched_overfull _ _) (by decide),
    path_of_same (enterWindow_inner _ _) (by decide)]
  exact handOver_path l s _ _

theorem takeLive_path {p : Fin 4} {run off : Nat} (cursor : (s.live p).cursor = some (run, off)) (len : Nat) :
    (takeLive l p len s).path l =
      pathSent l (addressed l (liveHeader p run off s) s) (streamBytes p run off len s) (s.path l) := by
  have served (run next : Nat) (u : State) : (liveServed p run next u).path l = u.path l :=
    path_of_same (moveCursor_inner p run next u) (by decide) l
  rw [takeLive_of_cursor cursor, served, path_of_same (enterWindow_inner _ _) (by decide),
    path_of_same (makeRoom_inner _) (by decide)]
  exact handOver_path l s _ _

theorem makeRoom_of_room {s : State} (room : (liveEntries s).length < 6144) : makeRoom s = s :=
  if_neg (Nat.not_le.mpr room)

/-- The scheduler after a live packet where the window has room. -/
theorem takeLive_sched_of_room {l : Fin 6} {s : State} {p : Fin 4} {run off : Nat}
    (cursor : (s.live p).cursor = some (run, off)) (len : Nat) (room : (liveEntries s).length < 6144) :
    (takeLive l p len s).sched =
      { s.sched with
        nextSend := incWrap32 s.sched.nextSend, lastServed := p
        window := s.sched.window ++ [liveEntry l p run off len s] } := by
  have sched := takeLive_sched cursor l len
  dsimp only at sched
  have same : (liveEntries (handOver l (liveHeader p run off s) (streamBytes p run off len s) s)).length =
      (liveEntries s).length := rfl
  rw [makeRoom_of_room (by rw [same]; exact room), handOver_sched] at sched
  exact sched

theorem moveCursor_live (p : Fin 4) (run next : Nat) (u : State) :
    (moveCursor p run next u).live p = { u.live p with cursor := some (run, next) } := by
  have cleared := (clearPassed_inner p (u.modLive p fun v => { v with cursor := some (run, next) })).same .lives (by decide)
  exact (congrArg (fun v => v.get p) cleared).trans ((modLive_live u p p _).trans (if_pos rfl))

theorem liveServed_live (p : Fin 4) (run next : Nat) (u : State) : (liveServed p run next u).live p =
    { u.live p with cursor := some (run, next), packets := ((u.live p).packets + 1) % 2 ^ 32 } := by
  have counts := modLive_live (moveCursor p run next u) p p fun v => { v with packets := incWrap32 v.packets }
  rw [if_pos rfl, moveCursor_live] at counts
  exact counts

theorem takeLive_live {p : Fin 4} {run off : Nat} {s : State} (cursor : (s.live p).cursor = some (run, off)) (len : Nat) :
    (takeLive l p len s).live p =
      { s.live p with cursor := some (run, off + len), packets := ((s.live p).packets + 1) % 2 ^ 32 } := by
  have before (h : Header) (b : List Byte) (e : Entry) : (enterWindow e (makeRoom (handOver l h b s))).live p = s.live p :=
    congrArg (fun v => v.get p) (((enterWindow_inner e _).same .lives (by decide)).trans
      (((makeRoom_inner _).same .lives (by decide)).trans ((handOver_inner l h b s).same .lives (by decide))))
  rw [takeLive_of_cursor cursor, liveServed_live, before]

end

end Sys2Proof.Machine
end

section
/-! PROOFS. FRAME_SENT and PACING_TICK as events that serve one path, and what they leave where that path walks the class
order (R133, R144, R157, R163, R169). -/

namespace Sys2Proof.Machine

set_option Elab.async false

/-! ### The event's start -/

/-- A state in which paths may ask; the numbers abandoned and the entries expired are no part of what is sent. -/
def askedFrom (v : Vector Bool 6) (a : List Nat) (b : Nat) (s : State) : State :=
  { s with sched := { s.sched with asking := v, abandoned := a, byAge := b } }

/-- A command that brings about the state `s`, lets path `l` ask, and settles. -/
def ServesAt (l : Fin 6) (c : Instr) (s0 s : State) : Prop :=
  ∃ a b v, v.get l = true ∧ exec c s0 = .next (settle (askedFrom v a b s))

theorem servesAt_of_frame {l : Fin 6} {s : State} (busy : (s.path l).port ≠ none) :
    ServesAt l (.frameSent l) s (s.modPath l fun p => { p with port := none }) := by
  refine ⟨s.sched.abandoned, s.sched.byAge, Vec.put s.sched.asking l true, ?_, ?_⟩
  · rw [Vec_get_put, if_pos rfl]
  · rw [exec_frameSent]
    have sends : frameSent l s = settle (letAskPath l (s.modPath l fun p => { p with port := none })) :=
      if_neg (mt Option.isNone_iff_eq_none.mp busy)
    rw [sends]
    rfl

theorem expireEntries_of_none {s : State}
    (young : ∀ e ∈ s.sched.window, e.isLive = true → age s e < s.sched.deadlineInForce) :
    expireEntries (fun _ => true) s = { s with sched := { s.sched with
      abandoned := (expireEntries (fun _ => true) s).sched.abandoned
      byAge := (expireEntries (fun _ => true) s).sched.byAge } } := by
  have none' : s.sched.window.filter (expires (fun _ => true) s) = [] := by
    refine List.filter_eq_nil_iff.mpr fun e mem => ?_
    unfold expires
    cases live : e.isLive with
    | false => simp
    | true => simp [young e mem live]
  have all : (s.sched.window.filter fun e => !expires (fun _ => true) s e) = s.sched.window :=
    List.filter_eq_self.mpr fun e mem => by
      have not := List.filter_eq_nil_iff.mp none' e mem
      rw [Bool.eq_false_iff.mpr not]
      rfl
  have chains : (expireEntries (fun _ => true) s).chains = s.chains := by
    show (removeEntries (expires (fun _ => true) s) s).chains = _
    unfold removeEntries
    rw [none']
    rfl
  have frame := expireEntries_frame (fun _ => true) s
  rw [chains, all] at frame
  rw [frame]

theorem silences_of_quiet {s : State} (quiet : ∀ k, (s.path k).silence < s.uplink.timeoutInForce) :
    eachPath silenceDue s = s :=
  eachPath_holds (P := fun t => t = s) (fun k t same => by subst same; exact silenceDue_of_quiet (quiet k)) rfl

/-- The expiries of a pacing tick in which no timer expires. -/
theorem expiries_of_quiet (ageFirst : Bool) {s : State} (quiet : ∀ k, (s.path k).silence < s.uplink.timeoutInForce)
    (young : ∀ e ∈ s.sched.window, e.isLive = true → age s e < s.sched.deadlineInForce) :
    ∃ a b, expiries ageFirst s = { s with sched := { s.sched with abandoned := a, byAge := b } } := by
  refine ⟨(expireEntries (fun _ => true) s).sched.abandoned, (expireEntries (fun _ => true) s).sched.byAge, ?_⟩
  rw [← expireEntries_of_none young]
  cases ageFirst with
  | true =>
    rw [expiries_ageFirst]
    refine silences_of_quiet fun k => ?_
    rw [expireEntries_frame]
    exact quiet k
  | false => rw [expiries_silenceFirst, silences_of_quiet quiet]

theorem servesAt_of_tick {l : Fin 6} {s0 s : State} (settled : s0.tb.allocDue = false)
    (is : s = { s0 with
      tb := timebasePacing s0.tb
      paths := Vec.tab fun k => paced (s0.path k)
      uplink := bringTimeout s0.uplink
      sched := bringDeadline (refillBucket s0.alloc.clipRate s0.sched) })
    (quiet : ∀ k, (s.path k).silence < s.uplink.timeoutInForce)
    (young : ∀ e ∈ s.sched.window, e.isLive = true → age s e < s.sched.deadlineInForce) : ServesAt l .pacingTick s0 s := by
  have refilled : pacingRefilled s0 = s := (pacingRefilled_of_settled settled).trans is.symm
  obtain ⟨a, b, expired⟩ := expiries_of_quiet (Config.ageBeforeSilence (incWrap32 s0.tb.pacing)) quiet young
  refine ⟨a, b, Vector.replicate 6 true, ?_, ?_⟩
  · exact Vec_get_tab (fun _ => true) l
  · have taken : exec .pacingTick s0 = .next (pacingTick s0) := rfl
    rw [taken, pacingTick_eq, refilled, expired]
    rfl

/-! ### The walk of the one path that is served -/

/-- The state that the walk of a path begins in. -/
def walkFrom (a : List Nat) (b : Nat) (s : State) : State := askedFrom (Vector.replicate 6 false) a b s

/-- No clip completes its shipping, and none may start. -/
structure ClipsWait (s : State) : Prop where
  notStart : shipCanStart s = false
  cursor : ∀ k, s.sched.clipCursor = some k → k.next ≠ k.out

theorem ClipsWait.ships {s : State} (waits : ClipsWait s) : ShipsWait s := by
  refine ⟨?_, waits.notStart⟩
  unfold shipDone
  split
  next k cursor => simp [waits.cursor k cursor]
  · rfl

/-- The one path that is served carries packets, and nothing but its packet changes the part. -/
structure OneWalks (l : Fin 6) (s : State) : Prop where
  others : OthersBusy l s
  idles : Idles l s
  drains : DrainsWait s
  clips : ClipsWait s

section
variable {l : Fin 6} {c : Instr} {s0 s w : State}

theorem notProbing_of_carries {x : Path} (carrying : carries x = true) : x.st ≠ .probing := by
  rcases (carries_iff x).mp carrying with st | st <;> rw [st] <;> exact nofun

/-- The event ends when the path has walked the class order. -/
theorem OneWalks.settles (one : OneWalks l s) {v : Vector Bool 6} {a : List Nat} {b : Nat} (asks : v.get l = true)
    (walks : walk l (walkFrom a b s) = w) (carrying : carries (w.path l) = true) (drains : DrainsWait w) (ships : ShipsWait w)
    (unasked' : w.sched.asking = Vector.replicate 6 false) : settle (askedFrom v a b s) = freeZero w := by
  have clips : ClipsWait (askedFrom v a b s) := ⟨one.clips.notStart, one.clips.cursor⟩
  refine settle_of_serve (one.drains.of_lives rfl rfl rfl) clips.ships ?_ drains ships unasked'
  have served := servePaths_of_asking (s := askedFrom v a b s) one.others asks one.idles
  have start : unasked (askedFrom v a b s) = walkFrom a b s := rfl
  rw [served, start, walks, sendProbe_of_notProbing (notProbing_of_carries carrying)]

/-- A path that finds nothing that its credit pays for sends nothing. -/
def KeepsAll (l : Fin 6) (c : Instr) (s0 s : State) : Prop :=
  ∃ t, exec c s0 = .next t ∧ t.path l = s.path l ∧ t.sched.window = s.sched.window ∧ t.sched.nextSend = s.sched.nextSend

theorem OneWalks.keeps (one : OneWalks l s) (event : ServesAt l c s0 s)
    (walks : ∀ a b, walk l (walkFrom a b s) = walkFrom a b s) : KeepsAll l c s0 s := by
  obtain ⟨a, b, v, asks, runs⟩ := event
  have clips : ClipsWait (walkFrom a b s) := ⟨one.clips.notStart, one.clips.cursor⟩
  rw [one.settles asks (walks a b) one.idles.1 (one.drains.of_lives rfl rfl rfl) clips.ships rfl] at runs
  refine ⟨_, runs, ?_, ?_, ?_⟩
  · exact path_of_same (freeZero_inner _) (by decide) l
  · rw [(freeZero_inner _).same .sched (by decide)]
    rfl
  · rw [(freeZero_inner _).same .sched (by decide)]
    rfl

/-- A path sends the packet that its walk takes. -/
theorem OneWalks.sends (one : OneWalks l s) (event : ServesAt l c s0 s) {h : Header} {payload : List Byte}
    {taken : State → State} {follows : State → Prop}
    (walks : ∀ a b, walk l (walkFrom a b s) = taken (walkFrom a b s))
    (path : ∀ a b, (taken (walkFrom a b s)).path l = pathSent l h payload (s.path l))
    (sched : ∀ a b, (taken (walkFrom a b s)).sched.nextSend = (s.sched.nextSend + 1) % 2 ^ 32 ∧
      (taken (walkFrom a b s)).sched.asking = Vector.replicate 6 false)
    (drains : ∀ a b, DrainsWait (taken (walkFrom a b s))) (ships : ∀ a b, ShipsWait (taken (walkFrom a b s)))
    (ends : ∀ a b t, t.sched = (taken (walkFrom a b s)).sched → t.lives = (taken (walkFrom a b s)).lives → follows t) :
    ∃ t, exec c s0 = .next t ∧ (t.path l = pathSent l h payload (s.path l) ∧
      t.sched.nextSend = (s.sched.nextSend + 1) % 2 ^ 32) ∧ follows t := by
  obtain ⟨a, b, v, asks, runs⟩ := event
  have carrying : carries ((taken (walkFrom a b s)).path l) = true := by
    rw [path]
    exact one.idles.1
  rw [one.settles asks (walks a b) carrying (drains a b) (ships a b) (sched a b).2] at runs
  have frees := freeZero_inner (taken (walkFrom a b s))
  refine ⟨_, runs, ⟨(path_of_same frees (by decide) l).trans (path a b), ?_⟩, ?_⟩
  · exact (congrArg Scheduler.nextSend (frees.same .sched (by decide))).trans (sched a b).1
  · exact ends a b _ (frees.same .sched (by decide)) (frees.same .lives (by decide))

end

end Sys2Proof.Machine
end

section
/-! PROOFS. The packet that the one path that is served takes: a resend, live data, or bytes of a clip (R159 to R163,
R167). -/

namespace Sys2Proof.Machine

set_option Elab.async false

/-! ### Clips that stand -/

/-- The ship queue and the states of the clips stand. -/
structure StatesStand (l m : ClipLog) : Prop where
  queue : m.shipQueue = l.shipQueue
  states : ∀ c, (m.recs.get c).map Clip.st = (l.recs.get c).map Clip.st

theorem StatesStand.of_eq {l m : ClipLog} (same : m = l) : StatesStand l m := by
  rw [same]
  exact ⟨rfl, fun _ => rfl⟩

theorem StatesStand.shipCanStart {s t : State} (stands : StatesStand s.clips t.clips) :
    shipCanStart t = shipCanStart s := by
  have ships : clipPasses (fun k => k.st == .shipping) t = clipPasses (fun k => k.st == .shipping) s := by
    funext c
    have same := congrArg (fun o : Option ClipState => o.any fun st => st == .shipping) (stands.states c)
    simpa [Option.any_map, clipPasses, Function.comp_def] using same
  unfold Machine.shipCanStart shippingClip
  rw [clipIds_eq, clipIds_eq, ships, stands.queue]

theorem modClip_states (c : Nat) {f : Clip → Clip} (keeps : ∀ k, (f k).st = k.st) (s : State) :
    StatesStand s.clips (modClip c f s).clips := by
  refine ⟨rfl, fun d => ?_⟩
  rw [modClip_recs]
  split
  · cases s.clips.recs.get d with
    | none => rfl
    | some k => exact congrArg some (keeps k)
  · rfl

theorem labelSent_states (c r : Nat) (s : State) : StatesStand s.clips (labelSent c r s).clips :=
  modClip_states c (fun k => by split <;> rfl) s

theorem reportLabel_states (e : Entry) (s : State) : StatesStand s.clips (reportLabel e s).clips := by
  unfold reportLabel
  split
  · exact labelSent_states ..
  · exact .of_eq rfl
  · exact .of_eq rfl

theorem StatesStand.of_clips {l m n : ClipLog} (stands : StatesStand l m) (same : l = n) : StatesStand n m := same ▸ stands

theorem takeResend_states (l : Fin 6) (e : Entry) (s : State) : StatesStand s.clips (takeResend l e s).clips := by
  unfold takeResend
  dsimp only
  refine (reportLabel_states _ _).of_clips ?_
  rw [(removeEntries_inner _ _).same .clips (by decide), (enterWindow_inner _ _).same .clips (by decide)]
  exact (handOver_inner l _ _ s).same .clips (by decide)

theorem takeClip_states (l : Fin 6) (k : ClipCursor) (len : Nat) (s : State) :
    StatesStand s.clips (takeClip l k len s).clips := by
  unfold takeClip
  dsimp only
  refine (modClip_states k.clip (f := fun c => { c with shipCursor := some (k.next + len) }) (fun _ => rfl) _).of_clips ?_
  rw [modSched_clips, (enterWindow_inner _ _).same .clips (by decide)]
  exact (handOver_inner l _ _ s).same .clips (by decide)

/-! ### A candidate of the one path that is served -/

/-- What becomes of a candidate whose bits the cap covers: it is taken where the credit pays for it, and else waited for. -/
def OffersOne (l : Fin 6) (c : Instr) (s0 s : State) (h : Header) (payload : List Byte) (follows : State → Prop) : Prop :=
  (packetBits payload.length ≤ creditCap (s.path l) → packetBits payload.length ≤ (s.path l).credit →
    ∃ t, exec c s0 = .next t ∧ (t.path l = pathSent l (addressed l h s) payload (s.path l) ∧
      t.sched.nextSend = (s.sched.nextSend + 1) % 2 ^ 32) ∧ follows t) ∧
  (packetBits payload.length ≤ creditCap (s.path l) → (s.path l).credit < packetBits payload.length → KeepsAll l c s0 s)

section
variable {l : Fin 6} {c : Instr} {s0 s : State}

/-- The operation that takes a packet. -/
structure TakesOne (l : Fin 6) (s : State) (h : Header) (payload : List Byte) (taken : State → State)
    (follows : State → Prop) : Prop where
  path : ∀ a b, (taken (walkFrom a b s)).path l = pathSent l (addressed l h s) payload (s.path l)
  sched : ∀ a b, (taken (walkFrom a b s)).sched.nextSend = (s.sched.nextSend + 1) % 2 ^ 32 ∧
    (taken (walkFrom a b s)).sched.asking = Vector.replicate 6 false
  drains : ∀ a b, DrainsWait (taken (walkFrom a b s))
  ships : ∀ a b, ShipsWait (taken (walkFrom a b s))
  ends : ∀ a b t, t.sched = (taken (walkFrom a b s)).sched → t.lives = (taken (walkFrom a b s)).lives → follows t

theorem OneWalks.offers (one : OneWalks l s) (event : ServesAt l c s0 s) {h : Header} {payload : List Byte}
    {taken : State → State} {follows : State → Prop} (takes : TakesOne l s h payload taken follows)
    (walks : packetBits payload.length ≤ creditCap (s.path l) → ∀ a b w,
      offer l (packetBits payload.length) taken (walkFrom a b s) = .ended w → walk l (walkFrom a b s) = w) :
    OffersOne l c s0 s h payload follows := by
  refine ⟨fun fits pays => ?_, fun fits short => ?_⟩
  · exact one.sends event (fun a b => walks fits a b _ (offer_of_take fits pays)) takes.path takes.sched takes.drains
      takes.ships takes.ends
  · exact one.keeps event fun a b => walks fits a b _ (offer_of_wait fits short)

/-! ### A resend (R159, R167) -/

/-- What a resend of an entry leaves of the window. -/
def ResentIn (l : Fin 6) (e : Entry) (s t : State) : Prop :=
  t.sched.window = (s.sched.window.filter fun y => y.send != e.send) ++ [resentEntry l e s] ∧
    t.sched.resent = (s.sched.resent + 1) % 2 ^ 32

theorem takesResend (one : OneWalks l s) {e : Entry} (apart : e.send ≠ s.sched.nextSend) :
    TakesOne l s (resendPacket e s).1 (resendPacket e s).2 (takeResend l e) (ResentIn l e s) := by
  have packet (a : List Nat) (b : Nat) : resendPacket e (walkFrom a b s) = resendPacket e s := rfl
  refine ⟨fun a b => ?_, fun a b => ?_, fun a b => ?_, fun a b => ?_, fun a b t sched _ => ?_⟩
  · rw [takeResend_path, packet]
    rfl
  · rw [takeResend_sched]
    exact ⟨rfl, rfl⟩
  · have parts := takeResend_parts l e (walkFrom a b s)
    exact one.drains.of_lives (parts.same .progs (by decide)) (parts.same .tb (by decide)) (parts.same .lives (by decide))
  · refine ClipsWait.ships ⟨?_, fun k cursor => ?_⟩
    · exact ((takeResend_states l e (walkFrom a b s)).shipCanStart).trans one.clips.notStart
    · rw [takeResend_sched] at cursor
      exact one.clips.cursor k cursor
  · have stays : ((resentEntry l e s).send == e.send) = false := beq_eq_false_iff_ne.mpr (Ne.symm apart)
    have window : (s.sched.window ++ [resentEntry l e s]).filter (fun x => !(x.send == e.send)) =
        (s.sched.window.filter fun y => y.send != e.send) ++ [resentEntry l e s] := by
      rw [List.filter_append]
      refine congrArg _ ?_
      rw [List.filter_cons, if_pos (by rw [stays]; rfl)]
      rfl
    rw [takeResend_sched] at sched
    exact ⟨(congrArg Scheduler.window sched).trans window, congrArg Scheduler.resent sched⟩

/-- The oldest queued entry is the candidate of a repair, or of a resend where no repair and no live data is. -/
theorem OneWalks.offersResend (one : OneWalks l s) (event : ServesAt l c s0 s) {e : Entry} (apart : e.send ≠ s.sched.nextSend)
    (label : NoLabel s) (oldest : OldestQueued l e s)
    (turn : ((s.path l).repair < (s.path l).repairShare ∧ (foreignQueue l s = [] → isAlone l s = true)) ∨
      (NoRepair l s ∧ FreshLives s ∧ ∀ q, liveLength q s = 0)) :
    OffersOne l c s0 s (resendPacket e s).1 (resendPacket e s).2 (ResentIn l e s) := by
  refine one.offers event (takesResend one apart) fun _ a b w ends => ?_
  rcases turn with ⟨share, alone⟩ | ⟨repair, fresh, lives⟩
  · exact walk_of_repair (s := walkFrom a b s) label (repairStep_of_oldest share oldest alone ends)
  · exact walk_of_resend (s := walkFrom a b s) label repair (liveStep_of_none fresh lives) (resendStep_of_oldest oldest ends)

/-! ### Live data (R153, R154, R160) -/

theorem streamBytes_length (p : Fin 4) (run off len : Nat) (s : State) : (streamBytes p run off len s).length = len := by
  simp [streamBytes]

/-- What a live packet leaves of the window, the turn and its program's cursor. -/
def LiveSentIn (l : Fin 6) (p : Fin 4) (run off len : Nat) (s t : State) : Prop :=
  t.sched.lastServed = p ∧ t.sched.window = s.sched.window ++ [liveEntry l p run off len s] ∧
    t.live p = { s.live p with cursor := some (run, off + len), packets := ((s.live p).packets + 1) % 2 ^ 32 }

theorem takesLive (one : OneWalks l s) {p : Fin 4} {run off len : Nat} (cursor : (s.live p).cursor = some (run, off))
    (goesOn : (s.prog p).st = .draining → (s.prog p).writingEnded = true → off + len ≠ (s.prog p).streamOffset)
    (room : (liveEntries s).length < 6144) :
    TakesOne l s (liveHeader p run off s) (streamBytes p run off len s) (takeLive l p len) (LiveSentIn l p run off len s) := by
  have sched (a : List Nat) (b : Nat) := takeLive_sched_of_room (l := l) (s := walkFrom a b s) (p := p) cursor len room
  have live (a : List Nat) (b : Nat) := takeLive_live l (s := walkFrom a b s) (p := p) cursor len
  refine ⟨fun a b => ?_, fun a b => ?_, fun a b => ?_, fun a b => ?_, fun a b t sched' lives => ?_⟩
  · exact takeLive_path l (walkFrom a b s) cursor len
  · rw [sched]
    exact ⟨rfl, rfl⟩
  · have inner := takeLive_inner l p len (walkFrom a b s)
    refine one.drains.of_same (inner.same .progs (by decide)) (inner.same .tb (by decide)) fun q drains ended => ?_
    by_cases own : p = q
    · subst own
      rw [live]
      intro same
      have next : off + len = (s.prog p).streamOffset := congrArg Prod.snd (Option.some.inj same)
      exact goesOn drains ended next
    · have waits := one.drains q drains
      rw [ended, if_pos rfl] at waits
      rw [takeLive_live_ne own]
      exact waits
  · refine ClipsWait.ships ⟨?_, fun k cursor' => ?_⟩
    · exact ((StatesStand.of_eq (takeLive_clips l p len (walkFrom a b s))).shipCanStart).trans one.clips.notStart
    · rw [sched] at cursor'
      exact one.clips.cursor k cursor'
  · have liveT : t.live p = (takeLive l p len (walkFrom a b s)).live p := congrArg (fun v => v.get p) lives
    rw [sched] at sched'
    exact ⟨congrArg Scheduler.lastServed sched', congrArg Scheduler.window sched', liveT.trans (live a b)⟩

theorem OneWalks.offersLive (one : OneWalks l s) (event : ServesAt l c s0 s) {p : Fin 4} {run off : Nat}
    (label : NoLabel s) (repair : NoRepair l s) (fresh : FreshLives s)
    (before : ∀ q, turnOf s q < turnOf s p → liveLength q s = 0) (some' : liveLength p s ≠ 0)
    (cursor : (s.live p).cursor = some (run, off))
    (goesOn : (s.prog p).st = .draining → (s.prog p).writingEnded = true →
      off + liveLength p s ≠ (s.prog p).streamOffset) (room : (liveEntries s).length < 6144) :
    OffersOne l c s0 s (liveHeader p run off s) (streamBytes p run off (liveLength p s) s)
      (LiveSentIn l p run off (liveLength p s) s) := by
  refine one.offers event (takesLive one cursor goesOn room) fun _ a b w ends => ?_
  rw [streamBytes_length] at ends
  have own : liveLength p (walkFrom a b s) = liveLength p s := rfl
  refine walk_of_live (s := walkFrom a b s) label repair (liveStep_of_turn fresh before ?_)
  rw [liveTurn_of_some (s := walkFrom a b s) fresh some', own]
  exact ends

/-! ### Bytes of a clip (R162, R163) -/

/-- What a packet of the clip cursor leaves of the window, the cursor and the bucket. -/
def ClipSentIn (l : Fin 6) (k : ClipCursor) (s t : State) : Prop :=
  t.sched.clipCursor = some { k with next := k.next + clipLength k } ∧
    t.sched.bucket = s.sched.bucket - packetBits (clipLength k) ∧
    t.sched.window = s.sched.window ++ [clipEntry l k (clipLength k) s]

theorem takesClip (one : OneWalks l s) (k : ClipCursor) :
    TakesOne l s (clipHeader k (clipLength k) s) (streamBytes (idx4 k.program) k.run k.next (clipLength k) s)
      (takeClip l k (clipLength k)) (ClipSentIn l k s) := by
  refine ⟨fun a b => takeClip_path l (walkFrom a b s) k _, fun a b => ?_, fun a b => ?_, fun a b => ?_,
    fun a b t sched _ => ?_⟩
  · rw [takeClip_sched]
    exact ⟨rfl, rfl⟩
  · have parts := takeClip_parts l k (clipLength k) (walkFrom a b s)
    exact one.drains.of_lives (parts.same .progs (by decide)) (parts.same .tb (by decide)) (parts.same .lives (by decide))
  · refine ⟨?_, ((takeClip_states l k (clipLength k) (walkFrom a b s)).shipCanStart).trans one.clips.notStart⟩
    have entered : (clipEntry l k (clipLength k) (walkFrom a b s)).isClipOf k.clip = true := beq_self_eq_true _
    unfold shipDone
    rw [takeClip_sched]
    dsimp only
    rw [List.any_append, List.any_cons, entered, Bool.true_or, Bool.or_true]
    exact Bool.and_false _
  · rw [takeClip_sched] at sched
    exact ⟨congrArg Scheduler.clipCursor sched, congrArg Scheduler.bucket sched, congrArg Scheduler.window sched⟩

section
variable (one : OneWalks l s) (event : ServesAt l c s0 s) {k : ClipCursor} (label : NoLabel s) (queue : resendQueue s = [])
  (fresh : FreshLives s) (lives : ∀ q, liveLength q s = 0) (room : (reliableEntries s).length < 2048)
  (cursor : s.sched.clipCursor = some k) (left : k.next < k.out)
include one event label queue fresh lives room cursor left

theorem OneWalks.keepsClip (fits : packetBits (clipLength k) ≤ creditCap (s.path l))
    (empty : s.sched.bucket < packetBits (clipLength k)) : KeepsAll l c s0 s := by
  refine one.keeps event fun a b => walk_of_clip (s := walkFrom a b s) label queue (liveStep_of_none fresh lives) ?_
  rw [clipStep_of_cursor (s := walkFrom a b s) room cursor left fits]
  exact congrArg Walk.state (if_pos empty)

theorem OneWalks.offersClip (pays : packetBits (clipLength k) ≤ s.sched.bucket) :
    OffersOne l c s0 s (clipHeader k (clipLength k) s) (streamBytes (idx4 k.program) k.run k.next (clipLength k) s)
      (ClipSentIn l k s) := by
  refine one.offers event (takesClip one k) fun fits a b w ends => ?_
  rw [streamBytes_length] at ends fits
  refine walk_of_clip (s := walkFrom a b s) label queue (liveStep_of_none fresh lives) ?_
  rw [clipStep_of_cursor (s := walkFrom a b s) room cursor left fits]
  exact congrArg Walk.state ((if_neg (Nat.not_lt.mpr pays)).trans ends)

end

/-- A path that finds no candidate sends nothing. -/
theorem OneWalks.keepsNothing (one : OneWalks l s) (event : ServesAt l c s0 s) (label : NoLabel s)
    (queue : resendQueue s = []) (fresh : FreshLives s) (lives : ∀ q, liveLength q s = 0)
    (cursor : s.sched.clipCursor = none) : KeepsAll l c s0 s := by
  refine one.keeps event fun a b => walk_of_clip (s := walkFrom a b s) label queue (liveStep_of_none fresh lives) ?_
  rw [clipStep_of_none (s := walkFrom a b s) cursor]
  rfl

end

end Sys2Proof.Machine
end

section
/-! PROOFS. The label of the label queue's head, which is sent whether or not clips wait to ship, and the probe of a path
in PROBING (R135, R136, R158, R161). -/

namespace Sys2Proof.Machine

set_option Elab.async false

/-! ### What shipping leaves (R189) -/

/-- What no completion and no start of shipping changes, and no end of an event in which no path sends. -/
structure ShipsOnly (s t : State) : Prop where
  paths : t.paths = s.paths
  progs : t.progs = s.progs
  tb : t.tb = s.tb
  lives : t.lives = s.lives
  sched : t.sched = { s.sched with clipCursor := t.sched.clipCursor, asking := t.sched.asking }
  record : ∀ c k, s.clips.recs.get c = some k →
    ∃ m, t.clips.recs.get c = some m ∧ m = { k with st := m.st, shipCursor := m.shipCursor }

section
variable {s t : State}

theorem ShipsOnly.of_inner {ps : List Part} (kept : Inner ps s t)
    (apart : Part.paths ∉ ps ∧ Part.progs ∉ ps ∧ Part.tb ∉ ps ∧ Part.lives ∉ ps)
    (sched : t.sched = { s.sched with clipCursor := t.sched.clipCursor, asking := t.sched.asking })
    (record : ∀ c k, s.clips.recs.get c = some k →
      ∃ m, t.clips.recs.get c = some m ∧ m = { k with st := m.st, shipCursor := m.shipCursor }) : ShipsOnly s t :=
  ⟨kept.same .paths apart.1, kept.same .progs apart.2.1, kept.same .tb apart.2.2.1, kept.same .lives apart.2.2.2, sched,
    record⟩

theorem recChanged_ships (i : Nat) {f : Clip → Clip}
    (only : ∀ k, f k = { k with st := (f k).st, shipCursor := (f k).shipCursor })
    (l : ClipLog) (c : Fin 64) (k : Clip) (found : l.recs.get c = some k) :
    ∃ m, (recChanged i f l).recs.get c = some m ∧ m = { k with st := m.st, shipCursor := m.shipCursor } := by
  unfold recChanged
  dsimp only
  rw [Vec_get_put]
  split
  next same =>
    rw [same, found]
    exact ⟨f k, rfl, only k⟩
  · exact ⟨k, found, rfl⟩

theorem completeShip_ships (s : State) : ShipsOnly s (completeShip s) := by
  refine .of_inner (completeShip_inner s) (by decide) (by rw [completeShip_sched]) fun c k found => ?_
  rcases completeShip_clips s with same | ⟨i, next, same⟩
  · rw [same]
    exact ⟨k, found, rfl⟩
  · rw [same]
    exact recChanged_ships i (f := fun r => { r with st := .shipped, shipCursor := next }) (fun _ => rfl) s.clips c k found

theorem startShip_ships (s : State) : ShipsOnly s (startShip s) := by
  refine .of_inner (startShip_inner s) (by decide) (startShip_sched s) fun c k found => ?_
  rcases startShip_clips s with ⟨rest, same⟩ | ⟨i, rest, same⟩
  · rw [same]
    exact ⟨k, found, rfl⟩
  · rw [same]
    exact recChanged_ships i (f := fun k => { k with st := .shipping, shipCursor := some k.inOffset }) (fun _ => rfl)
      { s.clips with shipQueue := rest } c k found

theorem freeZero_ships (s : State) : ShipsOnly s (freeZero s) := by
  have frees := freeZero_inner s
  have sched : (freeZero s).sched = s.sched := frees.same .sched (by decide)
  refine .of_inner frees (by decide) (by rw [sched]) fun c k found => ?_
  rw [frees.same .clips (by decide)]
  exact ⟨k, found, rfl⟩

theorem unasked_ships (s : State) : ShipsOnly s (unasked s) := ⟨rfl, rfl, rfl, rfl, rfl, fun _ k found => ⟨k, found, rfl⟩⟩

theorem startShip_asks {l : Fin 6} (asks : s.sched.asking.get l = true) : (startShip s).sched.asking.get l = true := by
  unfold startShip
  split
  · exact asks
  · dsimp only
    split
    · exact asks
    · exact Vec_get_tab (fun _ => true) l

/-- What shipping leaves alone, while no program ends its drain. -/
theorem EndsKeep.of_ships {P : State → Prop} (waits : ∀ t, P t → DrainsWait t)
    (shipped : ∀ t, P t → P (completeShip t)) (started : ∀ t, P t → P (startShip t)) : EndsKeep P where
  ended p t holds done := absurd done (by rw [((waits t holds).not_ends p).1]; exact Bool.false_ne_true)
  drain p t holds done := absurd done (by rw [((waits t holds).not_ends p).2]; exact Bool.false_ne_true)
  shipped t holds _ := shipped t holds
  started t holds _ := started t holds

theorem RoundKeeps.of_ships {P : State → Prop} (waits : ∀ t, P t → DrainsWait t)
    (ships : ∀ t v, P t → ShipsOnly t v → P v) : RoundKeeps P where
  toEndsKeep := .of_ships waits (fun t holds => ships t _ holds (completeShip_ships t))
    fun t holds => ships t _ holds (startShip_ships t)
  asking t holds := ships t _ holds (unasked_ships t)
  frees t holds := ships t _ holds (freeZero_ships t)

/-! ### The label of the queue's head (R161) -/

/-- The label of clip `i` waits at the queue's head, as in the state `s`. -/
structure LabelWaits (s : State) (i : Fin 64) (k : Clip) (t : State) : Prop where
  paths : t.paths = s.paths
  progs : t.progs = s.progs
  tb : t.tb = s.tb
  lives : t.lives = s.lives
  queue : t.sched.labelQueue = s.sched.labelQueue
  window : t.sched.window = s.sched.window
  next : t.sched.nextSend = s.sched.nextSend
  record : ∃ m, t.clips.recs.get i = some m ∧ m = { k with st := m.st, shipCursor := m.shipCursor }

theorem LabelWaits.ships {i : Fin 64} {k : Clip} {v : State} (waits : LabelWaits s i k t) (only : ShipsOnly t v) :
    LabelWaits s i k v := by
  obtain ⟨m, found, same⟩ := waits.record
  obtain ⟨m', found', same'⟩ := only.record i m found
  refine ⟨only.paths.trans waits.paths, only.progs.trans waits.progs, only.tb.trans waits.tb, only.lives.trans waits.lives,
    ?_, ?_, ?_, m', found', ?_⟩
  · rw [only.sched]
    exact waits.queue
  · rw [only.sched]
    exact waits.window
  · rw [only.sched]
    exact waits.next
  · rw [same', same]

theorem LabelWaits.drains {i : Fin 64} {k : Clip} (waits : LabelWaits s i k t) (drains : DrainsWait s) : DrainsWait t :=
  drains.of_lives waits.progs waits.tb waits.lives

theorem labelBody_of_ships {k m : Clip} (same : m = { k with st := m.st, shipCursor := m.shipCursor }) (i : Nat) :
    labelBody i m = labelBody i k ∧ labelHeader i m false = labelHeader i k false ∧ m.revision = k.revision ∧
      m.label = k.label := by
  rw [same]
  exact ⟨rfl, rfl, rfl, rfl⟩

/-- What the label that is sent leaves. -/
structure LabelLeft (l : Fin 6) (s : State) (i : Fin 64) (k : Clip) (rest : List Nat) (t : State) : Prop where
  path : t.path l = pathSent l (addressed l (labelHeader i.1 k false) s) (labelBody i.1 k) (s.path l)
  progs : t.progs = s.progs
  tb : t.tb = s.tb
  lives : t.lives = s.lives
  queue : t.sched.labelQueue = rest
  window : t.sched.window = s.sched.window ++ [labelEntry l i.1 k s]
  next : t.sched.nextSend = (s.sched.nextSend + 1) % 2 ^ 32
  record : ∃ m, t.clips.recs.get i = some m ∧ m.revision = k.revision ∧
    m.label = if k.label = .pending then LabelState.sent else k.label

theorem LabelLeft.ships {l : Fin 6} {i : Fin 64} {k : Clip} {rest : List Nat} {v : State} (left : LabelLeft l s i k rest t)
    (only : ShipsOnly t v) : LabelLeft l s i k rest v := by
  obtain ⟨m, found, revision, label⟩ := left.record
  obtain ⟨m', found', same'⟩ := only.record i m found
  refine ⟨?_, only.progs.trans left.progs, only.tb.trans left.tb, only.lives.trans left.lives,
    ?_, ?_, ?_, m', found', ?_, ?_⟩
  · exact (congrArg (fun p => p.get l) only.paths).trans left.path
  · rw [only.sched]
    exact left.queue
  · rw [only.sched]
    exact left.window
  · rw [only.sched]
    exact left.next
  · rw [same']
    exact revision
  · rw [same']
    exact label

theorem labelSent_record {i : Fin 64} {m : Clip} (found : s.clips.recs.get i = some m) :
    ∃ x, (labelSent i.1 m.revision s).clips.recs.get i = some x ∧ x.revision = m.revision ∧
      x.label = if m.label = .pending then LabelState.sent else m.label := by
  unfold labelSent
  rw [modClip_recs, if_pos (Fin.ofNat_val_eq_self i), found]
  refine ⟨_, rfl, ?_⟩
  dsimp only
  by_cases pending : m.label = .pending
  · have marks : (m.revision == m.revision && m.label == LabelState.pending) = true := by rw [pending]; simp
    rw [if_pos marks, if_pos pending]
    exact ⟨rfl, rfl⟩
  · have stands : ¬(m.revision == m.revision && m.label == LabelState.pending) = true := by simp [pending]
    rw [if_neg stands, if_neg pending]
    exact ⟨rfl, rfl⟩

theorem takeLabel_clips (l : Fin 6) (c : Nat) (k : Clip) (u : State) :
    ∃ v, v.clips = u.clips ∧ takeLabel l c k u = labelSent c k.revision v := by
  refine ⟨_, ?_, rfl⟩
  exact (enterWindow_inner _ _).same .clips (by decide)

/-- The label of the queue's head, as the one path that is served finds it. -/
structure HeadWaits (l : Fin 6) (i : Fin 64) (rest : List Nat) (k : Clip) (s : State) : Prop where
  others : OthersBusy l s
  idles : Idles l s
  drains : DrainsWait s
  queue : s.sched.labelQueue = i.1 :: rest
  found : s.clips.recs.get i = some k
  room : (reliableEntries s).length < 2048

section
variable {l : Fin 6} {c : Instr} {s0 : State} {i : Fin 64} {rest : List Nat} {k : Clip}

/-- The walk of the path comes to the label. -/
theorem HeadWaits.walks (head : HeadWaits l i rest k s) (waits : LabelWaits s i k t) {w : State} {m : Clip}
    (found : t.clips.recs.get i = some m) (same : m = { k with st := m.st, shipCursor := m.shipCursor })
    (ends : offer l (packetBits (labelBody i.1 k).length) (takeLabel l i.1 m) (unasked t) = .ended w) :
    walk l (unasked t) = w := by
  refine walk_of_label ?_
  have room : (reliableEntries (unasked t)).length < 2048 := by
    have window : (unasked t).sched.window = s.sched.window := waits.window
    unfold reliableEntries
    rw [window]
    exact head.room
  rw [labelStep_of_head (rest := rest) room (waits.queue.trans head.queue) ((clipAt_val i _).trans found),
    (labelBody_of_ships same i.1).1]
  exact ends

theorem LabelWaits.path (waits : LabelWaits s i k t) (l : Fin 6) : t.path l = s.path l :=
  congrArg (fun p => p.get l) waits.paths

theorem HeadWaits.serves (head : HeadWaits l i rest k s) (waits : LabelWaits s i k t) :
    OthersBusy l t ∧ Idles l t := by
  refine ⟨fun j other => ?_, ?_⟩
  · rw [waits.path]
    exact head.others j other
  · unfold Idles
    rw [waits.path]
    exact head.idles

theorem HeadWaits.keeps (head : HeadWaits l i rest k s) (event : ServesAt l c s0 s)
    (fits : packetBits (labelBody i.1 k).length ≤ creditCap (s.path l))
    (short : (s.path l).credit < packetBits (labelBody i.1 k).length) : KeepsAll l c s0 s := by
  obtain ⟨a, b, v, asks, runs⟩ := event
  have start : LabelWaits s i k (askedFrom v a b s) := ⟨rfl, rfl, rfl, rfl, rfl, rfl, rfl, k, head.found, rfl⟩
  have kept : LabelWaits s i k (settle (askedFrom v a b s)) := by
    refine settle_of_kept (.of_ships (fun t waits => waits.drains head.drains) fun t v waits only => waits.ships only)
      start fun t waits => ?_
    obtain ⟨others, idles⟩ := head.serves waits
    have stays : servePaths t = unasked t := by
      have notProbing : ((unasked t).path l).st ≠ .probing := notProbing_of_carries idles.1
      obtain ⟨m, found, same⟩ := waits.record
      have path : (unasked t).path l = s.path l := waits.path l
      by_cases asking : t.sched.asking.get l = true
      · rw [servePaths_of_asking others asking idles,
          head.walks waits found same (offer_of_wait (by rw [path]; exact fits) (by rw [path]; exact short)),
          sendProbe_of_notProbing notProbing]
      · rw [servePaths_of_only others, if_neg asking, sendProbe_of_notProbing notProbing]
    rw [stays]
    exact waits.ships (unasked_ships t)
  exact ⟨_, runs, kept.path l, kept.window, kept.next⟩

/-- The label that the path takes. -/
theorem HeadWaits.taken (head : HeadWaits l i rest k s) (waits : LabelWaits s i k t) {m : Clip}
    (found : t.clips.recs.get i = some m) (same : m = { k with st := m.st, shipCursor := m.shipCursor }) :
    LabelLeft l s i k rest (takeLabel l i.1 m (unasked t)) := by
  obtain ⟨body, header, revision, label⟩ := labelBody_of_ships same i.1
  have parts := takeLabel_parts l i.1 m (unasked t)
  have sched := takeLabel_sched l i.1 m (unasked t)
  have entry : labelEntry l i.1 m (unasked t) = labelEntry l i.1 k s := by
    have next : (unasked t).sched.nextSend = s.sched.nextSend := waits.next
    have tb : (unasked t).tb = s.tb := waits.tb
    unfold labelEntry
    rw [next, tb, revision]
  refine ⟨?_, (parts.same .progs (by decide)).trans waits.progs, (parts.same .tb (by decide)).trans waits.tb,
    (parts.same .lives (by decide)).trans waits.lives, ?_, ?_, ?_, ?_⟩
  · have path : (unasked t).path l = s.path l := waits.path l
    have next : (unasked t).sched.nextSend = s.sched.nextSend := waits.next
    have addressed' (h : Header) : addressed l h (unasked t) = addressed l h s := by
      unfold addressed
      rw [path, next]
    rw [takeLabel_path, addressed', path, body, header]
  · have queue : (unasked t).sched.labelQueue = i.1 :: rest := waits.queue.trans head.queue
    rw [sched]
    exact congrArg List.tail queue
  · have window : (unasked t).sched.window = s.sched.window := waits.window
    rw [sched, entry]
    exact congrArg (· ++ [labelEntry l i.1 k s]) window
  · have next : (unasked t).sched.nextSend = s.sched.nextSend := waits.next
    rw [sched]
    exact congrArg incWrap32 next
  · obtain ⟨u, clips, takes⟩ := takeLabel_clips l i.1 m (unasked t)
    have found' : u.clips.recs.get i = some m := by rw [clips]; exact found
    obtain ⟨x, at', revised, marked⟩ := labelSent_record found'
    rw [takes]
    exact ⟨x, at', revised.trans revision, by rw [marked, label]⟩

theorem pathSent_st (l : Fin 6) (h : Header) (payload : List Byte) (x : Path) : (pathSent l h payload x).st = x.st := rfl

/-- The paths send the label, and nothing else. -/
theorem HeadWaits.served (head : HeadWaits l i rest k s) (waits : LabelWaits s i k t)
    (fits : packetBits (labelBody i.1 k).length ≤ creditCap (s.path l))
    (pays : packetBits (labelBody i.1 k).length ≤ (s.path l).credit) (asking : t.sched.asking.get l = true) :
    OthersBusy l (servePaths t) ∧ LabelLeft l s i k rest (servePaths t) := by
  obtain ⟨others, idles⟩ := head.serves waits
  obtain ⟨m, found, same⟩ := waits.record
  have calm : (s.path l).st ≠ .probing := notProbing_of_carries head.idles.1
  have path : (unasked t).path l = s.path l := waits.path l
  rw [← path] at fits pays
  have left := head.taken waits found same
  have takes : offer l (packetBits (labelBody i.1 k).length) (takeLabel l i.1 m) (unasked t) =
      .ended (takeLabel l i.1 m (unasked t)) := offer_of_take fits pays
  have walked := head.walks waits found same takes
  have busy : OthersBusy l (takeLabel l i.1 m (unasked t)) := fun j other => by
    rw [takeLabel_path_ne other.symm]
    exact others j other
  generalize takeLabel l i.1 m (unasked t) = u at left walked busy
  have carrying : (u.path l).st ≠ .probing := by
    rw [left.path, pathSent_st]
    exact calm
  rw [servePaths_of_asking others asking idles, walked, sendProbe_of_notProbing carrying]
  exact ⟨busy, left⟩

theorem HeadWaits.sends (head : HeadWaits l i rest k s) (event : ServesAt l c s0 s)
    (fits : packetBits (labelBody i.1 k).length ≤ creditCap (s.path l))
    (pays : packetBits (labelBody i.1 k).length ≤ (s.path l).credit) :
    ∃ t, exec c s0 = .next t ∧ LabelLeft l s i k rest t := by
  obtain ⟨a, b, v, asks, runs⟩ := event
  have start : LabelWaits s i k (askedFrom v a b s) := ⟨rfl, rfl, rfl, rfl, rfl, rfl, rfl, k, head.found, rfl⟩
  have before : EndsKeep fun t => LabelWaits s i k t ∧ t.sched.asking.get l = true := by
    refine .of_ships (fun t holds => holds.1.drains head.drains) (fun t holds => ?_) fun t holds => ?_
    · refine ⟨holds.1.ships (completeShip_ships t), ?_⟩
      rw [completeShip_sched]
      exact holds.2
    · exact ⟨holds.1.ships (startShip_ships t), startShip_asks holds.2⟩
  have after : RoundKeeps (LabelLeft l s i k rest) :=
    .of_ships (fun t left => head.drains.of_lives left.progs left.tb left.lives) fun t v left only => left.ships only
  refine ⟨_, runs, settle_of_first before after ⟨start, asks⟩ fun t holds => ?_⟩
  obtain ⟨others, left⟩ := head.served holds.1 fits pays holds.2
  refine ⟨fun j => ?_, left⟩
  by_cases own : j = l
  · rw [own, left.path]
    exact nofun
  · exact others j own

end

end

end Sys2Proof.Machine
end

section
/-! PROOFS. The probe of a path in PROBING that alone has an idle port (R135, R136). -/

namespace Sys2Proof.Machine

set_option Elab.async false

/-! ### The payload of a probe (R136) -/

/-- The bytes of a probe: each is spelt by eight steps of the register, the later ones after the earlier ones. -/
theorem probeBytes_eq {bit : BitVec 23 → Bool} {next : BitVec 23 → BitVec 23} (moves : ∀ r, stepB r = (bit r, next r))
    (n : Nat) (r : BitVec 23) : probeBytes n r = (List.range n).map fun k => BitVec.ofNat 8
      (∑ j : Fin 8, if bit (next^[8 * k + j.1] r) then 2 ^ (7 - j.1) else 0) := by
  induction n generalizing r with
  | zero => rfl
  | succ n ih =>
    have later (k : Nat) : (∑ j : Fin 8, if bit (next^[8 * k + j.1] (next^[8] r)) then 2 ^ (7 - j.1) else 0) =
        ∑ j : Fin 8, if bit (next^[8 * (k + 1) + j.1] r) then 2 ^ (7 - j.1) else 0 := by
      refine Finset.sum_congr rfl fun j _ => ?_
      rw [← Function.iterate_add_apply, show 8 * k + j.1 + 8 = 8 * (k + 1) + j.1 by omega]
    rw [probeBytes, eightSteps_eq moves, ih, List.range_succ_eq_map, List.map_cons, List.map_map]
    refine congrArg₂ List.cons ?_ (List.map_congr_left fun k _ => ?_)
    · simp only [Nat.mul_zero, Nat.zero_add]
    · rw [later]
      rfl

/-! ### The path that sends it (R134, R135) -/

/-- A path that has sent a probe. -/
def pathProbed (l : Fin 6) (send : Nat) (x : Path) : Path :=
  { x with
    credit := x.credit - 8416, probeNumber := (x.probeNumber + 1) % 2 ^ 32, probeSince := true
    bitsSent := (x.bitsSent + 8416) % 2 ^ 48, packetsSent := min (x.packetsSent + 1) 65535
    port := some (probeFrame l.1 ((x.probeNumber + 1) % 2 ^ 32) send) }

/-- The paths and the next send number: no more decides of a probe. -/
def ProbeState (v : Vector Path 6) (n : Nat) (t : State) : Prop := t.paths = v ∧ t.sched.nextSend = n

theorem probeState_keeps (v : Vector Path 6) (n : Nat) : RoundKeeps (ProbeState v n) := by
  have kept {ps : List Part} {s t : State} (holds : ProbeState v n s) (h : Inner ps s t) (apart : Part.paths ∉ ps)
      (next : t.sched.nextSend = s.sched.nextSend) : ProbeState v n t :=
    ⟨(h.same .paths apart).trans holds.1, next.trans holds.2⟩
  have sched {ps : List Part} {s t : State} (h : Inner ps s t) (apart : Part.sched ∉ ps) :
      t.sched.nextSend = s.sched.nextSend := congrArg Scheduler.nextSend (h.same .sched apart)
  exact {
    ended := fun p t holds _ => kept holds (endWriting_inner p t) (by decide) (sched (endWriting_inner p t) (by decide))
    drain := fun p t holds _ => kept holds (completeDrain_inner p t) (by decide) (by rw [completeDrain_sched p t])
    shipped := fun t holds _ => kept holds (completeShip_inner t) (by decide) (by rw [completeShip_sched])
    started := fun t holds _ => kept holds (startShip_inner t) (by decide) (by rw [startShip_sched])
    asking := fun _ holds => holds
    frees := fun t holds => kept holds (freeZero_inner t) (by decide) (sched (freeZero_inner t) (by decide)) }

/-- What the probe leaves. -/
def ProbeSent (l : Fin 6) (x : Path) (send : Nat) (t : State) : Prop :=
  t.path l = pathProbed l send x ∧ t.sched.nextSend = (send + 1) % 2 ^ 32

section
variable {l : Fin 6} {c : Instr} {s0 s t : State}

theorem probeSent_keeps (x : Path) (send : Nat) : RoundKeeps (ProbeSent l x send) := by
  have kept {f : State → State} (u : State) (sent : ProbeSent l x send u)
      (keeps : ProbeState u.paths u.sched.nextSend (f u)) : ProbeSent l x send (f u) :=
    ⟨(congrArg (fun v => v.get l) keeps.1).trans sent.1, keeps.2.trans sent.2⟩
  have keeps (u : State) := probeState_keeps u.paths u.sched.nextSend
  exact {
    ended := fun p t sent done => kept t sent ((keeps t).ended p t ⟨rfl, rfl⟩ done)
    drain := fun p t sent done => kept t sent ((keeps t).drain p t ⟨rfl, rfl⟩ done)
    shipped := fun t sent done => kept t sent ((keeps t).shipped t ⟨rfl, rfl⟩ done)
    started := fun t sent can => kept t sent ((keeps t).started t ⟨rfl, rfl⟩ can)
    asking := fun t sent => sent
    frees := fun t sent => kept t sent ((keeps t).frees t ⟨rfl, rfl⟩) }

theorem sendProbe_of_probing (probing : (t.path l).st = .probing) (idle : (t.path l).port = none)
    (pays : 8416 ≤ (t.path l).credit) : ProbeSent l (t.path l) t.sched.nextSend (sendProbe l t) := by
  have ready : ((t.path l).st == .probing && (t.path l).port.isNone &&
      decide (Config.probeBits ≤ (t.path l).credit)) = true := by
    rw [probing, idle, decide_eq_true (show Config.probeBits ≤ _ from pays)]
    rfl
  unfold sendProbe
  dsimp only
  rw [if_pos ready]
  refine ⟨?_, rfl⟩
  rw [path_of_same (modSched_overfull _ _) (by decide), modified_path]
  rfl

/-- A path in PROBING walks nothing. -/
theorem askPath_of_probing (probing : (t.path l).st = .probing) : askPath l t = t := by
  unfold askPath
  refine if_neg ?_
  rw [Bool.and_eq_true, carries_iff, probing]
  rintro ⟨carrying | carrying, _⟩ <;> exact nomatch carrying

theorem servePaths_of_probing (others : OthersBusy l t) (probing : (t.path l).st = .probing)
    (idle : (t.path l).port = none) (pays : 8416 ≤ (t.path l).credit) :
    OthersBusy l (servePaths t) ∧ ProbeSent l (t.path l) t.sched.nextSend (servePaths t) := by
  have probing' : ((unasked t).path l).st = .probing := probing
  rw [servePaths_of_only others, askPath_of_probing probing', ite_self]
  refine ⟨fun j other => ?_, sendProbe_of_probing (t := unasked t) probing idle pays⟩
  rw [sendProbe_path_ne other.symm]
  exact others j other

/-- The event sends the probe. -/
theorem probes (event : ServesAt l c s0 s) (others : OthersBusy l s) (probing : (s.path l).st = .probing)
    (idle : (s.path l).port = none) (pays : 8416 ≤ (s.path l).credit) :
    ∃ t, exec c s0 = .next t ∧ ProbeSent l (s.path l) s.sched.nextSend t := by
  obtain ⟨a, b, v, _, runs⟩ := event
  refine ⟨_, runs, settle_of_first (probeState_keeps s.paths s.sched.nextSend).toEndsKeep
    (probeSent_keeps (l := l) (s.path l) s.sched.nextSend) ⟨rfl, rfl⟩ fun t holds => ?_⟩
  obtain ⟨paths, next⟩ := holds
  have path (k : Fin 6) : t.path k = s.path k := congrArg (fun v => v.get k) paths
  have others' : OthersBusy l t := fun k other => by
    rw [path]
    exact others k other
  have served := servePaths_of_probing others' (by rw [path]; exact probing) (by rw [path]; exact idle)
    (by rw [path]; exact pays)
  rw [path, next] at served
  obtain ⟨busy, sent⟩ := served
  refine ⟨fun j => ?_, sent⟩
  by_cases own : j = l
  · rw [own, sent.1]
    exact nofun
  · exact busy j own

end

end Sys2Proof.Machine
end

section
/-! PROOFS. What the one path with an idle port sends at FRAME_SENT and PACING_TICK (O42: R133 to R136, R149 to R163,
R167). -/

namespace Sys2Proof.Machine

set_option Elab.async false

/-! ### The class order in the words of its rules -/

section
variable {l : Fin 6} {c : Instr} {s0 s : State}

theorem isAlone_iff : isAlone l s = true ↔ ∀ k, k ≠ l → (s.path k).st ≠ .up ∧ (s.path k).st ≠ .degraded := by
  unfold isAlone
  rw [List.all_eq_true]
  refine ⟨fun all k other => ?_, fun all k _ => ?_⟩
  · have own := all k (List.mem_finRange k)
    rw [Bool.or_eq_true, beq_iff_eq, Bool.not_eq_true'] at own
    have rests := own.resolve_left other
    refine ⟨fun st => ?_, fun st => ?_⟩ <;> simp [carries, st] at rests
  · by_cases own : k = l
    · simp [own]
    · have rests := all k own
      simp [carries, rests.1, rests.2]

theorem liveLength_of_none {q : Fin 4} (none' : (s.live q).cursor = none) : liveLength q s = 0 := by
  have pending : pendingBytes q s = 0 := by unfold pendingBytes; rw [none']
  unfold liveLength
  rw [pending]
  dsimp only
  rw [if_neg (show ¬Config.maxPayload ≤ 0 by decide), ite_self, ite_self]

theorem liveLength_of_cursor {q : Fin 4} {run off : Nat} (cursor : (s.live q).cursor = some (run, off)) :
    liveLength q s =
      if (s.prog q).st ≠ .running ∧ (s.prog q).st ≠ .draining then 0
      else if 1280 ≤ (s.prog q).streamOffset - off then 1280
      else if (s.live q).closing = true ∨ (s.prog q).writingEnded = true then (s.prog q).streamOffset - off
      else 0 := by
  have pending : pendingBytes q s = (s.prog q).streamOffset - off := by unfold pendingBytes; rw [cursor]
  unfold liveLength
  rw [pending]
  cases st : (s.prog q).st <;> simp [Config.maxPayload]

theorem shipCanStart_of_waits (waits : s.clips.shipQueue = [] ∨ ∃ i k, s.clips.recs.get i = some k ∧ k.st = .shipping) :
    shipCanStart s = false := by
  unfold shipCanStart
  rcases waits with empty | ⟨i, k, found, ships⟩
  · rw [empty]
    exact Bool.and_false _
  · have mem : i.1 ∈ clipIds (fun k => k.st == .shipping) s := mem_clipIds.mpr ⟨i, rfl, k, found, beq_iff_eq.mpr ships⟩
    have busy : (shippingClip s).isNone = false := by
      unfold shippingClip
      cases ids : clipIds (fun k => k.st == .shipping) s with
      | nil => rw [ids] at mem; exact absurd mem List.not_mem_nil
      | cons => rfl
    rw [busy]
    rfl

theorem pictureAt_of_unit {p : Fin 4} {run off : Nat} {u : UnitRef} (held : unitAt p run off s = some u) :
    pictureAt p run off s = u.picture := by
  unfold pictureAt
  rw [held]
  rfl

theorem paced_port (p : Path) : (paced p).port = p.port := by
  unfold paced refill countSilence
  split <;> split <;> rfl

/-! ### A resend, by the place of its entry (R167) -/

variable {e : Entry}

theorem resendPacket_live {p : Fin 4} {run segment off len : Nat} (place : e.place = .live p.1 run segment off len) :
    resendPacket e s = ({ liveHeader p run off s with flags := 1 }, streamBytes p run off len s) ∧
      resentPlace e s = e.place := by
  unfold resendPacket resentPlace
  rw [place]
  dsimp only
  rw [idx4_val]
  exact ⟨rfl, rfl⟩

theorem resendPacket_clip {i : Fin 64} {p : Fin 4} {run segment off len : Nat} {k : Clip}
    (place : e.place = .clip i.1 p.1 run segment off len) (found : s.clips.recs.get i = some k) :
    resendPacket e s =
      ({ liveHeader p run off s with cls := 1, clip := i.1, flags := if k.outOffset = some (off + len) then 3 else 1 },
        streamBytes p run off len s) ∧ resentPlace e s = e.place := by
  have flags : (if (k.outOffset == some (off + len)) = true then flagResend + flagLastOfClip else flagResend) =
      if k.outOffset = some (off + len) then 3 else 1 := by
    simp only [beq_iff_eq]
    rfl
  unfold resendPacket resentPlace
  rw [place]
  dsimp only
  rw [idx4_val, clipAt_val, found]
  dsimp only
  rw [flags]
  exact ⟨rfl, rfl⟩

theorem resendPacket_label {i : Fin 64} {revision : Nat} {k : Clip} (place : e.place = .label i.1 revision)
    (found : s.clips.recs.get i = some k) : resendPacket e s = (labelHeader i.1 k true, labelBody i.1 k) ∧
      resentPlace e s = .label i.1 k.revision := by
  unfold resendPacket resentPlace
  rw [place]
  dsimp only
  rw [clipAt_val, found]
  exact ⟨rfl, rfl⟩

theorem labelBody_eq (i : Nat) (k : Clip) : labelBody i k =
    u8 i ++ u32 k.creation ++ u8 k.revision ++ u8 k.program.1 ++ u8 k.run ++ u8 k.source.code ++ u32 k.inPicture
      ++ encTimecode k.inTimecode ++ u48 k.inOffset ++ u32 (k.outPicture.getD 0) ++ encOpt 4 encTimecode k.outTimecode
      ++ u48 (k.outOffset.getD 0) ++ u8 (if k.trimmed then 1 else 0) ++ u8 k.rating ++ u8 k.text.length ++ k.text
      ++ u8 k.tags.length ++ k.tags := by
  unfold labelBody encList flag
  simp only [List.flatMap_singleton', List.append_assoc]

/-! ### A candidate in the words of its rules (R134, R157) -/

/-- What becomes of a candidate, in the words of the obligation: the header is as the port sends it. -/
def Offered (l : Fin 6) (c : Instr) (s0 s : State) (h : Header) (payload : List Byte) (follows : State → Prop) : Prop :=
  ((28 + payload.length) * 8 ≤ (s.path l).estimate * (s.path l).burst → (28 + payload.length) * 8 ≤ (s.path l).credit →
    ∃ t, exec c s0 = .next t ∧ (t.path l = pathSent l h payload (s.path l) ∧
      t.sched.nextSend = (s.sched.nextSend + 1) % 2 ^ 32) ∧ follows t) ∧
  ((28 + payload.length) * 8 ≤ (s.path l).estimate * (s.path l).burst → (s.path l).credit < (28 + payload.length) * 8 →
    KeepsAll l c s0 s)

theorem OffersOne.offered {h h' : Header} {payload : List Byte} {follows follows' : State → Prop}
    (offers : OffersOne l c s0 s h payload follows) (carrying : carries (s.path l) = true) (header : addressed l h s = h')
    (ends : ∀ t, follows t → follows' t) : Offered l c s0 s h' payload follows' := by
  have cap := creditCap_of_carries carrying
  obtain ⟨sends, waits⟩ := offers
  rw [cap, header] at sends
  rw [cap] at waits
  refine ⟨fun fits pays => ?_, waits⟩
  obtain ⟨t, runs, sent, after⟩ := sends fits pays
  exact ⟨t, runs, sent, ends t after⟩

/-- A header as path `l` sends it. -/
def sentHeader (l : Fin 6) (s : State) (cls program clip run flags revision reference picture : Nat) : Header :=
  Header.mk cls program clip run l.1 flags revision (((s.path l).sequence + 1) % 2 ^ 16) s.sched.nextSend reference picture

section
variable {i : Fin 64} {k : Clip}

/-- What the label that is sent leaves of its queue, the window and its clip. -/
def LabelSentIn (l : Fin 6) (i : Fin 64) (k : Clip) (rest : List Nat) (s t : State) : Prop :=
  t.sched.labelQueue = rest ∧ t.sched.window = s.sched.window ++ [labelEntry l i.1 k s] ∧
    ∃ m, t.clips.recs.get i = some m ∧ m.revision = k.revision ∧
      m.label = if k.label = .pending then LabelState.sent else k.label

theorem HeadWaits.offered {rest : List Nat} (head : HeadWaits l i rest k s) (event : ServesAt l c s0 s) :
    Offered l c s0 s (sentHeader l s 0 k.program.1 i.1 k.run 0 k.revision 0 0) (labelBody i.1 k)
      (LabelSentIn l i k rest s) := by
  have offers : OffersOne l c s0 s (labelHeader i.1 k false) (labelBody i.1 k) (LabelSentIn l i k rest s) := by
    refine ⟨fun fits pays => ?_, fun fits short => head.keeps event fits short⟩
    obtain ⟨t, runs, left⟩ := head.sends event fits pays
    exact ⟨t, runs, ⟨left.path, left.next⟩, left.queue, left.window, left.record⟩
  exact offers.offered head.idles.1 rfl fun _ left => left

end

/-- What a resend leaves of the window: the entry holds `place`. -/
def ResentAs (l : Fin 6) (e : Entry) (place : Place) (s t : State) : Prop :=
  t.sched.window = (s.sched.window.filter fun y => y.send != e.send) ++
      [{ e with
        send := s.sched.nextSend, place := place, path := l.1, resends := min (e.resends + 1) 255, queued := false }] ∧
    t.sched.resent = (s.sched.resent + 1) % 2 ^ 32

/-- The oldest queued entry has the turn. -/
structure ResendsNext (l : Fin 6) (c : Instr) (s0 s : State) (e : Entry) : Prop where
  one : OneWalks l s
  event : ServesAt l c s0 s
  apart : e.send ≠ s.sched.nextSend
  label : NoLabel s
  oldest : OldestQueued l e s
  turn : ((s.path l).repair < (s.path l).repairShare ∧ (foreignQueue l s = [] → isAlone l s = true)) ∨
    (NoRepair l s ∧ FreshLives s ∧ ∀ q, liveLength q s = 0)

section
variable (resends : ResendsNext l c s0 s e)
include resends

theorem ResendsNext.offered {h h' : Header} {payload : List Byte} {place : Place} (packet : resendPacket e s = (h, payload))
    (at' : resentPlace e s = place) (header : addressed l h s = h') :
    Offered l c s0 s h' payload (ResentAs l e place s) := by
  have offers := resends.one.offersResend resends.event resends.apart resends.label resends.oldest resends.turn
  rw [packet] at offers
  refine offers.offered resends.one.idles.1 header fun t left => ?_
  rw [← at']
  exact left

theorem ResendsNext.live {p : Fin 4} {run segment off len : Nat} {u : UnitRef}
    (place : e.place = .live p.1 run segment off len) (held : unitAt p run off s = some u) :
    Offered l c s0 s (sentHeader l s 2 p.1 255 run 1 0 off u.picture) (streamBytes p run off len s)
      (ResentAs l e e.place s) := by
  obtain ⟨packet, same⟩ := resendPacket_live (s := s) place
  refine resends.offered packet same ?_
  unfold addressed liveHeader
  rw [pictureAt_of_unit held]
  rfl

theorem ResendsNext.clip {i : Fin 64} {p : Fin 4} {run segment off len : Nat} {u : UnitRef} {k : Clip}
    (place : e.place = .clip i.1 p.1 run segment off len) (held : unitAt p run off s = some u)
    (found : s.clips.recs.get i = some k) :
    Offered l c s0 s (sentHeader l s 1 p.1 i.1 run (if k.outOffset = some (off + len) then 3 else 1) 0 off u.picture)
      (streamBytes p run off len s) (ResentAs l e e.place s) := by
  obtain ⟨packet, same⟩ := resendPacket_clip place found
  refine resends.offered packet same ?_
  unfold addressed liveHeader
  rw [pictureAt_of_unit held]
  rfl

theorem ResendsNext.labelled {i : Fin 64} {revision : Nat} {k : Clip} (place : e.place = .label i.1 revision)
    (found : s.clips.recs.get i = some k) :
    Offered l c s0 s (sentHeader l s 0 k.program.1 i.1 k.run 1 k.revision 0 0) (labelBody i.1 k)
      (ResentAs l e (.label i.1 k.revision) s) := by
  obtain ⟨packet, same⟩ := resendPacket_label place found
  exact resends.offered packet same rfl

end

theorem OneWalks.offeredLive (one : OneWalks l s) (event : ServesAt l c s0 s) {p : Fin 4} {run off : Nat} {u : UnitRef}
    (label : NoLabel s) (repair : NoRepair l s) (fresh : FreshLives s)
    (before : ∀ q, turnOf s q < turnOf s p → liveLength q s = 0) (some' : liveLength p s ≠ 0)
    (cursor : (s.live p).cursor = some (run, off)) (held : unitAt p run off s = some u)
    (goesOn : (s.prog p).st = .draining → (s.prog p).writingEnded = true →
      off + liveLength p s ≠ (s.prog p).streamOffset) (room : (liveEntries s).length < 6144) :
    Offered l c s0 s (sentHeader l s 2 p.1 255 run 0 0 off u.picture) (streamBytes p run off (liveLength p s) s)
      (LiveSentIn l p run off (liveLength p s) s) := by
  have offers := one.offersLive event label repair fresh before some' cursor goesOn room
  refine offers.offered one.idles.1 ?_ fun _ left => left
  unfold addressed liveHeader
  rw [pictureAt_of_unit held]
  rfl

theorem OneWalks.offeredClip (one : OneWalks l s) (event : ServesAt l c s0 s) {k : ClipCursor} {p : Fin 4} {u : UnitRef}
    (label : NoLabel s) (queue : resendQueue s = []) (fresh : FreshLives s) (lives : ∀ q, liveLength q s = 0)
    (room : (reliableEntries s).length < 2048) (cursor : s.sched.clipCursor = some k) (left : k.next < k.out)
    (program : k.program = p.1) (held : unitAt p k.run k.next s = some u)
    (pays : packetBits (clipLength k) ≤ s.sched.bucket) :
    Offered l c s0 s
      (sentHeader l s 1 p.1 k.clip k.run (if k.next + clipLength k = k.out then 2 else 0) 0 k.next u.picture)
      (streamBytes p k.run k.next (clipLength k) s) fun t =>
        t.sched.clipCursor = some { k with next := k.next + clipLength k } ∧
        t.sched.bucket = s.sched.bucket - packetBits (clipLength k) ∧
        t.sched.window = s.sched.window ++
          [⟨s.sched.nextSend, .clip k.clip p.1 k.run (segmentAt p k.run k.next s) k.next (clipLength k), l.1, s.tb.pacing,
            0, false⟩] := by
  have offers := one.offersClip event label queue fresh lives room cursor left pays
  have own : idx4 k.program = p := by rw [program, idx4_val]
  unfold ClipSentIn clipEntry clipHeader at offers
  rw [own, pictureAt_of_unit held, program] at offers
  exact offers.offered one.idles.1 rfl fun t sent => by
    rw [program]
    exact sent

end

end Sys2Proof.Machine
end

section
/-! PROOFS. O42 in its clauses. -/

namespace Sys2Proof.Machine

set_option Elab.async false

section
variable {l : Fin 6} {s0 s : State}

/-- A pacing tick in which no timer expires, by what it does to each path. -/
theorem servesAt_of_refilled {refilled : Path → Path} (refills : ∀ p, refilled p = paced p) (settled : s0.tb.allocDue = false)
    (idle : (s0.path l).port = none)
    (same : s = { s0 with
      tb := timebasePacing s0.tb
      paths := Vec.tab fun k => refilled (s0.path k)
      uplink := bringTimeout s0.uplink
      sched := bringDeadline (refillBucket s0.alloc.clipRate s0.sched) })
    (quiet : ∀ k, (s.path k).silence < s.uplink.silenceTimeout)
    (young : ∀ e ∈ s.sched.window, e.isLive = true → age s e < s.sched.deadline) :
    ServesAt l .pacingTick s0 s ∧ (s.path l).port = none := by
  have all : (Vec.tab fun k => refilled (s0.path k)) = Vec.tab fun k => paced (s0.path k) :=
    congrArg Vec.tab (funext fun k => refills _)
  rw [all] at same
  have deadline : s.sched.deadlineInForce = s.sched.deadline := by rw [same]; rfl
  have timeout : s.uplink.timeoutInForce = s.uplink.silenceTimeout := by rw [same]; rfl
  rw [← deadline] at young
  rw [← timeout] at quiet
  refine ⟨servesAt_of_tick settled same quiet young, ?_⟩
  have path : s.path l = paced (s0.path l) := by
    rw [same]
    exact Vec_get_tab _ l
  rw [path, paced_port]
  exact idle

end

/-- Settles O42: the end of an event whose one path with an idle port is `l` serves that path once; what its walk of the
class order finds, it takes or waits for. -/
theorem frameSentSendsLiveData : Obligations.FrameSentSendsLiveData := by
  intro l c s0 s
  refine ⟨fun idle => ?_, ?_⟩
  · rw [exec_frameSent]
    exact congrArg Host.Outcome.next (if_pos (Option.isNone_iff_eq_none.mpr idle))
  intro refilled idles ticks happens others
  have refills (p : Path) : refilled p = paced p := by
    show (if p.st = .probing then _ else if p.st = .up ∨ p.st = .degraded then _ else p) = _
    split_ifs with probing carrying
    · exact (paced_of_probing probing).symm
    · exact (paced_of_carrying carrying).symm
    · refine (paced_of_resting ?_).symm
      cases st : p.st <;> simp_all
  have served : ServesAt l c s0 s ∧ (s.path l).port = none := by
    rcases happens with ⟨is, busy, same⟩ | ⟨is, settled, idle, same, quiet, young⟩
    · rw [is, same, modified_path]
      exact ⟨servesAt_of_frame busy, rfl⟩
    · rw [is]
      exact servesAt_of_refilled refills settled idle same quiet young
  obtain ⟨event, idle⟩ := served
  intro x d seq bits cap header sends keeps offers entry drainsWait clipsWait live fresh turn reliable queued foreign alone
    noLabel noRepair noLive oldest repairs labelled
  refine ⟨fun probing pays => ?_, fun carrying drains => ?_⟩
  · obtain ⟨t, runs, sent⟩ := probes event others probing idle pays
    refine ⟨t, runs, sent.1.trans ?_, sent.2⟩
    unfold pathProbed probeFrame probePayload
    rw [probeBytes_eq stepB_eq]
    rfl
  have carry : carries (s.path l) = true := (carries_iff _).mpr carrying
  have idles' : Idles l s := ⟨carry, idle⟩
  have labels (i : Fin 64) (k : Clip) : labelled i k = labelBody i.1 k := by
    rw [labelBody_eq]
    simp only [labelled]
    cases k.outTimecode <;> rfl
  have lives (q : Fin 4) : live q = liveLength q s := by
    show (match (s.live q).cursor with | none => 0 | some (_, off) => _) = _
    cases cursor : (s.live q).cursor with
    | none => exact (liveLength_of_none cursor).symm
    | some at' => exact (liveLength_of_cursor cursor).symm
  have one (waits : clipsWait) : OneWalks l s :=
    ⟨others, idles', drains, shipCanStart_of_waits waits.1, waits.2⟩
  have repairless (none' : noRepair) : NoRepair l s := by
    refine none'.imp_right fun own => ⟨own.1, own.2.imp_right fun together => ?_⟩
    exact Bool.eq_false_iff.mpr fun is => together (isAlone_iff.mp is)
  have liveless (none' : noLive) : FreshLives s ∧ ∀ q, liveLength q s = 0 :=
    ⟨none'.1, fun q => (lives q).symm.trans (none'.2 q)⟩
  refine ⟨fun i rest k queue found room => ?_, fun e label clips turns apart => ?_,
    fun p run off u label clips repair fresh' before some' cursor held goesOn room => ?_,
    fun k p u cursor left own held empty queue noLive' clips room => ?_, fun label queue noLive' clips cursor => ?_⟩
  · rw [labels]
    exact HeadWaits.offered ⟨others, idles', drains, queue, found, room⟩ event
  · intro resends
    have next : ResendsNext l c s0 s e :=
      ⟨one clips, event, apart, label, turns.elim (fun own => own.2.1) fun own => own.2.2,
        turns.imp (fun own => ⟨own.1, fun none' => isAlone_iff.mpr (own.2.2 none')⟩)
          fun own => ⟨repairless own.1, liveless own.2.1⟩⟩
    refine ⟨fun p run segment off len u place held => next.live place held,
      fun i p run segment off len u k place held found => next.clip place held found, fun i revision k place found => ?_⟩
    rw [labels]
    exact next.labelled place found
  · rw [lives] at some' goesOn ⊢
    exact (one clips).offeredLive event label (repairless repair) fresh' (fun q early => (lives q).symm.trans (before q early))
      some' cursor held goesOn room
  · obtain ⟨fresh', none'⟩ := liveless noLive'
    intro len payload
    have bits_eq : bits payload = packetBits (clipLength k) :=
      congrArg packetBits (streamBytes_length p k.run k.next (clipLength k) s)
    rw [bits_eq]
    refine ⟨fun fits short => ?_, fun pays => ?_⟩
    · rw [← show creditCap (s.path l) = cap from creditCap_of_carries carry] at fits
      exact (one clips).keepsClip event (.inl empty) queue fresh' none' room cursor left fits short
    · exact (one clips).offeredClip event (.inl empty) queue fresh' none' room cursor left own held pays
  · obtain ⟨fresh', none'⟩ := liveless noLive'
    exact (one clips).keepsNothing event label queue fresh' none' cursor

end Sys2Proof.Machine
end

section
/-! PROOFS. The picture period over every command (O13, R1, R2): one request, then the requests that the processor takes in
one command, and the frames of SET_STATION that the receiver takes. -/

namespace Sys2Proof.Machine

set_option Elab.async false

/-! ### The frame of a SET_STATION (R200, R201, R212) -/

/-- A request other than SET_STATION. -/
def NotStation (r : Request) : Prop := ∀ rate drop, r ≠ .setStation rate drop

/-- All that a reading gives has a property. -/
def Gives (P : Request → Prop) (read : Option (Request × List Byte)) : Prop := ∀ x, read = some x → P x.1

section
variable {P : Request → Prop}

theorem gives_bind {α : Type} {x : Option α} {g : α → Option (Request × List Byte)} (all : ∀ a, Gives P (g a)) :
    Gives P (x.bind g) := by
  intro y read
  obtain ⟨a, -, taken⟩ := Option.bind_eq_some_iff.mp read
  exact all a y taken

theorem gives_some {r : Request} {rest : List Byte} (holds : P r) : Gives P (some (r, rest)) := by
  intro x read
  rw [← Option.some.inj read]
  exact holds

theorem gives_read1 {a : Nat} {f : Nat → Request} (all : ∀ x, P (f x)) (s : List Byte) : Gives P (read1 a f s) :=
  gives_bind fun _ => gives_some (all _)

theorem gives_read2 {a b : Nat} {f : Nat → Nat → Request} (all : ∀ x y, P (f x y)) (s : List Byte) :
    Gives P (read2 a b f s) := gives_bind fun _ => gives_read1 (all _) _

theorem gives_read3 {a b c : Nat} {f : Nat → Nat → Nat → Request} (all : ∀ x y z, P (f x y z)) (s : List Byte) :
    Gives P (read3 a b c f s) := gives_bind fun _ => gives_read2 (all _) _

theorem gives_read4 {a b c d : Nat} {f : Nat → Nat → Nat → Nat → Request} (all : ∀ x y z u, P (f x y z u))
    (s : List Byte) : Gives P (read4 a b c d f s) := gives_bind fun _ => gives_read3 (all _) _

theorem gives_read5 {a b c d e : Nat} {f : Nat → Nat → Nat → Nat → Nat → Request} (all : ∀ x y z u v, P (f x y z u v))
    (s : List Byte) : Gives P (read5 a b c d e f s) := gives_bind fun _ => gives_read4 (all _) _

theorem gives_read6 {a b c d e g : Nat} {f : Nat → Nat → Nat → Nat → Nat → Nat → Request}
    (all : ∀ x y z u v w, P (f x y z u v w)) (s : List Byte) : Gives P (read6 a b c d e g f s) :=
  gives_bind fun _ => gives_read5 (all _) _

end

theorem gives_readConfigure (s : List Byte) : Gives NotStation (readConfigure s) := by
  unfold readConfigure
  iterate 15 refine gives_bind fun _ => ?_
  exact gives_read6 (fun _ _ _ _ _ _ => nofun) _

theorem gives_readLabel (s : List Byte) : Gives NotStation (readLabel s) := by
  unfold readLabel
  iterate 3 refine gives_bind fun _ => ?_
  exact gives_read2 (fun _ _ => nofun) _

theorem gives_readTableLoad (s : List Byte) : Gives NotStation (readTableLoad s) :=
  gives_bind fun _ => gives_bind fun _ => gives_some nofun

/-- No kind but 1 reads as SET_STATION. -/
theorem readingOf_notStation {kind : Nat} {f : Reading Request} (other : kind ≠ 1) (reads : readingOf kind = some f)
    (s : List Byte) : Gives NotStation (f s) := by
  unfold readingOf at reads
  split at reads
  case h_1 => exact absurd rfl other
  case h_51 => exact nomatch reads
  all_goals obtain rfl := Option.some.inj reads
  case h_3 | h_15 | h_27 | h_35 | h_37 | h_46 | h_49 | h_50 => exact gives_some nofun
  case h_6 | h_7 | h_8 | h_9 | h_11 | h_14 | h_17 | h_18 | h_19 | h_26 | h_31 | h_32 | h_34 =>
    exact gives_read1 (fun _ => nofun) s
  case h_42 | h_43 | h_44 | h_45 | h_47 | h_48 => exact gives_read1 (fun _ => nofun) s
  case h_13 | h_16 | h_23 | h_24 | h_25 | h_28 | h_29 | h_36 => exact gives_read2 (fun _ _ => nofun) s
  case h_22 | h_39 => exact gives_read3 (fun _ _ _ => nofun) s
  case h_2 | h_5 | h_20 | h_21 | h_38 => exact gives_read4 (fun _ _ _ _ => nofun) s
  case h_10 | h_40 => exact gives_read5 (fun _ _ _ _ _ => nofun) s
  case h_30 | h_33 => exact gives_read6 (fun _ _ _ _ _ _ => nofun) s
  case h_4 => exact gives_readConfigure s
  case h_12 => exact gives_readTableLoad s
  case h_41 => exact gives_readLabel s

theorem misfit_notStation (kind : Byte) (body : List Byte) : NotStation (misfit kind body) := by
  unfold misfit
  split <;> exact nofun

theorem whole_of_some {α : Type} {x : Option (α × List Byte)} {y : α} (is : whole x = some y) : x = some (y, []) := by
  obtain ⟨⟨z, rest⟩, taken, ends⟩ := Option.bind_eq_some_iff.mp is
  cases rest with
  | nil => rw [taken, ← Option.some.inj ends]
  | cons => exact nomatch ends

theorem rd_one (a : Byte) (rest : List Byte) : rd 1 (a :: rest) = some (a.toNat, rest) := by simp [rd, fromBe]

/-- The body of a SET_STATION is its two bytes. -/
theorem read2_bytes {f : Nat → Nat → Request} {body : List Byte} {r : Request} (reads : read2 1 1 f body = some (r, [])) :
    ∃ a b : Byte, body = [a, b] ∧ r = f a.toNat b.toNat := by
  match body with
  | [] => exact nomatch reads
  | [a] => exact nomatch reads
  | a :: b :: rest =>
    have two : read2 1 1 f (a :: b :: rest) = some (f a.toNat b.toNat, rest) := by simp [read2, read1, rd_one]
    rw [two] at reads
    obtain ⟨is, ends⟩ := Prod.mk.inj (Option.some.inj reads)
    exact ⟨a, b, by rw [ends], is.symm⟩

/-- A frame that reads as SET_STATION. -/
theorem readRequest_station {kind : Byte} {body : List Byte} {rate drop : Nat}
    (reads : readRequest kind body = .setStation rate drop) :
    kind = 1#8 ∧ body = [BitVec.ofNat 8 rate, BitVec.ofNat 8 drop] := by
  unfold readRequest at reads
  split at reads
  · exact nomatch reads
  next f taken =>
    cases read : whole (f body) with
    | none =>
      rw [read] at reads
      exact absurd reads (misfit_notStation kind body rate drop)
    | some r =>
      rw [read, Option.getD_some] at reads
      subst reads
      have given := whole_of_some read
      by_cases first : kind.toNat = 1
      · rw [first] at taken
        rw [← Option.some.inj taken] at given
        obtain ⟨a, b, is, same⟩ := read2_bytes given
        obtain ⟨rateIs, dropIs⟩ := Request.setStation.inj same
        refine ⟨BitVec.eq_of_toNat_eq first, ?_⟩
        rw [is, rateIs, dropIs, BitVec.ofNat_toNat, BitVec.ofNat_toNat, BitVec.setWidth_eq, BitVec.setWidth_eq]
      · exact absurd rfl (readingOf_notStation first taken body _ given rate drop)

end Sys2Proof.Machine
end

section
/-! PROOFS. The picture period over one request and over all that the request processor takes in one command (O13, R1,
R2). -/

namespace Sys2Proof.Machine

set_option Elab.async false

/-! ### One request -/

/-- No tick has been made since the state `b`. -/
def Stood (b t : State) : Prop := t.tb.picture = b.tb.picture ∧ t.tb.lastTick = b.tb.lastTick

/-- Since the last tick of the state `b` a whole period of a rate has passed at the last tick. -/
def WholePeriod (b : State) (rate : Fin 8) (t : State) : Prop :=
  b.tb.lastTick + nominalPeriod (rateRow rate) ≤ t.tb.lastTick

theorem stood_of_tb {b t u : State} (same : u.tb = t.tb) (stood : Stood b t) : Stood b u := by
  unfold Stood
  rw [same]
  exact stood

/-- A tick of SET_STATION comes a whole period of its rate after the last one. -/
theorem overdueTick_period (rate : Fin 8) (drop : Bool) (s : State) :
    let t := overdueTick (s.modTb (stationTimebase rate drop))
    Stood s t ∨ (t.tb.rate = rate ∧ WholePeriod s rate t) := by
  intro t
  by_cases free : s.tb.ref = .freeRun
  · have due : (s.modTb (stationTimebase rate drop)).tb.due = some (s.tb.lastTick + nominalPeriod (rateRow rate)) := by
      simp only [modTb_tb, stationTimebase, free]
    have takes : t = if s.tb.lastTick + nominalPeriod (rateRow rate) ≤ s.tb.now then
        takeDueTick (s.modTb (stationTimebase rate drop)) else s.modTb (stationTimebase rate drop) := by
      show overdueTick _ = _
      unfold overdueTick
      rw [due]
      rfl
    rw [takes]
    split
    · right
      unfold takeDueTick WholePeriod
      rw [due]
      dsimp only
      rw [pictureTick_tb]
      exact ⟨rfl, Nat.le_max_right _ _⟩
    · exact .inl ⟨rfl, rfl⟩
  · have locked : s.tb.ref = .locked := by
      cases ref : s.tb.ref with
      | freeRun => exact absurd ref free
      | locked => rfl
    have due : (s.modTb (stationTimebase rate drop)).tb.due = none := by
      simp only [modTb_tb, stationTimebase, locked]
    have takes : t = s.modTb (stationTimebase rate drop) := by
      show overdueTick _ = _
      unfold overdueTick
      rw [due]
    rw [takes]
    exact .inl ⟨rfl, rfl⟩

theorem reqSetStation_period (rate drop : Nat) (s : State) :
    let t := (reqSetStation rate drop s).2
    Stood s t ∨ ∃ code : Fin 8, code.1 = rate ∧ t.tb.rate = code ∧ WholePeriod s code t := by
  unfold reqSetStation
  by_cases pass : ∀ ok ∈ [decide (rate ≤ 7), isFlag drop && (!flagOf drop || (rateRow (Fin.ofNat 8 rate)).dropAllowed)],
      ok = true
  · rw [checked_of_pass s _ pass]
    have range : rate ≤ 7 := of_decide_eq_true (pass _ List.mem_cons_self)
    split
    · exact .inl ⟨rfl, rfl⟩
    · exact (overdueTick_period (Fin.ofNat 8 rate) (flagOf drop) s).imp id fun ticks =>
        ⟨Fin.ofNat 8 rate, Nat.mod_eq_of_lt (by omega), ticks⟩
  · obtain ⟨k, -, -, refused⟩ := checked_of_fail s _ pass
    rw [refused]
    exact .inl ⟨rfl, rfl⟩

/-- A request makes no tick, or it is a SET_STATION and the tick comes a whole period of its rate after the last one. -/
theorem perform_period (r : Request) (s : State) :
    let t := (perform r s).2
    Stood s t ∨ ∃ (code : Fin 8) (drop : Nat), r = .setStation code.1 drop ∧ t.tb.rate = code ∧ WholePeriod s code t := by
  by_cases untouched : Part.tb ∉ r.parts
  · exact .inl (stood_of_tb ((perform_frame r s).same .tb untouched) ⟨rfl, rfl⟩)
  · cases r <;> simp only [Request.parts] at untouched
    case setStation rate drop =>
      refine (reqSetStation_period rate drop s).imp id fun ticks => ?_
      obtain ⟨code, is, ticks⟩ := ticks
      exact ⟨code, drop, by rw [is], ticks⟩
    case setTimecode label =>
      left
      unfold perform atOnce reqSetTimecode checked
      dsimp only
      split <;> exact ⟨rfl, rfl⟩
    all_goals exact absurd (by decide) untouched

/-! ### The requests that one command takes (R203) -/

/-- The requests of SET_STATION with a known rate alone. -/
def Fits (known : Fin 8 → Prop) (r : Request) : Prop := ∀ (rate : Fin 8) drop, r = .setStation rate.1 drop → known rate

/-- The timebase in the course of a command: it has made no tick since `b`, or a SET_STATION of a known rate made one. -/
structure Periods (b : State) (known : Fin 8 → Prop) (t : State) : Prop where
  ordered : TimebaseOrdered t
  period : Stood b t ∨ ∃ rate, known rate ∧ WholePeriod b rate t

/-- The state in the course of a command whose requests that wait are known. -/
structure Tracks (b : State) (known : Fin 8 → Prop) (rx : Receiver) (t : State) : Prop extends Periods b known t where
  waits : ∀ w ∈ t.link.requests, Fits known w.req
  ready : t.link.ready = true
  rx : t.link.rx = rx

section
variable {b t u : State} {known : Fin 8 → Prop} {rx : Receiver}

theorem Periods.later (kept : Periods b known t) : b.tb.lastTick ≤ t.tb.lastTick := by
  rcases kept.period with stood | ⟨rate, -, whole⟩
  · exact stood.2.ge
  · exact (Nat.le_add_right _ _).trans whole

theorem WholePeriod.of_later {rate : Fin 8} (whole : WholePeriod b rate t) (later : t.tb.lastTick ≤ u.tb.lastTick) :
    WholePeriod b rate u := Nat.le_trans whole later

theorem WholePeriod.of_earlier {rate : Fin 8} (whole : WholePeriod t rate u) (later : b.tb.lastTick ≤ t.tb.lastTick) :
    WholePeriod b rate u := (Nat.add_le_add_right later _).trans whole

theorem Periods.of_tb (kept : Periods b known t) (tb : u.tb = t.tb) : Periods b known u where
  ordered := timebaseOrdered_of_tb tb kept.ordered
  period := kept.period.imp (stood_of_tb tb) fun ⟨rate, is, whole⟩ => ⟨rate, is, whole.of_later (by rw [tb])⟩

theorem Periods.perform {r : Request} (kept : Periods b known t) (fits : Fits known r) :
    Periods b known (Machine.perform r t).2 where
  ordered := perform_ordered r t kept.ordered
  period := by
    rcases perform_period r t with stood | ⟨rate, drop, is, -, whole⟩
    · exact kept.period.imp (fun before => ⟨stood.1.trans before.1, stood.2.trans before.2⟩)
        fun ⟨rate, is, whole⟩ => ⟨rate, is, whole.of_later stood.2.ge⟩
    · exact .inr ⟨rate, fits rate drop is, whole.of_earlier kept.later⟩

theorem Periods.process {w : Waiting} (kept : Periods b known t) (fits : Fits known w.req) :
    Periods b known (Machine.process w t) :=
  ((kept.of_tb (u := t.modLink countRequest) rfl).perform fits).of_tb rfl

theorem process_queues (w : Waiting) (t : State) : (process w t).link.requests = t.link.requests ∧
    (process w t).link.ready = t.link.ready ∧ (process w t).link.rx = t.link.rx := by
  have kept := (perform_frame w.req (t.modLink countRequest)).queues
  exact ⟨kept.requests, kept.ready, kept.rx⟩

/-- What leaves the timebase and the receiver, and adds no request. -/
theorem Tracks.of_same (tracks : Tracks b known rx t) (tb : u.tb = t.tb) (ready : u.link.ready = t.link.ready)
    (receiver : u.link.rx = t.link.rx) (requests : u.link.requests ⊆ t.link.requests) : Tracks b known rx u where
  toPeriods := tracks.toPeriods.of_tb tb
  waits := fun w mem => tracks.waits w (requests mem)
  ready := ready.trans tracks.ready
  rx := receiver.trans tracks.rx

theorem Tracks.of_queues {ps : List Part} (tracks : Tracks b known rx t) (kept : Inner ps t u) (tb : Part.tb ∉ ps) :
    Tracks b known rx u :=
  tracks.of_same (kept.same .tb tb) kept.queues.ready kept.queues.rx (by rw [kept.queues.requests]; exact fun _ h => h)

theorem Tracks.process {w : Waiting} (tracks : Tracks b known rx t) (fits : Fits known w.req) :
    Tracks b known rx (Machine.process w t) := by
  obtain ⟨requests, ready, receiver⟩ := process_queues w t
  refine ⟨tracks.toPeriods.process fits, ?_, ready.trans tracks.ready, receiver.trans tracks.rx⟩
  rw [requests]
  exact tracks.waits

theorem Tracks.pumpN (n : Nat) : ∀ {t : State}, Tracks b known rx t → Tracks b known rx (Machine.pumpN n t) := by
  induction n with
  | zero => exact id
  | succ n ih =>
    intro t tracks
    unfold Machine.pumpN
    split
    · exact tracks
    next w rest waiting =>
      split
      · have taken : Tracks b known rx (t.modLink fun l => { l with requests := rest }) :=
          tracks.of_same rfl rfl rfl (by rw [waiting]; exact List.subset_cons_self w rest)
        exact ih (taken.process (tracks.waits w (by rw [waiting]; exact List.mem_cons_self)))
      · exact tracks

theorem Tracks.pump (tracks : Tracks b known rx t) : Tracks b known rx (Machine.pump t) := .pumpN _ tracks

theorem Tracks.frameDone (x : Sending) (tracks : Tracks b known rx t) : Tracks b known rx (Machine.frameDone x t) := by
  unfold Machine.frameDone
  split
  · have left : Tracks b known rx (t.modLink fun l => { l with notices := l.notices.eraseIdx x.index, sending := none }) :=
      tracks.of_same rfl rfl rfl fun _ h => h
    exact (left.of_queues (noticeLostTest_inner _) (by decide)).pump
  · exact Tracks.pump (tracks.of_same rfl rfl rfl fun _ h => h)

theorem Tracks.clockOut (tracks : Tracks b known rx t) : Tracks b known rx (Machine.clockOut t) := by
  unfold Machine.clockOut
  split
  · split
    · exact tracks
    · split
      · exact tracks.frameDone _
      · exact tracks.of_same rfl rfl rfl fun _ h => h
  · exact tracks

theorem Tracks.outboundFrameSent (tracks : Tracks b known rx t) : Tracks b known rx (Machine.outboundFrameSent t) := by
  unfold Machine.outboundFrameSent
  split
  · split
    · exact tracks
    · exact tracks.frameDone _
  · exact tracks

theorem Tracks.acceptFrame {w : Waiting} (tracks : Tracks b known rx t)
    (fits : Fits known w.req) : Tracks b known rx (Machine.acceptFrame w t) := by
  unfold Machine.acceptFrame
  split
  · refine Tracks.pump { tracks with waits := fun v mem => ?_ }
    rcases List.mem_append.mp mem with old | new
    · exact tracks.waits v old
    · rw [List.mem_singleton.mp new]
      exact fits
  · dsimp only
    split
    · exact tracks.of_same rfl rfl rfl fun _ h => h
    · exact tracks.of_same rfl rfl rfl fun _ h => h

/-- The processor takes the requests that wait, and the command's own one last. -/
theorem pumpN_own (own : Waiting) (ws : List Waiting) : ∀ {t : State}, t.link.requests = ws ++ [own] →
    (∀ w ∈ ws, Fits known w.req) → Periods b known t →
    let u := pumpN (ws.length + 1) t
    ∃ v, Periods b known v ∧ (u.tb = v.tb ∨ u.tb = (perform own.req v).2.tb) := by
  induction ws with
  | nil =>
    intro t waiting _ kept
    unfold pumpN
    rw [waiting]
    dsimp only [List.nil_append]
    split
    · exact ⟨_, kept.of_tb (u := (t.modLink fun l => { l with requests := [] }).modLink countRequest) rfl, .inr rfl⟩
    · exact ⟨t, kept, .inl rfl⟩
  | cons w ws ih =>
    intro t waiting fits kept
    rw [List.length_cons]
    unfold pumpN
    rw [waiting]
    dsimp only [List.cons_append]
    split
    · have taken : Periods b known (t.modLink fun l => { l with requests := ws ++ [own] }) := kept.of_tb rfl
      exact ih (process_queues w _).1 (fun v mem => fits v (List.mem_cons_of_mem _ mem))
        (taken.process (fits w List.mem_cons_self))
    · exact ⟨t, kept, .inl rfl⟩

end

end Sys2Proof.Machine
end

section
/-! PROOFS. No picture period is shorter than half the nominal period (O13, R1, R2): the frames that the receiver takes in
one INBOUND_FRAME, and the commands that make a tick. -/

namespace Sys2Proof.Machine

set_option Elab.async false

/-! ### The bytes that the receiver holds (R201) -/

/-- The bytes of content and check that the receiver has taken of a frame. -/
def heldBytes : Receiver → List Byte
  | .hunt .. => []
  | .length _ => []
  | .content _ got => got
  | .check got none => got
  | .check got (some a) => got ++ [a]

/-- The content and the check of a SET_STATION of a rate stand in a run of bytes. -/
def Framed (all : List Byte) (rate : Fin 8) : Prop := ∃ (drop : Nat) (tag : Byte),
  let content : List Byte := [tag, 1#8, BitVec.ofNat 8 rate, BitVec.ofNat 8 drop]
  content ++ u16 (crc16 (u16 4 ++ content)) <:+: all

/-- A SET_STATION of a rate waits in the request queue. -/
def Queued (s : State) (rate : Fin 8) : Prop := ∃ (drop : Nat) (tag : Byte),
  ⟨tag, .setStation rate.1 drop⟩ ∈ s.link.requests

theorem u16_fromBe (a b : Byte) : u16 (fromBe [a, b]) = [a, b] := by
  have upper := a.isLt
  have lower := b.isLt
  have value : fromBe [a, b] = a.toNat * 256 + b.toNat := by simp [fromBe]
  have first : BitVec.ofNat 8 ((a.toNat * 256 + b.toNat) / 256 ^ 1) = a := BitVec.eq_of_toNat_eq (by
    rw [BitVec.toNat_ofNat]
    omega)
  have second : BitVec.ofNat 8 ((a.toNat * 256 + b.toNat) / 256 ^ 0) = b := BitVec.eq_of_toNat_eq (by
    rw [BitVec.toNat_ofNat]
    omega)
  rw [value, u16, be, be, be, first, second]

/-- A frame that is accepted and carries a SET_STATION. -/
theorem framed_of_frame {all content : List Byte} {tag kind a b : Byte} {body : List Byte}
    (is : content = tag :: kind :: body) (check : fromBe [a, b] = crc16 (u16 content.length ++ content))
    (held : content ++ [a, b] <:+: all) : Fits (Framed all) (readRequest kind body) := by
  intro rate drop reads
  obtain ⟨one, bytes⟩ := readRequest_station reads
  refine ⟨drop, tag, ?_⟩
  have four : content = [tag, 1#8, BitVec.ofNat 8 rate, BitVec.ofNat 8 drop] := by rw [is, one, bytes]
  dsimp only
  have size : (4 : Nat) = content.length := by rw [four]; rfl
  rw [← four, size, ← check, u16_fromBe]
  exact held

section
variable {b t : State} {rx : Receiver} {all : List Byte}

theorem Tracks.mono {p q : Fin 8 → Prop} (tracks : Tracks b p rx t) (wider : ∀ r, p r → q r) : Tracks b q rx t where
  ordered := tracks.ordered
  period := tracks.period.imp id fun ⟨rate, is, whole⟩ => ⟨rate, wider rate is, whole⟩
  waits := fun w mem rate drop is => wider rate (tracks.waits w mem rate drop is)
  ready := tracks.ready
  rx := tracks.rx

theorem suffix_snoc {xs ys : List Byte} (x : Byte) (h : xs <:+ ys) : xs ++ [x] <:+ ys ++ [x] := by
  obtain ⟨front, is⟩ := h
  exact ⟨front, by rw [← is, List.append_assoc]⟩

/-- What the receiver holds after a byte, and the request that the byte ends. -/
theorem Tracks.takeByte {known : Fin 8 → Prop} (tracks : Tracks b known rx t) (held : heldBytes rx <:+ all) (x : Byte)
    (frames : ∀ rate, Framed (all ++ [x]) rate → known rate) :
    ∃ rx', Tracks b known rx' (Machine.takeByte x t) ∧ heldBytes rx' <:+ all ++ [x] := by
  have moved (f : Link → Link) (keeps : ∀ l, (f l).ready = l.ready ∧ (f l).requests = l.requests) :
      Tracks b known (f t.link).rx (t.modLink f) := {
    toPeriods := tracks.toPeriods.of_tb rfl
    waits := fun w mem => tracks.waits w (by rw [← (keeps t.link).2]; exact mem)
    ready := (keeps t.link).1.trans tracks.ready
    rx := rfl }
  have nothing : ([] : List Byte) <:+ all ++ [x] := List.nil_suffix
  have receiver := tracks.rx
  unfold Machine.takeByte
  rw [receiver]
  cases rx with
  | hunt inRun fresh =>
    refine ⟨_, moved (huntByte inRun fresh x) fun l => ?_, ?_⟩
    · unfold huntByte
      split_ifs <;> exact ⟨rfl, rfl⟩
    · unfold huntByte
      split_ifs <;> exact nothing
  | length first =>
    cases first with
    | none => exact ⟨_, moved (fun l => { l with rx := .length (some x) }) fun _ => ⟨rfl, rfl⟩, nothing⟩
    | some a =>
      dsimp only
      split
      · exact ⟨_, moved (fun l => { l with rx := .content (fromBe [a, x]) [] }) fun _ => ⟨rfl, rfl⟩, nothing⟩
      · exact ⟨_, moved (fun l => linkError { l with rx := .hunt false true }) fun _ => ⟨rfl, rfl⟩, nothing⟩
  | content n got =>
    have more := suffix_snoc x held
    dsimp only
    split
    · exact ⟨_, moved (fun l => { l with rx := .content n (got ++ [x]) }) fun _ => ⟨rfl, rfl⟩, more⟩
    · exact ⟨_, moved (fun l => { l with rx := .check (got ++ [x]) none }) fun _ => ⟨rfl, rfl⟩, more⟩
  | check got first =>
    have more := suffix_snoc x held
    cases first with
    | none => exact ⟨_, moved (fun l => { l with rx := .check got (some x) }) fun _ => ⟨rfl, rfl⟩, more⟩
    | some a =>
      dsimp only
      unfold frameTaken
      split
      next check =>
        have left := moved (fun l => { l with rx := .hunt false false }) fun _ => ⟨rfl, rfl⟩
        have frame : got ++ [a, x] <:+: all ++ [x] := by
          have whole : heldBytes (.check got (some a)) ++ [x] = got ++ [a, x] := List.append_assoc got [a] [x]
          rw [← whole]
          exact more.isInfix
        split
        next content tag kind body =>
          have fits : Fits known (readRequest kind body) := fun rate drop reads =>
            frames rate (framed_of_frame rfl check frame rate drop reads)
          exact ⟨_, left.acceptFrame fits, nothing⟩
        · exact ⟨_, left, nothing⟩
      · exact ⟨_, moved (fun l => linkError { l with rx := .hunt false true }) fun _ => ⟨rfl, rfl⟩, nothing⟩

/-- The requests of an INBOUND_FRAME: those that waited, and those whose frames end in its bytes. -/
theorem Tracks.exchange (bytes : List Byte) : ∀ {t : State} {all : List Byte} {rx : Receiver},
    Tracks b (fun rate => Queued b rate ∨ Framed all rate) rx t → heldBytes rx <:+ all →
    ∃ rx', Tracks b (fun rate => Queued b rate ∨ Framed (all ++ bytes) rate) rx' (Machine.exchange bytes t) := by
  induction bytes with
  | nil =>
    intro t all rx tracks _
    rw [List.append_nil]
    exact ⟨rx, tracks⟩
  | cons x bytes ih =>
    intro t all rx tracks held
    have wider (rate : Fin 8) (is : Queued b rate ∨ Framed all rate) : Queued b rate ∨ Framed (all ++ [x]) rate :=
      is.imp_right fun ⟨drop, tag, inside⟩ => ⟨drop, tag, inside.trans (List.prefix_append all [x]).isInfix⟩
    obtain ⟨rx', taken, held'⟩ := (tracks.clockOut.mono wider).takeByte held x fun rate framed => .inr framed
    have byte : exchangeByte t x = Machine.takeByte x (Machine.clockOut t) := if_pos tracks.ready
    have rest := ih taken held'
    rw [List.append_assoc, List.singleton_append] at rest
    unfold Machine.exchange at rest ⊢
    rw [List.foldl_cons, byte]
    exact rest

end

end Sys2Proof.Machine
end

section
/-! PROOFS. O13 in its cases: the commands that make a tick of the timebase's own, and those that take requests. -/

namespace Sys2Proof.Machine

set_option Elab.async false

/-! ### The ticks of the timebase (R2, R3) -/

/-- No tick, or one half a period or more after the last one. -/
def HalfPeriod (s t : State) : Prop := t.tb.picture = s.tb.picture ∨
  nominalPeriod (rateRow t.tb.rate) ≤ 2 * (t.tb.lastTick - s.tb.lastTick)

theorem HalfPeriod.of_whole {s t : State} (whole : WholePeriod s t.tb.rate t) : HalfPeriod s t := by
  unfold WholePeriod at whole
  exact .inr (by omega)

theorem HalfPeriod.of_tb {s t u : State} (half : HalfPeriod s t) (same : u.tb = t.tb) : HalfPeriod s u := by
  unfold HalfPeriod
  rw [same]
  exact half

theorem takePulse_half (s : State) : HalfPeriod s (takePulse s) := by
  unfold takePulse
  dsimp only
  split
  next late =>
    refine HalfPeriod.of_tb (.inr ?_) ((referenceBack_inner _ _).same .tb (by decide))
    rw [pictureTick_tb]
    exact late
  · have stands : HalfPeriod s (s.modTb fun t =>
        { t with due := some (s.tb.now + period s), ref := .locked, rephaseCount := incSat16 t.rephaseCount }) := .inl rfl
    exact stands.of_tb ((referenceBack_inner _ _).same .tb (by decide))

theorem takeDueTick_half {s : State} (ordered : TimebaseOrdered s) : HalfPeriod s (takeDueTick s) := by
  unfold takeDueTick
  split
  · exact .inl rfl
  next due is =>
    refine .of_whole ?_
    unfold WholePeriod
    rw [pictureTick_tb]
    exact (ordered.2.1 due is).trans (Nat.le_max_right _ _)

theorem takeLossExpiry_half (s : State) : HalfPeriod s (takeLossExpiry s) := by
  have raised (t : State) : (raise .referenceLost [] t).tb = t.tb := (raise_flags .referenceLost [] t).same .tb (by decide)
  unfold takeLossExpiry
  split
  · dsimp only
    refine .of_whole ?_
    unfold WholePeriod
    rw [pictureTick_tb, raised]
    exact (show s.tb.lastTick + period s ≤ s.tb.lastTick + 2 * period s by omega).trans (Nat.le_max_right _ _)
  · exact .inl rfl

theorem takeAllocationTick_stood (s : State) : Stood s (takeAllocationTick s) := by
  unfold takeAllocationTick
  split
  · exact stood_of_tb ((runAllocator_inner _ _).same .tb (by decide)) ⟨rfl, rfl⟩
  · exact ⟨rfl, rfl⟩

theorem pacingTick_stood (s : State) : Stood s (pacingTick s) := by
  have settled : Stood s (pacingRefilled s) := by
    unfold pacingRefilled
    refine stood_of_tb (t := ((takeAllocationTick s).modTb timebasePacing).modUplink bringTimeout) ?_ (takeAllocationTick_stood s)
    exact ((modSched_inner' _ _).same .tb (by decide)).trans
      ((Inner.eachPath (ps := [.paths]) _ (fun l t => modPath_inner t l _) _).same .tb (by decide))
  rw [pacingTick_eq]
  refine stood_of_tb ?_ settled
  exact ((settle_inner _).same .tb (by decide)).trans
    (((letAsk_inner _).same .tb (by decide)).trans ((expiries_inner _ _).same .tb (by decide)))

theorem becomeReady_stood (s : State) : Stood s (becomeReady s) := by
  unfold becomeReady
  split
  · exact ⟨rfl, rfl⟩
  · exact stood_of_tb ((makeNotice_inner _ _ _).same .tb (by decide)) ⟨rfl, rfl⟩

theorem endTableCheck_stood (table : Fin 2) (s : State) : Stood s (endTableCheck table s) := by
  unfold endTableCheck
  split <;> exact ⟨rfl, rfl⟩

/-! ### The commands that take requests -/

theorem arrive_tracks {s : State} (time : Nat) (ordered : TimebaseOrdered s) (ready : s.link.ready = true)
    {known : Fin 8 → Prop} (queued : ∀ rate, Queued s rate → known rate) : Tracks s known s.link.rx (arrive time s) where
  ordered := arrive_ordered time s ordered
  period := .inl ⟨rfl, rfl⟩
  waits := fun w mem rate drop is => queued rate ⟨drop, w.tag, by rw [← is]; exact mem⟩
  ready := ready
  rx := rfl

/-- A tick that the command's own request made, or one that a request made which waited. -/
def OwnOrQueued (s t : State) : Prop := HalfPeriod s t ∨ ∃ rate, Queued s rate ∧ WholePeriod s rate t

theorem OwnOrQueued.of_tb {s t u : State} (either : OwnOrQueued s t) (same : u.tb = t.tb) : OwnOrQueued s u :=
  either.imp (fun half => half.of_tb same) fun ⟨rate, queued, whole⟩ => ⟨rate, queued, whole.of_later (by rw [same])⟩

theorem Periods.ownOrQueued {s v : State} (kept : Periods s (Queued s) v) : OwnOrQueued s v :=
  kept.period.imp (fun stood => .inl stood.1) id

theorem Periods.ownOrQueued_perform {s v : State} (kept : Periods s (Queued s) v) (r : Request) :
    OwnOrQueued s (Machine.perform r v).2 := by
  rcases perform_period r v with stood | ⟨rate, drop, -, same, whole⟩
  · exact kept.period.imp (fun before => .inl (stood.1.trans before.1))
      fun ⟨rate, queued, whole⟩ => ⟨rate, queued, whole.of_later stood.2.ge⟩
  · refine .inl (.of_whole ?_)
    rw [same]
    exact whole.of_earlier kept.later

/-- A command that carries a request takes those that wait, and its own one last. -/
theorem submit_period {s : State} (time : Nat) (tag : Byte) (r : Request) (ordered : TimebaseOrdered s) :
    OwnOrQueued s (submit tag r (arrive time s)) := by
  by_cases ready : s.link.ready = true
  · rw [submit_of_ready tag r (s := arrive time s) ready]
    have tracks := arrive_tracks time ordered ready (known := Queued s) fun _ queued => queued
    by_cases room : s.link.requests.length < 16
    · rw [acceptFrame_of_room (s := arrive time s) ⟨tag, r⟩ room]
      have kept : Periods s (Queued s) ((arrive time s).modLink fun l => { l with requests := l.requests ++ [⟨tag, r⟩] }) :=
        tracks.toPeriods.of_tb rfl
      obtain ⟨v, kept', ends⟩ := pumpN_own ⟨tag, r⟩ s.link.requests rfl tracks.waits kept
      have length : ((arrive time s).link.requests ++ [(⟨tag, r⟩ : Waiting)]).length = s.link.requests.length + 1 :=
        List.length_append
      unfold pump
      rw [modLink_link]
      dsimp only
      rw [length]
      exact ends.elim (fun same => kept'.ownOrQueued.of_tb same) fun same => (kept'.ownOrQueued_perform r).of_tb same
    · rw [acceptFrame_of_waiting (s := arrive time s) ⟨tag, r⟩ (Nat.not_lt.mp room)]
      refine tracks.toPeriods.ownOrQueued.of_tb ?_
      split <;> rfl
  · have off : submit tag r (arrive time s) = arrive time s := if_neg ready
    rw [off]
    exact .inl (.inl rfl)

/-- Settles O13: a tick of the timebase comes half a period or more after the last one by the command's own test; a tick of
SET_STATION comes a whole period of its rate after it, and only a request that follows in the same command sets another rate. -/
theorem noPeriodShorterThanHalf : Obligations.NoPeriodShorterThanHalf := by
  intro s t c ordered notReset run ticked since held
  have half (short : HalfPeriod s t) : nominalPeriod (rateRow t.tb.rate) ≤ 2 * since := short.resolve_left ticked
  have stood (stands : Stood s t) : nominalPeriod (rateRow t.tb.rate) ≤ 2 * since := absurd stands.1 ticked
  have since_of {rate : Fin 8} (whole : WholePeriod s rate t) : nominalPeriod (rateRow rate) ≤ since :=
    Nat.le_sub_of_add_le' whole
  have held_eq : held = heldBytes s.link.rx := rfl
  cases exec_effect run with
  | request tag r time is =>
    refine (submit_period time tag r ordered).imp half fun ⟨rate, ⟨drop, tag', mem⟩, whole⟩ => ?_
    exact ⟨rate, drop, tag', since_of whole, .inl ⟨mem, .inl (by rw [is]; rfl)⟩⟩
  | hardReset is => exact absurd is notReset
  | linkReady _ => exact .inl (stood (becomeReady_stood s))
  | inboundFrame time bytes is =>
    by_cases ready : s.link.ready = true
    · have start := arrive_tracks time ordered ready (known := fun rate => Queued s rate ∨ Framed held rate)
        fun _ queued => .inl queued
      obtain ⟨rx, tracks⟩ := start.exchange bytes (all := held) (by rw [held_eq])
      refine tracks.period.imp stood fun ⟨rate, known, whole⟩ => ?_
      rcases known with ⟨drop, tag, mem⟩ | ⟨drop, tag, inside⟩
      · exact ⟨rate, drop, tag, since_of whole, .inl ⟨mem, .inr (.inr ⟨time, bytes, is⟩)⟩⟩
      · exact ⟨rate, drop, tag, since_of whole, .inr ⟨time, bytes, is, inside⟩⟩
    · have off : exchange bytes (arrive time s) = arrive time s :=
        exchange_of_not_ready bytes (s := arrive time s) (Bool.eq_false_iff.mpr ready)
      rw [off] at ticked
      exact absurd rfl ticked
  | outboundFrameSent time is =>
    by_cases ready : s.link.ready = true
    · have tracks := (arrive_tracks time ordered ready (known := Queued s) fun _ queued => queued).outboundFrameSent
      refine tracks.period.imp stood fun ⟨rate, ⟨drop, tag, mem⟩, whole⟩ => ?_
      exact ⟨rate, drop, tag, since_of whole, .inl ⟨mem, .inr (.inl ⟨time, is⟩)⟩⟩
    · have off : outboundFrameSent (arrive time s) = arrive time s := if_neg ready
      rw [off] at ticked
      exact absurd rfl ticked
  | tableCheckEnd table _ => exact .inl (stood (endTableCheck_stood table s))
  | referencePulse time _ => exact .inl (half (takePulse_half (arrive time s)))
  | dueTick _ => exact .inl (half (takeDueTick_half ordered))
  | lossExpiry _ => exact .inl (half (takeLossExpiry_half s))
  | pacingTick _ => exact .inl (stood (pacingTick_stood s))
  | allocationTick _ => exact .inl (stood (takeAllocationTick_stood s))
  | event _ kept => exact .inl (stood (stood_of_tb (kept.same .tb (by decide)) ⟨rfl, rfl⟩))

end Sys2Proof.Machine
end
